-- ==== Sys2Proof/Word.lean ====
section
/-! DEFINITION. The word types of Limvan: 64-bit registers (R112), bytes, register numbers. -/

namespace Sys2Proof

/-- A general or control register value (R112, R150). -/
abbrev Word := BitVec 64

/-- The smallest addressable unit of every memory (R4). -/
abbrev Byte := BitVec 8

/-- A general register number g0 to g31 (R112). -/
abbrev Reg := BitVec 5

/-- The all-ones word, 2^64 − 1: what DIV by zero, LDEP of an invalid label and a busy try form write. -/
def Word.ones : Word := 0xFFFFFFFFFFFFFFFF

/-- A Nat as a register value, modulo 2^64. -/
def word (n : Nat) : Word := BitVec.ofNat 64 n

end Sys2Proof
end

