-- ==== Sys2Proof/Machine/Store.lean ====
section
/-! DEFINITION. Sparse data by key: `Store`, a list of (key, value) pairs with strictly rising keys, and `Memory`, the
same for bytes, in which no entry equals what an unlisted address reads as (zero: R354 step 8 zeroes every memory). -/

namespace Sys2Proof.Machine

/-- Values by number, keys strictly rising. -/
abbrev Store (α : Type) := List (Nat × α)

/-- The value at a key. -/
def Store.find {α : Type} : Store α → Nat → Option α
  | [], _ => none
  | (k, v) :: m, a => if k = a then some v else Store.find m a

/-- Sets the value at a key. -/
def Store.put {α : Type} : Store α → Nat → α → Store α
  | [], a, x => [(a, x)]
  | (k, v) :: m, a, x =>
    if k = a then (a, x) :: m else if a < k then (a, x) :: (k, v) :: m else (k, v) :: Store.put m a x

/-- Removes a key. -/
def Store.del {α : Type} (m : Store α) (a : Nat) : Store α := m.filter (fun p => decide (p.1 ≠ a))

/-- Changes the value at a key, if there is one. -/
def Store.upd {α : Type} (m : Store α) (a : Nat) (f : α → α) : Store α :=
  match Store.find m a with
  | some v => Store.put m a (f v)
  | none => m

/-- The keys. -/
def Store.keys {α : Type} (m : Store α) : List Nat := m.map (·.1)

/-- The values, in key order. -/
def Store.vals {α : Type} (m : Store α) : List α := m.map (·.2)

/-- Keys strictly rise. -/
def Store.wf {α : Type} : Store α → Bool
  | [] => true
  | (k, _) :: m => (match m with | [] => true | (k', _) :: _ => decide (k < k')) && Store.wf m

/-- One memory: (address, byte) pairs in canonical form. -/
abbrev Memory := List (Nat × Byte)

/-- What an unlisted byte reads as: a start zeroes every memory (R354). -/
def Memory.blank : Byte := 0

/-- The byte at an address. -/
def Memory.read (m : Memory) (a : Nat) : Byte := (Store.find m a).getD Memory.blank

/-- Writes one byte, keeping the canonical form. -/
def Memory.write (m : Memory) (a : Nat) (b : Byte) : Memory :=
  if b = Memory.blank then Store.del m a else Store.put m a b

/-- The canonical form: addresses strictly rising, no entry equal to an unlisted byte. -/
def Memory.wf (m : Memory) : Bool := Store.wf m && m.all (fun c => decide (c.2 ≠ Memory.blank))

/-- `n` bytes from `a` up, as a little-endian number (R4). -/
def Memory.readLe (m : Memory) (a : Nat) : Nat → Nat
  | 0 => 0
  | n + 1 => (m.read a).toNat + 256 * Memory.readLe m (a + 1) n

/-- Writes the low `n` bytes of a number from `a` up, little-endian (R4). -/
def Memory.writeLe (m : Memory) (a : Nat) : Nat → Nat → Memory
  | 0, _ => m
  | n + 1, v => Memory.writeLe (m.write a (BitVec.ofNat 8 v)) (a + 1) n (v / 256)

/-- Zeroes `n` bytes from `a` up. -/
def Memory.zero (m : Memory) (a n : Nat) : Memory := m.filter (fun c => !(decide (a ≤ c.1) && decide (c.1 < a + n)))

/-- The `n` bytes from `a` up, lowest address first. -/
def Memory.bytes (m : Memory) (a : Nat) : Nat → List Byte
  | 0 => []
  | n + 1 => m.read a :: Memory.bytes m (a + 1) n

/-- Writes bytes from `a` up. -/
def Memory.writeBytes (m : Memory) (a : Nat) : List Byte → Memory
  | [] => m
  | b :: bs => Memory.writeBytes (m.write a b) (a + 1) bs

/-- Writes every cell of one memory into another. -/
def Memory.join (m : Memory) (c : Memory) : Memory := c.foldl (fun (m : Memory) (p : Nat × Byte) => m.write p.1 p.2) m

end Sys2Proof.Machine
end

