-- ==== Sys2Proof/Syntax.lean ====
section
/-! DEFINITION. The abstract syntax: one constructor of `Instr` per row of the opcode table. The first 168 rows are
slot instructions (scalar slot, then vector slot, R111); the other 85 are the events of the module, which have no
encoding (95_what_each_step_holds.md) and name what they act on by plain numbers. -/

namespace Sys2Proof

/-- COND of CMP and CMPI (Table 6.4). -/
inductive Cond where
  | eq | ne | lt | ge | ltn | gen | bs | bc
  deriving DecidableEq, Repr

/-- SIZE (Table 6.4). -/
inductive Size where
  | b8 | b16 | b32 | b64
  deriving DecidableEq, Repr

/-- ORD (Table 6.4). -/
inductive MemOrd where
  | plain | acq | rel | acqRel
  deriving DecidableEq, Repr

/-- SCOPE (Table 6.4); each is also a level of sharing (Table 1.6). -/
inductive Scope where
  | core | tile | die | mod | pod | sys
  deriving DecidableEq, Repr

/-- AOP (Table 6.4, Table 8.3). -/
inductive Aop where
  | add | and | or | xor | swap | min | max | minn | maxn | fadd
  deriving DecidableEq, Repr

/-- STUB of LMOV and LREB (Table 6.8). -/
inductive Stub where
  | noStub | redirect | fault
  deriving DecidableEq, Repr

/-- Element types (Table 5.1), in the order of their codes 0 to 12. -/
inductive Ty where
  | s8 | s16 | s32 | s64 | n8 | n16 | n32 | n64 | f32 | f16 | bf16 | f8 | q4x
  deriving DecidableEq, Repr

/-- The four rounding modes (Table 5.5). -/
inductive RMode where
  | rne | rtz | rup | rdn
  deriving DecidableEq, Repr

/-- The DYN and RND bits of a vector slot (R96): `dyn` takes the mode from cr.frm, `fixed m` is DYN 0 with RND m. A
member that does not round carries `fixed rne`, whose bits are all zero. -/
inductive Rnd where
  | dyn | fixed (m : RMode)
  deriving DecidableEq, Repr

/-- Predicates of VCMP (R202). -/
inductive VPred where
  | eq | ne | lt | ge | gt | le
  deriving DecidableEq, Repr

/-- Reductions of VRED (R204). -/
inductive RedOp where
  | sum | max | min | and | or
  deriving DecidableEq, Repr

/-- Scans of VSCAN (R205). -/
inductive ScanOp where
  | sum | max
  deriving DecidableEq, Repr

/-- The instructions and events of the part, one constructor per row of the opcode table. -/
inductive Instr where
  /-- SNOP (R111): Scalar-slot no-op; the all-zero scalar slot does nothing. -/
  | snop
  /-- ADD (R137): Writes the 64-bit wrapped sum of two registers. -/
  | add (d : Reg) (a : Reg) (b : Reg)
  /-- SUB (R137): Writes the 64-bit wrapped difference of two registers. -/
  | sub (d : Reg) (a : Reg) (b : Reg)
  /-- MUL (R137): Writes the low 64 bits of the product of two registers. -/
  | mul (d : Reg) (a : Reg) (b : Reg)
  /-- MULH (R137): Writes the high 64 bits of the signed product. -/
  | mulh (d : Reg) (a : Reg) (b : Reg)
  /-- MULHN (R137): Writes the high 64 bits of the unsigned product. -/
  | mulhn (d : Reg) (a : Reg) (b : Reg)
  /-- DIV (R137): Writes the signed quotient truncated toward zero, or all ones when dividing by zero. -/
  | div (d : Reg) (a : Reg) (b : Reg)
  /-- DIVN (R137): Writes the unsigned quotient, or all ones when dividing by zero. -/
  | divn (d : Reg) (a : Reg) (b : Reg)
  /-- REM (R137): Writes the signed remainder, or the dividend when dividing by zero. -/
  | rem (d : Reg) (a : Reg) (b : Reg)
  /-- REMN (R137): Writes the unsigned remainder, or the dividend when dividing by zero. -/
  | remn (d : Reg) (a : Reg) (b : Reg)
  /-- AND (R137): Writes the bitwise and of two registers. -/
  | and (d : Reg) (a : Reg) (b : Reg)
  /-- OR (R137): Writes the bitwise or of two registers. -/
  | or (d : Reg) (a : Reg) (b : Reg)
  /-- XOR (R137): Writes the bitwise exclusive or of two registers. -/
  | xor (d : Reg) (a : Reg) (b : Reg)
  /-- ANDN (R137): Writes a and not b. -/
  | andn (d : Reg) (a : Reg) (b : Reg)
  /-- SHL (R137): Shifts left by the low six bits of b. -/
  | shl (d : Reg) (a : Reg) (b : Reg)
  /-- SHR (R137): Shifts right logically by the low six bits of b. -/
  | shr (d : Reg) (a : Reg) (b : Reg)
  /-- SRA (R137): Shifts right arithmetically by the low six bits of b. -/
  | sra (d : Reg) (a : Reg) (b : Reg)
  /-- ROL (R137): Rotates left by the low six bits of b. -/
  | rol (d : Reg) (a : Reg) (b : Reg)
  /-- MIN (R137): Writes the signed minimum of two registers. -/
  | min (d : Reg) (a : Reg) (b : Reg)
  /-- MAX (R137): Writes the signed maximum of two registers. -/
  | max (d : Reg) (a : Reg) (b : Reg)
  /-- MINN (R137): Writes the unsigned minimum of two registers. -/
  | minn (d : Reg) (a : Reg) (b : Reg)
  /-- MAXN (R137): Writes the unsigned maximum of two registers. -/
  | maxn (d : Reg) (a : Reg) (b : Reg)
  /-- CLZ (R137): Writes the count of leading zero bits. -/
  | clz (d : Reg) (a : Reg)
  /-- CTZ (R137): Writes the count of trailing zero bits. -/
  | ctz (d : Reg) (a : Reg)
  /-- POPC (R137): Writes the count of one bits. -/
  | popc (d : Reg) (a : Reg)
  /-- SEXT_8 (R137): Sign-extends the low 8 bits. -/
  | sext8 (d : Reg) (a : Reg)
  /-- SEXT_16 (R137): Sign-extends the low 16 bits. -/
  | sext16 (d : Reg) (a : Reg)
  /-- SEXT_32 (R137): Sign-extends the low 32 bits. -/
  | sext32 (d : Reg) (a : Reg)
  /-- ZEXT_8 (R137): Zero-extends the low 8 bits. -/
  | zext8 (d : Reg) (a : Reg)
  /-- ZEXT_16 (R137): Zero-extends the low 16 bits. -/
  | zext16 (d : Reg) (a : Reg)
  /-- ZEXT_32 (R137): Zero-extends the low 32 bits. -/
  | zext32 (d : Reg) (a : Reg)
  /-- ADDI (R138): Adds a sign-extended immediate to a register. -/
  | addi (d : Reg) (a : Reg) (imm : BitVec 16)
  /-- ANDI (R138): Ands a zero-extended immediate with a register. -/
  | andi (d : Reg) (a : Reg) (imm : BitVec 16)
  /-- ORI (R138): Ors a zero-extended immediate with a register. -/
  | ori (d : Reg) (a : Reg) (imm : BitVec 16)
  /-- XORI (R138): Exclusive-ors a zero-extended immediate with a register. -/
  | xori (d : Reg) (a : Reg) (imm : BitVec 16)
  /-- SHLI (R138): Shifts left by an immediate count. -/
  | shli (d : Reg) (a : Reg) (imm : BitVec 6)
  /-- SHRI (R138): Shifts right logically by an immediate count. -/
  | shri (d : Reg) (a : Reg) (imm : BitVec 6)
  /-- SRAI (R138): Shifts right arithmetically by an immediate count. -/
  | srai (d : Reg) (a : Reg) (imm : BitVec 6)
  /-- MOVI (R138): Writes a sign-extended immediate. -/
  | movi (d : Reg) (imm : BitVec 16)
  /-- MOVH (R138): Shifts a register left 16 and adds a zero-extended immediate. -/
  | movh (d : Reg) (a : Reg) (imm : BitVec 16)
  /-- CMP (R139): Compares two registers and annuls the next one to three bundles when the condition is false. -/
  | cmp (cond : Cond) (skip : BitVec 2) (a : Reg) (b : Reg)
  /-- CMPI (R139): Compares a register with an immediate and annuls the next bundles when the condition is false. -/
  | cmpi (cond : Cond) (skip : BitVec 2) (a : Reg) (imm : BitVec 16)
  /-- B (R141): Branches to a block header at a signed offset. -/
  | b (off : BitVec 26)
  /-- BAL (R141): Branches to a block header and writes the link to g30. -/
  | bal (off : BitVec 26)
  /-- BRX (R141): Branches to the header whose offset a register holds and writes the link. -/
  | brx (d : Reg) (a : Reg)
  /-- LDL (R143): Loads from a tile scratchpad through a local address. -/
  | ldl (d : Reg) (a : Reg) (x : Reg) (sz : Size) (ord : MemOrd) (scope : Scope) (sx : Bool)
  /-- STL (R143): Stores to a tile scratchpad through a local address. -/
  | stl (d : Reg) (a : Reg) (x : Reg) (sz : Size) (ord : MemOrd) (scope : Scope)
  /-- LDG (R144): Loads from a label node at an offset. -/
  | ldg (d : Reg) (a : Reg) (x : Reg) (sz : Size) (ord : MemOrd) (scope : Scope) (sx : Bool)
  /-- STG (R144): Stores to a label node at an offset. -/
  | stg (d : Reg) (a : Reg) (x : Reg) (sz : Size) (ord : MemOrd) (scope : Scope)
  /-- AMOL (R146): Performs an indivisible read-modify-write on scratchpad and returns the old value. -/
  | amol (d : Reg) (a : Reg) (x : Reg) (sz : Size) (ord : MemOrd) (scope : Scope) (op : Aop)
  /-- AMOG (R146): Performs an indivisible read-modify-write on a label node and returns the old value. -/
  | amog (d : Reg) (a : Reg) (x : Reg) (sz : Size) (ord : MemOrd) (scope : Scope) (op : Aop)
  /-- CASL (R147): Compares and swaps a scratchpad word with a register pair. -/
  | casl (d : Reg) (a : Reg) (x : Reg) (sz : Size) (ord : MemOrd) (scope : Scope)
  /-- CASG (R147): Compares and swaps a label-node word with a register pair. -/
  | casg (d : Reg) (a : Reg) (x : Reg) (sz : Size) (ord : MemOrd) (scope : Scope)
  /-- FENCE (R148): Orders the thread's earlier and later accesses at a scope. -/
  | fence (ord : MemOrd) (scope : Scope)
  /-- LANC (R158): Tests by bits whether one label is ancestor-or-self of another. -/
  | lanc (d : Reg) (a : Reg) (b : Reg)
  /-- LRNG (R158): Writes the end label of a label's subtree. -/
  | lrng (d : Reg) (a : Reg)
  /-- LDEP (R158): Writes the depth of a label. -/
  | ldep (d : Reg) (a : Reg)
  /-- LPAR (R158): Writes the parent label by bits. -/
  | lpar (d : Reg) (a : Reg)
  /-- LCHD (R158): Writes the child label with a given digit. -/
  | lchd (d : Reg) (a : Reg) (b : Reg)
  /-- LDIG (R158): Writes one digit, or the root, of a label. -/
  | ldig (d : Reg) (a : Reg) (b : Reg)
  /-- LCAN (R159): Resolves a label through the map and writes its canonical form. -/
  | lcan (d : Reg) (a : Reg)
  /-- LINS (R161): Maps a new plain child between two sibling digits. -/
  | lins (d : Reg) (a : Reg) (b : Reg)
  /-- LMOV (R163): Moves a subtree to a new parent slot, leaving a stub or nothing. -/
  | lmov (d : Reg) (a : Reg) (b : Reg) (stub : Stub)
  /-- LREB (R164): Respaces the children of a node across a digit range. -/
  | lreb (d : Reg) (a : Reg) (b : Reg) (stub : Stub)
  /-- LFRE (R165): Frees the subtree of a node. -/
  | lfre (d : Reg) (a : Reg)
  /-- LMAP (R162): Creates or rewrites a node descriptor from an image. -/
  | lmap (d : Reg) (a : Reg) (b : Reg)
  /-- LUNF (R166): Removes a stub from a slot. -/
  | lunf (d : Reg) (a : Reg) (b : Reg)
  /-- LSTAT (R167): Reports a slot without following a stub there. -/
  | lstat (d : Reg) (a : Reg)
  /-- TACQ (R77): Requests read or write tenure on a tile at its home. -/
  | tacq (d : Reg) (a : Reg) (scope : Scope) (w : Bool) (nw : Bool)
  /-- TREL (R82): Releases a tenure, placing dirty data by scope. -/
  | trel (d : Reg) (a : Reg) (scope : Scope)
  /-- TSPL (R79): Splits a write tenure into write tenures on the children. -/
  | tspl (d : Reg) (a : Reg)
  /-- TDSC (R85): Discards a tile: revokes, drops dirty data and zeroes it. -/
  | tdsc (d : Reg) (a : Reg) (scope : Scope)
  /-- TQRY (R77): Returns the home's tenure state of a tile. -/
  | tqry (d : Reg) (a : Reg)
  /-- TFLS (R82): Publishes a write tenure's data and keeps the tenure. -/
  | tfls (d : Reg) (a : Reg) (scope : Scope)
  /-- SEND (R171): Delivers a value to a channel register of another thread slot. -/
  | send (d : Reg) (a : Reg) (b : Reg)
  /-- CLRP (R173): Clears presence of a channel register. -/
  | clrp (a : Reg)
  /-- WAITP (R173): Waits until a channel register is present without consuming it. -/
  | waitp (a : Reg)
  /-- TESTP (R173): Writes the presence bit of a channel register. -/
  | testp (d : Reg) (a : Reg)
  /-- SWARM (R174): Arms a sync word with a target and sets its tag. -/
  | swarm (a : Reg) (b : Reg)
  /-- SWADD (R174): Adds to a sync word's count and advances GEN, as a release. -/
  | swadd (a : Reg) (b : Reg) (scope : Scope)
  /-- SWWAIT (R175): Waits until a sync word's GEN passes a value. -/
  | swwait (a : Reg) (b : Reg)
  /-- BWINIT (R174): Initialises a barrier word and sets its tag. -/
  | bwinit (a : Reg) (b : Reg)
  /-- BWARR (R174): Arrives at a barrier word, returning GEN and advancing it at the last arrival. -/
  | bwarr (d : Reg) (a : Reg) (scope : Scope)
  /-- BWWAIT (R175): Waits until a barrier word's GEN passes a value. -/
  | bwwait (a : Reg) (b : Reg)
  /-- BWFREE (R174): Zeroes a barrier word and clears its tag. -/
  | bwfree (a : Reg)
  /-- SEMP (R177): Decrements a semaphore or waits in order for a grant. -/
  | semp (a : Reg) (k : BitVec 5)
  /-- SEMV (R177): Grants the first waiter or increments a semaphore. -/
  | semv (a : Reg) (k : BitVec 5)
  /-- SEMT (R177): Tries to decrement a semaphore without waiting and reports success. -/
  | semt (d : Reg) (a : Reg) (k : BitVec 5)
  /-- CPYQ (R221): Issues a copy-engine job, waiting for its entries. -/
  | cpyq (a : Reg)
  /-- CPYQT (R221): Tries to issue a copy-engine job without waiting. -/
  | cpyqt (d : Reg) (a : Reg)
  /-- DQPUSH (R180): Pushes a task record at the bottom of the core's deque. -/
  | dqpush (d : Reg) (a : Reg)
  /-- DQPOP (R181): Pops the bottom record of the same slice into the registers. -/
  | dqpop (d : Reg)
  /-- QLAUNCH (R182): Queues a launch packet on a launch queue of the virtual function. -/
  | qlaunch (d : Reg) (a : Reg) (b : Reg)
  /-- EXIT (R183): Ends the task, adding to its sync word, and takes work again. -/
  | exit
  /-- YIELD (R184): Places the thread's context at the tail of its own arrival queue. -/
  | yield
  /-- MIGR (R185): Sends the context to the tile nearest the named label's page. -/
  | migr (a : Reg) (b : Reg) (live : Bool) (wide : Bool)
  /-- MIGRC (R185): Sends the context to the tile of a named core number. -/
  | migrc (a : Reg) (live : Bool) (wide : Bool)
  /-- PHADV (R41): Advances the tile's phase count within the allowance. -/
  | phadv
  /-- PHQRY (R186): Writes the tile's phase count and its neighbours' minimum. -/
  | phqry (d : Reg)
  /-- QUIET (R44): Waits until the Circus makes a detection. -/
  | quiet
  /-- MFS (R151): Reads a user control register into a register. -/
  | mfs (d : Reg) (crn : BitVec 16)
  /-- MTS (R151): Writes a register to a user control register. -/
  | mts (d : Reg) (crn : BitVec 16)
  /-- TRAP (R152): Raises cause 0x14 after its bundle's vector slot. -/
  | trap (imm : BitVec 16)
  /-- PCLOSE (R244): Closes a parameter set's open step under a policy. -/
  | pclose (d : Reg) (a : Reg) (b : Reg)
  /-- PQRY (R245): Returns a parameter set's step state. -/
  | pqry (d : Reg) (a : Reg)
  /-- DTWAIT (R219): Waits for the job holding a dependency-table entry to complete. -/
  | dtwait (a : Reg)
  /-- DTQRY (R220): Reports the state of dependency-table entries. -/
  | dtqry (d : Reg) (a : Reg)
  /-- SWIN (R229): Declares a stream window and resets its watermark. -/
  | swin (a : Reg) (b : Reg)
  /-- ERET (R291): Returns from a user handler or through the supervisor frame. -/
  | eret
  /-- HVC (R292): Posts a call record to the level above and waits for its reply. -/
  | hvc (imm : BitVec 16)
  /-- MFP (R296): Reads a privileged control register. -/
  | mfp (d : Reg) (crn : BitVec 16)
  /-- MTP (R296): Writes a privileged control register that has no row of its own. -/
  | mtp (d : Reg) (crn : BitVec 16)
  /-- LMINV (R297): Shoots down cached translations of a label range. -/
  | lminv (a : Reg) (b : Reg)
  /-- LMINV_VF (R297): Shoots down every cached translation of the virtual function. -/
  | lminvVf
  /-- SSTOP (R298): Arms a synchronised stop of a partition at cr.stopcycle. -/
  | sstop (a : Reg)
  /-- SSTOP_CANCEL (R298): Cancels an armed stop far enough ahead. -/
  | sstopCancel (a : Reg)
  /-- QSTOP (R299): Stops dispatch from a launch queue. -/
  | qstop (d : Reg) (a : Reg)
  /-- QSTART (R299): Resumes dispatch from a launch queue. -/
  | qstart (d : Reg) (a : Reg)
  /-- QDRAIN (R299): Stops a queue and waits for its dispatched launches to complete. -/
  | qdrain (d : Reg) (a : Reg)
  /-- QRESET (R299): Discards a queue's packets and cancels its dispatched tasks. -/
  | qreset (d : Reg) (a : Reg)
  /-- PARTX_SAVE (R301): Writes a stopped partition's sealed image and releases the partition. -/
  | partxSave (d : Reg) (a : Reg) (b : Reg)
  /-- PARTX_RESTORE (R301): Checks and restores a partition image, binding its virtual function. -/
  | partxRestore (d : Reg) (a : Reg) (b : Reg)
  /-- VNOP (R111): Vector-slot no-op. -/
  | vnop
  /-- VADD (R198): Sweeps an element-wise addition. -/
  | vadd (d : Reg) (a : Reg) (b : Reg) (ty : Ty) (rnd : Rnd)
  /-- VSUB (R198): Sweeps an element-wise subtraction. -/
  | vsub (d : Reg) (a : Reg) (b : Reg) (ty : Ty) (rnd : Rnd)
  /-- VMUL (R198): Sweeps an element-wise multiplication. -/
  | vmul (d : Reg) (a : Reg) (b : Reg) (ty : Ty) (rnd : Rnd)
  /-- VDIV (R198): Sweeps an element-wise division. -/
  | vdiv (d : Reg) (a : Reg) (b : Reg) (ty : Ty) (rnd : Rnd)
  /-- VMIN (R198): Sweeps an element-wise minimum. -/
  | vmin (d : Reg) (a : Reg) (b : Reg) (ty : Ty)
  /-- VMAX (R198): Sweeps an element-wise maximum. -/
  | vmax (d : Reg) (a : Reg) (b : Reg) (ty : Ty)
  /-- VAND (R198): Sweeps an element-wise bitwise and. -/
  | vand (d : Reg) (a : Reg) (b : Reg) (ty : Ty)
  /-- VOR (R198): Sweeps an element-wise bitwise or. -/
  | vor (d : Reg) (a : Reg) (b : Reg) (ty : Ty)
  /-- VXOR (R198): Sweeps an element-wise bitwise exclusive or. -/
  | vxor (d : Reg) (a : Reg) (b : Reg) (ty : Ty)
  /-- VSHL (R198): Sweeps an element-wise left shift. -/
  | vshl (d : Reg) (a : Reg) (b : Reg) (ty : Ty)
  /-- VSHR (R198): Sweeps an element-wise logical right shift. -/
  | vshr (d : Reg) (a : Reg) (b : Reg) (ty : Ty)
  /-- VSRA (R198): Sweeps an element-wise arithmetic right shift. -/
  | vsra (d : Reg) (a : Reg) (b : Reg) (ty : Ty)
  /-- VFMA (R199): Sweeps a fused multiply-add into the destination. -/
  | vfma (d : Reg) (a : Reg) (b : Reg) (ty : Ty) (rnd : Rnd)
  /-- VFMS (R199): Sweeps a fused multiply-subtract into the destination. -/
  | vfms (d : Reg) (a : Reg) (b : Reg) (ty : Ty) (rnd : Rnd)
  /-- VABS (R200): Sweeps an element-wise absolute value. -/
  | vabs (d : Reg) (a : Reg) (ty : Ty)
  /-- VNEG (R200): Sweeps an element-wise negation. -/
  | vneg (d : Reg) (a : Reg) (ty : Ty)
  /-- VSQRT (R201): Sweeps a correctly rounded square root. -/
  | vsqrt (d : Reg) (a : Reg) (ty : Ty) (rnd : Rnd)
  /-- VRCP (R201): Sweeps a correctly rounded reciprocal. -/
  | vrcp (d : Reg) (a : Reg) (ty : Ty) (rnd : Rnd)
  /-- VRSQ (R201): Sweeps a correctly rounded reciprocal square root. -/
  | vrsq (d : Reg) (a : Reg) (ty : Ty) (rnd : Rnd)
  /-- VEXP (R201): Sweeps a correctly rounded natural exponential. -/
  | vexp (d : Reg) (a : Reg) (ty : Ty) (rnd : Rnd)
  /-- VEXP2 (R201): Sweeps a correctly rounded base-two exponential. -/
  | vexp2 (d : Reg) (a : Reg) (ty : Ty) (rnd : Rnd)
  /-- VLOG2 (R201): Sweeps a correctly rounded base-two logarithm. -/
  | vlog2 (d : Reg) (a : Reg) (ty : Ty) (rnd : Rnd)
  /-- VTANH (R201): Sweeps a correctly rounded hyperbolic tangent. -/
  | vtanh (d : Reg) (a : Reg) (ty : Ty) (rnd : Rnd)
  /-- VSIGM (R201): Sweeps a correctly rounded logistic sigmoid. -/
  | vsigm (d : Reg) (a : Reg) (ty : Ty) (rnd : Rnd)
  /-- VCMP (R202): Sweeps a predicate into an n8 mask. -/
  | vcmp (d : Reg) (a : Reg) (b : Reg) (ty : Ty) (pred : VPred)
  /-- VSEL (R203): Sweeps a masked select into the destination. -/
  | vsel (a : Reg) (b : Reg) (c : Reg) (ty : Ty)
  /-- VRED (R204): Reduces a shape in a fixed order into a register. -/
  | vred (d : Reg) (a : Reg) (ty : Ty) (rnd : Rnd) (op : RedOp)
  /-- VSCAN (R205): Sweeps a running sum or maximum. -/
  | vscan (d : Reg) (a : Reg) (ty : Ty) (rnd : Rnd) (op : ScanOp)
  /-- VCVT (R206): Sweeps a type conversion through Round. -/
  | vcvt (d : Reg) (a : Reg) (ty : Ty) (rnd : Rnd)
  /-- VPACK (R207): Encodes groups of 32 elements into Q4X blocks. -/
  | vpack (d : Reg) (a : Reg) (rnd : Rnd)
  /-- VUNPK (R208): Decodes Q4X blocks and rounds into a type. -/
  | vunpk (d : Reg) (a : Reg) (ty : Ty) (rnd : Rnd)
  /-- VCPY (R209): Sweeps an element copy with broadcast. -/
  | vcpy (d : Reg) (a : Reg) (ty : Ty)
  /-- VBCAST (R209): Fills the destination cyclically from the source. -/
  | vbcast (d : Reg) (a : Reg) (ty : Ty)
  /-- VGATH (R210): Gathers elements by an index record. -/
  | vgath (d : Reg) (a : Reg) (b : Reg) (ty : Ty)
  /-- VSCAT (R210): Scatters elements by an index record. -/
  | vscat (d : Reg) (a : Reg) (b : Reg) (ty : Ty)
  /-- VIOTA (R211): Writes each element's shape-order index. -/
  | viota (d : Reg) (ty : Ty)
  /-- VPART (R212): Writes this core's part of a whole shape record. -/
  | vpart (a : Reg) (b : Reg) (c : Reg)
  /-- MLDB (R236): Loads the B operand into the column slices of the B bank. -/
  | mldb (a : Reg) (b : Reg) (ty : Ty)
  /-- MMA (R237): Multiplies A by the B bank into accumulator rows. -/
  | mma (a : Reg) (b : Reg) (c : Reg) (ty : Ty) (rnd : Rnd)
  /-- MZERO (R238): Zeroes a rectangle of accumulator cells. -/
  | mzero (a : Reg)
  /-- MDRN (R239): Drains accumulator rows to scratchpad or hands them to the copy engine. -/
  | mdrn (a : Reg) (b : Reg) (c : Reg) (ty : Ty) (rnd : Rnd)
  /-- MDRN_OM (R240): Drains accumulator rows as an ordered-merge contribution. -/
  | mdrnOm (a : Reg) (b : Reg) (c : Reg) (ty : Ty) (rnd : Rnd)
  /-- MSTAT (R238): Reports the matrix array's holding and queue state. -/
  | mstat (a : Reg)
  /-- CVJ (R241): Issues a converter job, waiting for its entries. -/
  | cvj (a : Reg) (b : Reg)
  /-- CVJT (R241): Tries to issue a converter job without waiting. -/
  | cvjt (a : Reg) (b : Reg)
  /-- CALL_LATCH (R293): MFP of cr.callq waits for and latches the oldest call record. -/
  | callLatch (d : Reg)
  /-- CALL_REPLY (R294): MTP of cr.cdone answers the latched call and releases or traps the caller. -/
  | callReply (d : Reg)
  /-- PARTITION_REGISTER_WRITE (R287): MTP to a per-partition register is applied across the module after its refusal
  checks. -/
  | partitionRegisterWrite (d : Reg) (crn : BitVec 16)
  /-- BIND_VF (R362): MTP to cr.pvf with VALID 1 binds a virtual function and makes the partition resident. -/
  | bindVf (d : Reg)
  /-- DEBUG_SELECT (R302): MTP of cr.dbgsel selects the target thread after its checks. -/
  | debugSelect (d : Reg)
  /-- DEBUG_HALT (R304): MTP of cr.dbgctl with HALT 1 halts the target, optionally waiting for its jobs. -/
  | debugHalt (d : Reg)
  /-- DEBUG_RELEASE (R304): MTP of cr.dbgctl with HALT 0 releases the target. -/
  | debugRelease (d : Reg)
  /-- DEBUG_STEP (R304): MTP of cr.dbgctl with STEP 1 releases the target for one bundle. -/
  | debugStep (d : Reg)
  /-- DEBUG_DATA_ACCESS (R302): Access to cr.dbgdata reads or writes the halted target's register that cr.dbgidx names. -/
  | debugDataAccess (write : Bool) (d : Reg)
  /-- ISSUE_CYCLE (R24): Each core cycle the owner slot or a lending candidate issues a bundle, or the cycle idles. -/
  | issueCycle (core : Nat)
  /-- INSTRUCTION_LINE_FILL (R26): An instruction-cache line arrives and its thread becomes ready again. -/
  | instructionLineFill (thread : Nat)
  /-- REMOTE_SCRATCHPAD_ACCESS (R143): A scratchpad access from another tile is performed at the target bank and answered. -/
  | remoteScratchpadAccess (req : Nat)
  /-- HOME_ACCESS (R84): An untenured access arrives at the tile's home and is performed or refused there. -/
  | homeAccess (req : Nat)
  /-- ACCESS_REPLY (R144): The reply or acknowledgement of a global access writes the thread's state and returns it to
  the rotation. -/
  | accessReply (req : Nat)
  /-- TENURE_REQUEST (R76): A tenure request arrives at its home and is queued, granted or refused. -/
  | tenureRequest (req : Nat)
  /-- TENURE_GRANT (R76): A queued tenure request becomes grantable and the home grants it. -/
  | tenureGrant (req : Nat)
  /-- RECALL (R76): A recall arrives at a read holder and sets RECALLED. -/
  | recall (tenure : Nat)
  /-- CONFLICT_REPORT (R86): The home resolves two conflicting upgrade requests by cycle stamp. -/
  | conflictReport (reqA reqB : Nat)
  /-- FORCED_PUBLISH (R83): A former holder writes its dirty data to the home and acknowledges. -/
  | forcedPublish (publication : Nat)
  /-- HALO_PUSH (R81): Refreshed halo strips arrive at the holders of neighbouring tiles. -/
  | haloPush (push : Nat)
  /-- SEND_LANDING (R172): A waiting delivery lands in a channel register once its presence is clear. -/
  | sendLanding (sender : Nat)
  /-- SWEEP_START (R188): A queued sweep starts when the one before it finishes. -/
  | sweepStart (core beats : Nat)
  /-- SWEEP_FINISH (R197): A sweep finishes, ORs its flags into cr.fst and returns its thread. -/
  | sweepFinish (core : Nat)
  /-- MATRIX_OP_FINISH (R234): A matrix operation finishes and its thread returns to the rotation. -/
  | matrixOpFinish (job : Nat)
  /-- JOB_START (R217): An engine job whose edges have all completed starts and frees its FIFO entry. -/
  | jobStart (job sectors : Nat)
  /-- JOB_COMPLETE (R218): A job completes and performs its sync-word and semaphore signals. -/
  | jobComplete (job : Nat)
  /-- STREAM_SECTOR_LAND (R230): A stream job's sector lands and the window's watermark advances. -/
  | streamSectorLand (job : Nat)
  /-- JOB_FAULT (R232): A job's sector faults and the job parks, writing STATUS and queuing a fault record. -/
  | jobFault (job : Nat)
  /-- FAULT_BUFFER_DRAIN (R313): A buffered fault record is posted once the ring has room. -/
  | faultBufferDrain (die part : Nat)
  /-- FAULT_ACTION_RESUME (R314): A release store of 1 to ACTION resumes the parked job. -/
  | faultActionResume (vf record : Nat)
  /-- FAULT_ACTION_CANCEL (R314): A release store of 2 to ACTION cancels the parked job. -/
  | faultActionCancel (vf record : Nat)
  /-- MERGE_CONTRIBUTION (R227): An ordered contribution arrives at the destination's home and merges in slice order. -/
  | mergeContribution (job : Nat)
  /-- GRADIENT_BLOCK (R274): A gradient block arrives at the Forum and is applied, held or dropped. -/
  | gradientBlock (job : Nat)
  /-- WEIGHT_READ (R276): A weight read arrives at the Forum and reads at once, waits or faults. -/
  | weightRead (job : Nat)
  /-- MIRROR_FORWARD (R277): An operation forwarded from a mirror partner is performed at this member. -/
  | mirrorForward (op : Nat)
  /-- TAKE_WORK (R36): A thread with no work takes a context, a deque record or steals. -/
  | takeWork (core : Nat)
  /-- STEAL_REQUEST (R38): A victim answers a steal request with its top record, empty or busy. -/
  | stealRequest (launch thief victim : Nat)
  /-- STEAL_REPLY (R38): A thief receives a steal reply and starts the record or tries the next victim. -/
  | stealReply (launch thief : Nat)
  /-- CONTEXT_ARRIVAL (R39): A migrating context arrives and is queued, spilled or refused. -/
  | contextArrival (ctx : Nat)
  /-- CONTEXT_ANSWER (R37): The target's answer frees the issuing slot or restores the context with a trap. -/
  | contextAnswer (ctx : Nat)
  /-- PHASE_COUNT_MESSAGE (R41): A neighbour's phase count arrives and may release waiting PHADVs. -/
  | phaseCountMessage (launch source target : Nat)
  /-- CIRCUS_TOKEN_PASS (R43): An idle core passes the Circus token, marking it if its own mark is set. -/
  | circusTokenPass (launch : Nat)
  /-- CIRCUS_ROUND (R44): The token returns to core 0, which counts rounds and makes detections. -/
  | circusRound (launch : Nat)
  /-- QUEUE_TAIL_WRITE (R348): The host writes TAIL of a launch queue, posting packets or setting the error state. -/
  | queueTailWrite (vf queue : Nat) (tail : BitVec 32)
  /-- LAUNCH_DISPATCH (R351): The head packet of a queue is checked, waits on its wait words, or is cancelled. -/
  | launchDispatch (vf queue : Nat)
  /-- LAUNCH_PLACEMENT (R33): A waiting launch is placed whole on a rectangle and its slices are dealt. -/
  | launchPlacement (launch row col : Nat)
  /-- LAUNCH_START (R33): cr.time reaches the packet's start time and the launch's tiles begin issuing. -/
  | launchStart (launch : Nat)
  /-- SHOOTDOWN_INVALIDATE (R311): A tile drops matching cached translations and acknowledges. -/
  | shootdownInvalidate (shootdown tile : Nat)
  /-- SHOOTDOWN_ACK (R311): An acknowledgement is counted and the shoot-down completes at 1,024. -/
  | shootdownAck (shootdown : Nat)
  /-- STOP_CYCLE (R315): At the armed cycle issue stops in the partition's slots and work parks. -/
  | stopCycle (part : Nat)
  /-- FLUSH_TOKEN_HOP (R316): The flush token visits a router, which absorbs the partition's flits. -/
  | flushTokenHop (part : Nat)
  /-- PMOVE (R333): Root service that moves present pages to a target die and channel. -/
  | pmove (caller : Nat)
  /-- DEMOTE (R334): Root service that encrypts a page out of the package under a new DSEQ. -/
  | demote (caller : Nat)
  /-- PROMOTE (R335): Root service that checks and decrypts a demoted page back in. -/
  | promote (caller : Nat)
  /-- RESETVF (R336): Root service that stops and resets a virtual function. -/
  | resetvf (caller : Nat)
  /-- PAGE_PLACEMENT_MOVE (R15): The placement logic moves a page to another channel by PMOVE's steps. -/
  | pagePlacementMove (node page die chan : Nat)
  /-- PACKET_REASSEMBLY (R337): A destination reassembles a packet's last flit and delivers it once. -/
  | packetReassembly (packet : Nat)
  /-- LANE_FAULT (R340): A lane fault steps a scale-up port down one state by a retrain. -/
  | laneFault (port : Nat)
  /-- RETRAIN_ATTEMPT (R340): Every 100 ms a degraded port attempts a full retrain to step up. -/
  | retrainAttempt (port : Nat) (good : Bool)
  /-- LINK_TRAINING (R342): A link-training handshake learns the peer's incarnation number. -/
  | linkTraining (port : Nat) (peer incarnation : BitVec 16)
  /-- SCALEUP_PACKET_RECEIVE (R342): A scale-up packet is received, or dropped for a stale incarnation or reset number. -/
  | scaleupPacketReceive (port packet : Nat)
  /-- MODULE_LOST (R343): No port reaches a module for 1 ms, or its incarnation changes, and its accesses fail. -/
  | moduleLost (peer : BitVec 16)
  /-- COLLECTIVE_ABORT (R336): An abort token ends a peer's collective with STATUS WITHDRAWN. -/
  | collectiveAbort (collective : Nat)
  /-- FUNCTION_LEVEL_RESET (R352): A host FLR of a virtual function is performed as RESETVF and clears its host state. -/
  | functionLevelReset (vf : Nat)
  /-- MSIX_UNMASK (R352): Unmasking a pending MSI-X vector sends its message. -/
  | msixUnmask (vf vector : Nat)
  /-- PTP_LOCK (R353): The 1588 timebase locks for the first time since a cold start. -/
  | ptpLock (ns : Nat)
  /-- COLD_START (R354): The module runs the cold-start steps. -/
  | coldStart (failsAt : Nat)
  /-- WARM_START (R354): The module runs the warm-start steps from retention registers. -/
  | warmStart (failsAt : Nat)
  /-- RECOVERY_IMAGE_LOAD (R356): The recovery loader accepts a verified root image and performs a cold start. -/
  | recoveryImageLoad (image : Nat)
  /-- ATTESTATION_REQUEST (R357): The root firmware returns a signed attestation report for a nonce. -/
  | attestationRequest (nonce : BitVec 256)
  /-- READOUT (R358): A frozen module's state is read out, signed command required for memories. -/
  | readout (component item : Nat) (signed : Bool)
  /-- UNCORRECTABLE_ERROR (R359): An uncorrectable error poisons data or resets the owning virtual function. -/
  | uncorrectableError (component item : Nat)
  /-- CORRECTED_ERROR (R359): A corrected error is counted in the die's error log. -/
  | correctedError (die : Nat)
  /-- POWER_REPORT (R361): Every 1 ms the management port reports supply, power and temperature, raising events. -/
  | powerReport (millivolts milliwatts : Nat) (clockHeld : Bool)
  /-- RESTORE_STOP_TIME_PASSED (R301): A PARTX RESTORE waiting because cr.time is below the image's stop time proceeds
  once cr.time passes that time. -/
  | restoreStopTimePassed (thread : Nat)
  /-- STANDBY_POWER_LOSS (R354): Loss of standby power drops the always-on counter's incarnation number, which
  afterwards starts from a random value. -/
  | standbyPowerLoss (seed : BitVec 16)
  /-- TIMEBASE_CORRECTION (R353): A 1588 correction received on the management Ethernet port slews cr.time by at most
  200 ppm. -/
  | timebaseCorrection (ns : Int)
  /-- CHARGE_APPLICATION (R331): Accrued charges are applied to the balances every 1,024 cycles, gating a VF at or below
  zero. -/
  | chargeApplication
  /-- PERIOD_BOUNDARY (R331): At each 100 µs boundary the balances are refilled and the meter records written. -/
  | periodBoundary
  /-- FLIT_HOP (R338): Each Ring Road cycle a router routes, arbitrates and deflects flits. -/
  | flitHop
  /-- GOLDEN_TOKEN_STEP (R338): The golden token moves one router or makes an age-255 flit golden. -/
  | goldenTokenStep
  /-- PF0_FLR (R352): An FLR of physical function 0 resets only that function's host-port state. -/
  | pf0Flr
  /-- START_TIMEOUT (R354): A start not completed within 10 s fails and the failure counters advance. -/
  | startTimeout
  /-- FREEZE_COMMAND (R358): A freeze command stops every clock on one edge. -/
  | freezeCommand
  /-- POWER_EXCURSION (R361): A power event persisting for 10 ms freezes the module. -/
  | powerExcursion
  deriving DecidableEq, Repr

end Sys2Proof
end

