-- ==== Sys2Proof/WellFormed.lean ====
section
/-! DEFINITION. Which operands an instruction may carry (R113 to R122). `Instr.wf` is decode check 3 and 4 of Table
6.14 for the fields the syntax does not already make legal. -/

namespace Sys2Proof

/-- A field that must name a channel register, g24 to g31 (R119). -/
def isChannel (r : Reg) : Bool := decide (24 ≤ r.toNat)

/-- Integer element types, codes 0 to 7. -/
def Ty.isInt : Ty → Bool
  | .s8 | .s16 | .s32 | .s64 | .n8 | .n16 | .n32 | .n64 => true
  | .f32 | .f16 | .bf16 | .f8 | .q4x => false

/-- Floating element types, codes 8 to 11. -/
def Ty.isFloat : Ty → Bool
  | .f32 | .f16 | .bf16 | .f8 => true
  | .s8 | .s16 | .s32 | .s64 | .n8 | .n16 | .n32 | .n64 | .q4x => false

/-- Signed integer types, codes 0 to 3. -/
def Ty.isSigned : Ty → Bool
  | .s8 | .s16 | .s32 | .s64 => true
  | .n8 | .n16 | .n32 | .n64 | .f32 | .f16 | .bf16 | .f8 | .q4x => false

/-- The bits a member that does not round must carry (R96, R120). -/
def Rnd.isZero (r : Rnd) : Bool := decide (r = .fixed .rne)

/-- ORD plain requires SCOPE 000 (R115). -/
def ordScopeOk (o : MemOrd) (p : Scope) : Bool := decide (o ≠ .plain) || decide (p = .core)

/-- SIZE 32 or 64, which atomics and CAS require (R115). -/
def Size.atomic (z : Size) : Bool := decide (z = .b32) || decide (z = .b64)

/-- The user control registers of Table 6.2. -/
def userCrn (n : BitVec 16) : Bool := decide (n.toNat < 16)

/-- The user control registers that MTS may write (Table 6.2). -/
def userCrnWritable (n : BitVec 16) : Bool :=
  [6, 7, 8, 9, 10, 11, 13].contains n.toNat

/-- The privileged register numbers of Table 18.2. -/
def privCrn (n : BitVec 16) : Bool :=
  let k := n.toNat
  (0x100 ≤ k && k ≤ 0x10C) || (0x110 ≤ k && k ≤ 0x11B) || (0x120 ≤ k && k ≤ 0x128)

/-- A vector member that may round: it carries a mode when it rounds for this type, zero bits otherwise (R120). -/
def roundsOk (rounds : Bool) (r : Rnd) : Bool := rounds || r.isZero

/-- The TYPE set of MLDB and MMA (Table 6.10). -/
def Ty.isMatrix : Ty → Bool
  | .s8 | .f16 | .bf16 | .f8 | .q4x => true
  | .s16 | .s32 | .s64 | .n8 | .n16 | .n32 | .n64 | .f32 => false

/-- The TYPE set of MDRN and MDRN.OM (Table 6.10). -/
def Ty.isDrain : Ty → Bool
  | .s32 | .f32 | .f16 | .bf16 => true
  | .s8 | .s16 | .s64 | .n8 | .n16 | .n32 | .n64 | .f8 | .q4x => false

/-- The operand rules of R113 to R122 that the syntax leaves open. Events carry no encoding and no rule. -/
def Instr.wf : Instr → Bool
  | .cmp _ k _ _ => k ≠ 0
  | .cmpi c k _ i => k ≠ 0 && (!(c = .bs || c = .bc) || i.toNat < 64)
  | .ldl _ _ _ z o p sx | .ldg _ _ _ z o p sx => ordScopeOk o p && (!sx || z ≠ .b64)
  | .stl _ _ _ _ o p | .stg _ _ _ _ o p => ordScopeOk o p
  | .amol _ _ _ z o p f | .amog _ _ _ z o p f => ordScopeOk o p && z.atomic && (f ≠ .fadd || z = .b32)
  | .casl d _ _ z o p | .casg d _ _ z o p => ordScopeOk o p && z.atomic && d.toNat % 2 = 0 && d ≠ 0
  | .fence o _ => o ≠ .plain
  | .lreb _ _ _ t => t ≠ .noStub
  | .tacq _ _ _ _ _ => true
  | .send d _ _ => isChannel d
  | .clrp a | .waitp a | .testp _ a => isChannel a
  | .cpyq a | .cpyqt _ a => 1 ≤ a.toNat && a.toNat ≤ 28
  | .mfs _ c => userCrn c
  | .mts _ c => userCrnWritable c
  | .mfp _ c | .mtp _ c => privCrn c
  | .vadd _ _ _ t r | .vsub _ _ _ t r | .vmul _ _ _ t r | .vdiv _ _ _ t r => t ≠ .q4x && roundsOk t.isFloat r
  | .vmin _ _ _ t | .vmax _ _ _ t | .vcmp _ _ _ t _ | .vsel _ _ _ t | .vcpy _ _ t | .vbcast _ _ t
  | .vgath _ _ _ t | .vscat _ _ _ t | .viota _ t => t ≠ .q4x
  | .vand _ _ _ t | .vor _ _ _ t | .vxor _ _ _ t | .vshl _ _ _ t | .vshr _ _ _ t | .vsra _ _ _ t => t.isInt
  | .vfma _ _ _ t _ | .vfms _ _ _ t _ | .vsqrt _ _ t _ | .vrcp _ _ t _ | .vrsq _ _ t _ | .vexp _ _ t _
  | .vexp2 _ _ t _ | .vlog2 _ _ t _ | .vtanh _ _ t _ | .vsigm _ _ t _ => t.isFloat
  | .vabs _ _ t | .vneg _ _ t => t.isSigned || t.isFloat
  | .vred _ _ t r o =>
    t ≠ .q4x && (!(o = .and || o = .or) || t.isInt) && roundsOk (o = .sum && t.isFloat) r
  | .vscan _ _ t r o => t ≠ .q4x && roundsOk (o = .sum && t.isFloat) r
  | .vcvt _ _ t _ | .vunpk _ _ t _ => t ≠ .q4x
  | .mldb _ _ t => t.isMatrix
  | .mma _ _ _ t r => t.isMatrix && roundsOk (t ≠ .s8) r
  | .mdrn _ _ _ t r | .mdrnOm _ _ _ t r => t.isDrain && roundsOk (t ≠ .s32) r
  | _ => true

end Sys2Proof
end

