-- ==== Sys2Proof/Machine/Numbers.lean ====
section
/-! DEFINITION. Numbers (R88 to R106): exact values, the helper Round, exact sums and products, and the correctly rounded
functions. A value that is not a dyadic number is held to far more bits than any type keeps, with a last bit of 1 that
stands for what is cut off, so that Round of it is Round of the exact value. -/

namespace Sys2Proof

/-! ## Flags (Table 5.6) -/

def fInvalid : Nat := 1
def fDivZero : Nat := 2
def fOverflow : Nat := 4
def fUnderflow : Nat := 8
def fInexact : Nat := 16
def fSaturate : Nat := 32
def fQx : Nat := 64

/-- A result with the flags it sets. -/
abbrev Flagged (α : Type) := α × Nat

/-! ## Exact values -/

/-- An exact value: NaN, an infinity, or (−1)^neg · m · 2^e. A zero carries its sign. -/
inductive Val where
  | nan
  | inf (neg : Bool)
  | num (neg : Bool) (m : Nat) (e : Int)
  deriving DecidableEq, Repr

/-- A floating format: fraction width, bias, width, and whether it has infinities (Table 5.2). -/
structure Fmt where
  frac : Nat
  bias : Nat
  bits : Nat
  infs : Bool

def fmtF32 : Fmt := { frac := 23, bias := 127, bits := 32, infs := true }
def fmtF16 : Fmt := { frac := 10, bias := 15, bits := 16, infs := true }
def fmtBf16 : Fmt := { frac := 7, bias := 127, bits := 16, infs := true }
def fmtF8 : Fmt := { frac := 3, bias := 7, bits := 8, infs := false }

/-- The format of a floating type. -/
def Ty.fmt : Ty → Fmt
  | .f16 => fmtF16
  | .bf16 => fmtBf16
  | .f8 => fmtF8
  | .f32 | .s8 | .s16 | .s32 | .s64 | .n8 | .n16 | .n32 | .n64 | .q4x => fmtF32

/-- Width of an element in bytes; a q4x element has none of its own. -/
def Ty.bytes : Ty → Nat
  | .s8 | .n8 | .f8 => 1
  | .s16 | .n16 | .f16 | .bf16 => 2
  | .s32 | .n32 | .f32 => 4
  | .s64 | .n64 => 8
  | .q4x => 0

/-- The largest exponent field of a finite value. -/
def Fmt.maxE (f : Fmt) : Nat := 2 ^ (f.bits - 1 - f.frac) - (if f.infs then 2 else 1)
/-- The significand of the largest finite value: f8 gives up its last code to NaN (R91). -/
def Fmt.maxSig (f : Fmt) : Nat := 2 ^ (f.frac + 1) - (if f.infs then 1 else 2)
/-- The canonical NaN (Table 5.2). -/
def Fmt.nanCode (f : Fmt) : Nat :=
  if f.infs then (2 ^ (f.bits - 1 - f.frac) - 1) * 2 ^ f.frac + 2 ^ (f.frac - 1) else 0x7F
/-- The code of +∞. -/
def Fmt.infCode (f : Fmt) : Nat := (2 ^ (f.bits - 1 - f.frac) - 1) * 2 ^ f.frac
def Fmt.signed (f : Fmt) (neg : Bool) (c : Nat) : Nat := if neg then c + 2 ^ (f.bits - 1) else c
/-- The code of the largest finite magnitude. -/
def Fmt.maxCode (f : Fmt) : Nat := f.maxE * 2 ^ f.frac + (f.maxSig - 2 ^ f.frac)

/-- The value of a code (R90, R91). -/
def Fmt.decode (f : Fmt) (c : Nat) : Val :=
  let neg := decide (2 ^ (f.bits - 1) ≤ c)
  let fr := c % 2 ^ f.frac
  let ex := c % 2 ^ (f.bits - 1) / 2 ^ f.frac
  let top := 2 ^ (f.bits - 1 - f.frac) - 1
  if f.infs ∧ ex = top then (if fr = 0 then .inf neg else .nan)
  else if ¬ f.infs ∧ c % 2 ^ (f.bits - 1) = 0x7F then .nan
  else if ex = 0 then .num neg fr (1 - f.bias - f.frac)
  else .num neg (2 ^ f.frac + fr) (ex - f.bias - f.frac)

/-- Bit length of a number, by fuel. -/
def bitLenGo : Nat → Nat → Nat
  | 0, _ => 0
  | k + 1, m => if m = 0 then 0 else bitLenGo k (m / 2) + 1

/-- Bit length. -/
def bitLen (m : Nat) : Nat := m.log2 + (if m = 0 then 0 else 1)

/-- Rounds q + r / 2^k away from zero or not, for 0 ≤ r < 2^k (Table 5.5). -/
def roundUp (md : RMode) (neg : Bool) (q r k : Nat) : Bool :=
  match md with
  | .rne => decide (2 ^ k < 2 * r) || (decide (2 * r = 2 ^ k) && decide (q % 2 = 1))
  | .rtz => false
  | .rup => !neg && decide (r ≠ 0)
  | .rdn => neg && decide (r ≠ 0)

/-- m · 2^e rounded to a multiple of 2^qe: the multiple, and whether it is exact. -/
def quantize (md : RMode) (neg : Bool) (m : Nat) (e qe : Int) : Nat × Bool :=
  if qe ≤ e then (m * 2 ^ (e - qe).toNat, true)
  else
    let k := (qe - e).toNat
    let q := m / 2 ^ k
    let r := m % 2 ^ k
    (if roundUp md neg q r k then q + 1 else q, decide (r = 0))

/-- RoundInt of a finite value, with its exactness (R95). -/
def roundInt (md : RMode) (neg : Bool) (m : Nat) (e : Int) : Int × Bool :=
  let (q, x) := quantize md neg m e 0
  (if neg then - (q : Int) else q, x)

/-- The least value of an integer type. -/
def Ty.minInt (t : Ty) : Int := if t.isSigned then - (2 ^ (8 * t.bytes - 1) : Int) else 0
/-- The greatest value of an integer type. -/
def Ty.maxInt (t : Ty) : Int := if t.isSigned then 2 ^ (8 * t.bytes - 1) - 1 else 2 ^ (8 * t.bytes) - 1

/-- The code of an integer in its type, modulo its width. -/
def Ty.codeInt (t : Ty) (v : Int) : Nat := (v.emod (2 ^ (8 * t.bytes))).toNat

/-- The integer of a code. -/
def Ty.intOf (t : Ty) (c : Nat) : Int :=
  if t.isSigned ∧ 2 ^ (8 * t.bytes - 1) ≤ c then (c : Int) - 2 ^ (8 * t.bytes) else c

/-- An integer as an exact value. -/
def Val.ofInt (v : Int) : Val := .num (decide (v < 0)) v.natAbs 0

/-- The value of an element's code. -/
def Ty.value (t : Ty) (c : Nat) : Val := if t.isFloat then t.fmt.decode c else Val.ofInt (t.intOf c)

/-- Round to a floating type (R98): the code and the flags. -/
def roundFloat (f : Fmt) (md : RMode) : Val → Flagged Nat
  | .nan => (f.nanCode, 0)
  | .inf neg => if f.infs then (f.signed neg f.infCode, 0) else (f.signed neg f.maxCode, fSaturate)
  | .num neg m e =>
    if m = 0 then (f.signed neg 0, 0)
    else
      let qmin : Int := 1 - f.bias - f.frac
      let top : Int := e + bitLen m - 1
      let qe : Int := if top - f.frac < qmin then qmin else top - f.frac
      let (q0, exact) := quantize md neg m e qe
      let (q, qe) := if q0 = 2 ^ (f.frac + 1) then (2 ^ f.frac, qe + 1) else (q0, qe)
      let under := if top < 1 - (f.bias : Int) ∧ ¬ exact then fUnderflow else 0
      let inex := if exact then 0 else fInexact
      let ex : Int := qe + f.frac + f.bias
      if q < 2 ^ f.frac then (f.signed neg q, under ||| inex)
      else if (f.maxE : Int) < ex ∨ (ex = f.maxE ∧ f.maxSig < q) then
        (f.signed neg f.maxCode, fOverflow ||| fSaturate ||| fInexact)
      else (f.signed neg (ex.toNat * 2 ^ f.frac + (q - 2 ^ f.frac)), under ||| inex)

/-- Clamps an integer to a type (R98). -/
def clampInt (t : Ty) (q : Int) : Flagged Nat :=
  if t.maxInt < q then (t.codeInt t.maxInt, fSaturate)
  else if q < t.minInt then (t.codeInt t.minInt, fSaturate)
  else (t.codeInt q, 0)

/-- Round (R98): the code of the result and the flags it sets. -/
def roundTo (t : Ty) (md : RMode) (v : Val) : Flagged Nat :=
  if t.isFloat then roundFloat t.fmt md v
  else match v with
    | .nan => (0, fInvalid)
    | .inf neg => (t.codeInt (if neg then t.minInt else t.maxInt), fSaturate)
    | .num neg m e =>
      let (q, exact) := roundInt md neg m e
      let (c, fl) := clampInt t q
      (c, fl ||| (if exact then 0 else fInexact))

/-! ## Exact sums and products (R99) -/

def Val.neg : Val → Val
  | .nan => .nan
  | .inf n => .inf (!n)
  | .num n m e => .num (!n) m e

def Val.isNan : Val → Bool
  | .nan => true
  | _ => false

def Val.isInf : Val → Bool
  | .inf _ => true
  | .nan | .num _ _ _ => false

def Val.isZero : Val → Bool
  | .num _ m _ => decide (m = 0)
  | _ => false

/-- An exact product; 0 · ∞ is NaN with INVALID. -/
def Val.mul : Val → Val → Flagged Val
  | .nan, _ => (.nan, 0)
  | _, .nan => (.nan, 0)
  | .inf a, .inf b => (.inf (a != b), 0)
  | .inf a, .num b m _ => if m = 0 then (.nan, fInvalid) else (.inf (a != b), 0)
  | .num a m _, .inf b => if m = 0 then (.nan, fInvalid) else (.inf (a != b), 0)
  | .num a m e, .num b n f => (.num (a != b) (m * n) (e + f), 0)

/-- The signed significand of a number at exponent `lo`, at most its own. -/
def Val.scaled (lo : Int) : Val → Int
  | .num n m e => (if n then -1 else 1) * ((m * 2 ^ (e - lo).toNat : Nat) : Int)
  | _ => 0

/-- The least exponent of a list of values, 0 for none. -/
def minExp : List Val → Option Int
  | [] => none
  | .num _ _ e :: vs => match minExp vs with
    | some f => some (if e ≤ f then e else f)
    | none => some e
  | _ :: vs => minExp vs

/-- The exact sum of a list, with the sign of a zero sum by R99. -/
def exactSum (md : RMode) (vs : List Val) : Flagged Val :=
  if vs.any Val.isNan then (.nan, 0)
  else
    let pos := vs.any (fun v => decide (v = .inf false))
    let neg := vs.any (fun v => decide (v = .inf true))
    if pos && neg then (.nan, fInvalid)
    else if pos then (.inf false, 0)
    else if neg then (.inf true, 0)
    else
      let lo := (minExp vs).getD 0
      let sum := vs.foldl (fun a v => a + v.scaled lo) 0
      if sum ≠ 0 then (.num (decide (sum < 0)) sum.natAbs lo, 0)
      else
        let zp := vs.all (fun v => match v with | .num false 0 _ => true | _ => false)
        let zn := vs.all (fun v => match v with | .num true 0 _ => true | _ => false)
        (.num (if zp then false else if zn then true else decide (md = .rdn)) 0 0, 0)

/-- Compares two numbers that are not NaN: the sign of a − b, with −0 equal to +0. -/
def Val.cmp : Val → Val → Int
  | .inf a, .inf b => (if a then -1 else 1) - (if b then -1 else 1)
  | .inf a, _ => if a then -1 else 1
  | _, .inf b => if b then 1 else -1
  | .num a m e, .num b n f =>
    let lo := if e ≤ f then e else f
    (Val.num a m e).scaled lo - (Val.num b n f).scaled lo
  | _, _ => 0

/-! ## Quotients and roots -/

/-- An exact quotient (R99, R105): 0/0 and ∞/∞ are NaN with INVALID, a finite non-zero value over zero is an infinity
with DIVZERO. -/
def Val.div : Val → Val → Flagged Val
  | .nan, _ => (.nan, 0)
  | _, .nan => (.nan, 0)
  | .inf _, .inf _ => (.nan, fInvalid)
  | .inf a, .num b _ _ => (.inf (a != b), 0)
  | .num a _ _, .inf b => (.num (a != b) 0 0, 0)
  | .num a m e, .num b n f =>
    if n = 0 then (if m = 0 then (.nan, fInvalid) else (.inf (a != b), fDivZero))
    else
      let k := 128 + bitLen n
      let q := m * 2 ^ k / n
      let r := m * 2 ^ k % n
      (.num (a != b) (2 * q + (if r = 0 then 0 else 1)) (e - f - k - 1), 0)

/-- Integer square root, one bit at a time from bit `b` down. -/
def isqrtGo (n : Nat) : Nat → Nat → Nat
  | 0, r => r
  | b + 1, r => let t := r + 2 ^ b; isqrtGo n b (if t * t ≤ n then t else r)

def isqrt (n : Nat) : Nat := isqrtGo n (bitLen n / 2 + 1) 0

/-- The square root; below −0 it is NaN with INVALID. -/
def Val.sqrt : Val → Flagged Val
  | .nan => (.nan, 0)
  | .inf true => (.nan, fInvalid)
  | .inf false => (.inf false, 0)
  | .num neg m e =>
    if m = 0 then (.num neg 0 0, 0)
    else if neg then (.nan, fInvalid)
    else
      let odd := e.emod 2 = 1
      let m' := (if odd then 2 * m else m) * 2 ^ 256
      let e' := if odd then e - 1 else e
      let q := isqrt m'
      (.num false (2 * q + (if q * q = m' then 0 else 1)) (e' / 2 - 128 - 1), 0)

/-- 1/√x: ±0 gives a signed infinity with DIVZERO. -/
def Val.rsqrt : Val → Flagged Val
  | .nan => (.nan, 0)
  | .inf true => (.nan, fInvalid)
  | .inf false => (.num false 0 0, 0)
  | .num neg m e =>
    if m = 0 then (.inf neg, fDivZero)
    else if neg then (.nan, fInvalid)
    else
      let odd := e.emod 2 = 1
      let m' := if odd then 2 * m else m
      let e' := if odd then e - 1 else e
      let k := 192 + bitLen m'
      let q := isqrt (2 ^ (2 * k) / m')
      (.num false (2 * q + (if q * q * m' = 2 ^ (2 * k) then 0 else 1)) (- (e' / 2) - k - 1), 0)

/-! ## Correctly rounded functions (R105, R201) -/

/-- Fraction bits of the fixed-point values below. -/
def fixP : Nat := 512

/-- Σ z^(2i+1)/(2i+1) by terms, `z2` the square of z, in fixed point. -/
def atanhGo (z2 : Nat) : Nat → Nat → Nat → Nat
  | 0, _, _ => 0
  | k + 1, i, pw => pw / (2 * i + 1) + atanhGo z2 k (i + 1) (pw * z2 / 2 ^ fixP)

/-- atanh of z in [0, 1/3], fixed point. -/
def atanhFix (z : Nat) : Nat := atanhGo (z * z / 2 ^ fixP) 200 0 z

/-- ln 2 in fixed point. -/
def ln2Fix : Nat := 2 * atanhFix (2 ^ fixP / 3)

/-- Σ r^i/i! by terms, fixed point. -/
def expGo (r : Nat) : Nat → Nat → Nat → Nat
  | 0, _, _ => 0
  | k + 1, i, term => term + expGo r k (i + 1) (term * r / 2 ^ fixP / (i + 1))

/-- e^r for r in [0, 1), fixed point. -/
def expFix (r : Nat) : Nat := expGo r 160 0 (2 ^ fixP)

/-- A fixed-point magnitude as a value with a last bit of 1 for what is cut off. The low 24 bits are dropped, where the
errors of the series lie. DEDUCED, log entry 64. -/
def stickyVal (neg : Bool) (m : Nat) (e : Int) : Val := .num neg (m / 2 ^ 24 * 2 + 1) (e - fixP + 23)

/-- A number as a signed fixed-point integer; its exponent is at least −512. -/
def toFix (neg : Bool) (m : Nat) (e : Int) : Int := (if neg then -1 else 1) * ((m * 2 ^ (e + fixP).toNat : Nat) : Int)

/-- A number lies at or beyond 2^11 in magnitude, past every finite result of an exponential. -/
def isHuge (m : Nat) (e : Int) : Bool := decide (11 < e + bitLen m)

/-- e^y for a fixed-point y, as a value. -/
def expOf (y : Int) : Val :=
  let k := y.ediv ln2Fix
  stickyVal false (expFix (y.emod ln2Fix).toNat) k

def Val.exp : Val → Flagged Val
  | .nan => (.nan, 0)
  | .inf neg => (if neg then .num false 0 0 else .inf false, 0)
  | .num neg m e =>
    if m = 0 then (.num false 1 0, 0)
    else if isHuge m e then (if neg then .num false 1 (-4000) else .num false 1 4000, 0)
    else (expOf (toFix neg m e), 0)

/-- 2^x; exact for an integer x. -/
def Val.exp2 : Val → Flagged Val
  | .nan => (.nan, 0)
  | .inf neg => (if neg then .num false 0 0 else .inf false, 0)
  | .num neg m e =>
    if m = 0 then (.num false 1 0, 0)
    else if isHuge m e then (if neg then .num false 1 (-4000) else .num false 1 4000, 0)
    else
      let y := toFix neg m e
      let k := y.ediv (2 ^ fixP)
      let r := (y.emod (2 ^ fixP)).toNat
      if r = 0 then (.num false 1 k, 0) else (stickyVal false (expFix (r * ln2Fix / 2 ^ fixP)) k, 0)

/-- log2; exact for a power of two, −∞ with DIVZERO for ±0, NaN with INVALID below −0. -/
def Val.log2 : Val → Flagged Val
  | .nan => (.nan, 0)
  | .inf true => (.nan, fInvalid)
  | .inf false => (.inf false, 0)
  | .num neg m e =>
    if m = 0 then (.inf true, fDivZero)
    else if neg then (.nan, fInvalid)
    else
      let top := bitLen m - 1
      let ex : Int := e + top
      if m = 2 ^ top then (.num (decide (ex < 0)) ex.natAbs 0, 0)
      else
        let f := m * 2 ^ fixP / 2 ^ top
        let z := (f - 2 ^ fixP) * 2 ^ fixP / (f + 2 ^ fixP)
        let y : Int := ex * 2 ^ fixP + ((2 * atanhFix z * 2 ^ fixP / ln2Fix : Nat) : Int)
        (stickyVal (decide (y < 0)) y.natAbs 0, 0)

/-- The fixed-point value e^(−a) for a ≥ 0, below 1. -/
def expNegFix (a : Nat) : Nat :=
  let k := ((- (a : Int)).ediv ln2Fix)
  expFix ((- (a : Int)).emod ln2Fix).toNat / 2 ^ (-k).toNat

def Val.tanh : Val → Flagged Val
  | .nan => (.nan, 0)
  | .inf neg => (.num neg 1 0, 0)
  | .num neg m e =>
    if m = 0 then (.num neg 0 0, 0)
    else if decide (7 < e + bitLen m) then (stickyVal neg (2 ^ fixP - 1) 0, 0)
    else
      let t := expNegFix (2 * (m * 2 ^ (e + fixP).toNat))
      (stickyVal neg ((2 ^ fixP - t) * 2 ^ fixP / (2 ^ fixP + t)) 0, 0)

/-- 1 / (1 + e^(−x)). -/
def Val.sigm : Val → Flagged Val
  | .nan => (.nan, 0)
  | .inf neg => (if neg then .num false 0 0 else .num false 1 0, 0)
  | .num neg m e =>
    if m = 0 then (.num false 1 (-1), 0)
    else if isHuge m e then (if neg then .num false 1 (-4000) else stickyVal false (2 ^ fixP - 1) 0, 0)
    else if neg then
      -- e^x / (1 + e^x), with e^x held relative to its own exponent
      let y := toFix true m e
      let k := y.ediv ln2Fix
      let f := expFix (y.emod ln2Fix).toNat
      (stickyVal false (f * 2 ^ fixP / (2 ^ fixP + f / 2 ^ (-k).toNat)) k, 0)
    else
      -- at least one unit, so that the quotient stays below 1
      let t := Nat.max 1 (expNegFix (m * 2 ^ (e + fixP).toNat))
      (stickyVal false (2 ^ fixP * 2 ^ fixP / (2 ^ fixP + t)) 0, 0)

/-! ## Element arithmetic -/

/-- A flagged value rounded into a type, with all flags. -/
def roundFlagged (t : Ty) (md : RMode) (x : Flagged Val) : Flagged Nat :=
  let (c, fl) := roundTo t md x.1
  (c, fl ||| x.2)

/-- The f32 sum that .fadd and VRED use (Table 8.3, R103). -/
def addF32 (md : RMode) (a b : Nat) : Flagged Nat :=
  roundFlagged .f32 md (exactSum md [Ty.f32.value a, Ty.f32.value b])

/-! ## Q4X blocks (R93 to R95) -/

/-- The signed value of a 4-bit slot. -/
def slotInt (c : Nat) : Int := if 8 ≤ c then (c : Int) - 16 else c

/-- A value times 2^k. -/
def Val.scale (k : Int) : Val → Val
  | .num n m e => .num n m (e + k)
  | v => v

/-- Decodes pairs `p`, … of a block, with the count of outliers met so far. -/
def decodeQ4Go (b : List Nat) (sc : Int) : List Nat → Nat → Flagged (List Val)
  | [], _ => ([], 0)
  | p :: ps, n =>
    let byte := b.getD p 0
    let lo := byte % 16
    let hi := byte / 16
    let zero := Val.num false 0 0
    let tail := b.getD 17 0
    if lo ≠ 8 ∧ hi ≠ 8 then
      let (r, fl) := decodeQ4Go b sc ps n
      ((Val.ofInt (slotInt lo)).scale sc :: (Val.ofInt (slotInt hi)).scale sc :: r, fl)
    else
      let low := if lo = 8 then hi else lo
      let v :=
        if n = 0 then (fmtF8.decode (tail % 16 * 16 + low)).scale sc
        else if n = 1 then (fmtF8.decode (tail / 16 * 16 + low)).scale sc
        else zero
      let (r, fl) := decodeQ4Go b sc ps (n + 1)
      ((if lo = 8 then v :: zero :: r else zero :: v :: r), fl ||| (if 2 ≤ n then fQx else 0))

/-- DecodeQ4X of the 18 bytes of a block (R94). -/
def decodeQ4X (b : List Nat) : Flagged (List Val) :=
  let e := b.getD 16 0
  if e = 0xFF then (List.replicate 32 .nan, 0)
  else decodeQ4Go b ((e : Int) - 127) (List.range 16) 0

/-- |RoundInt(x / 2^(e − 127))| of a finite element, 0 for others. -/
def q4Mag (md : RMode) (e : Nat) : Val → Nat
  | .num n m x => (roundInt md n m (x - ((e : Int) - 127))).1.natAbs
  | _ => 0

/-- The smallest scale from `e` up at which at most two finite elements exceed 7 (R95 step 2). -/
def q4Scale (md : RMode) (vs : List Val) : Nat → Nat → Nat
  | 0, e => e
  | k + 1, e => if (vs.filter (fun v => decide (7 < q4Mag md e v))).length ≤ 2 then e else q4Scale md vs k (e + 1)

/-- The nibble of an ordinary element and whether it is exact; an infinity is ±7, which saturates and is inexact (steps 3
and 5). -/
def q4Slot (md : RMode) (e : Nat) : Val → Flagged Nat
  | .nan => (0, 0)
  | .inf neg => (if neg then 9 else 7, fSaturate ||| fInexact)
  | .num n m x =>
    let (q, exact) := roundInt md n m (x - ((e : Int) - 127))
    ((q.emod 16).toNat, if exact then 0 else fInexact)

/-- Encodes the pairs of a block: bytes, and the high nibbles of the outliers in pair order (steps 3 to 5). -/
def q4Pairs (md : RMode) (e : Nat) : List Val → Flagged (List Nat × List Nat)
  | a :: b :: vs =>
    let (rest, fl) := q4Pairs md e vs
    let oa := decide (7 < q4Mag md e a)
    let ob := decide (7 < q4Mag md e b)
    let mag : Val → Val := fun v => match v with | .num _ m x => .num false m x | v => v
    if !oa && !ob then
      let (x, f1) := q4Slot md e a
      let (y, f2) := q4Slot md e b
      (((x + 16 * y) :: rest.1, rest.2), fl ||| f1 ||| f2)
    else
      let first := if oa && ob then decide (0 ≤ (mag a).cmp (mag b)) else oa
      let o := if first then a else b
      let p := if first then b else a
      let (c, f1) := roundFloat fmtF8 md (o.scale (127 - (e : Int)))
      let f2 := (if p.isZero then 0 else fInexact) ||| (if p.isInf then fSaturate else 0)
      let byte := if first then 8 + 16 * (c % 16) else c % 16 + 16 * 8
      ((byte :: rest.1, (c / 16) :: rest.2), fl ||| f1 ||| f2)
  | _ => (([], []), 0)

/-- VPACK of 32 elements (R95): the 18 bytes of the block and the flags. -/
def encodeQ4X (md : RMode) (vs : List Val) : Flagged (List Nat) :=
  if vs.any Val.isNan then (List.replicate 16 0 ++ [0xFF, 0], 0)
  else
    let e := q4Scale md vs 254 0
    let ((bytes, tails), fl) := q4Pairs md e vs
    (bytes ++ [e, tails.getD 0 0 + 16 * tails.getD 1 0], fl)

end Sys2Proof
end

