-- ==== Sys2Proof/Config.lean ====
section
/-! DEFINITION. What the manual leaves open: values without a body, so that no proof can rest on one. Each is applied to
the operands that it depends on, so one value stands for each of them. -/

namespace Sys2Proof.Config

/-- The trap value of cause 0x13 raised by a poisoned register or by a poisoned 64-byte unit, which R359 does not state,
by the register number or the address (DESIGN CHOICE, log entry 4). -/
opaque poisonValue : BitVec 64 → BitVec 64

/-- The trap value of cause 0x0A, which R84 and R144 do not state, by the label and the offset (DESIGN CHOICE, log entry
4). -/
opaque tenureValue : BitVec 64 → BitVec 64 → BitVec 64

/-- cr.part and cr.vf of a management thread, which belongs to no partition (R366); the manual does not say what they read
there (DESIGN CHOICE, log entry 6). -/
opaque mgmtIdentity : Nat → BitVec 64

/-- Trap values that the manual does not state, by case number and operands (DESIGN CHOICE; log entry 4 lists the
cases). -/
opaque trapValue : Nat → BitVec 64 → BitVec 64 → BitVec 64

/-- The tile of a rectangle of `n` tiles that the device designates as nearest a page's channel (R37), as a number to
be taken modulo `n`, by channel (DESIGN CHOICE, log entry 9). -/
opaque nearestTile : Nat → Nat → Nat

/-- The 64 KiB pages that a virtual function's map pool takes for its descriptors, digit tables and page tables (R327), by
its nodes: descriptor, number of children, number of pages; the manual does not say how the pool is laid out (DESIGN
CHOICE, log entry 70). -/
opaque mapPages : List (Nat × Nat × Nat) → Nat

/-- The page frame of a table of a node's page table (R55, R307), by the node, the level (0 for the table that its
descriptor names) and the page number of the first page below it: the manual does not say where the device puts its
tables (DESIGN CHOICE, log entry 69). -/
opaque tableFrame : Nat → Nat → Nat → Nat

/-- Whether a label of another module names a parameter set with given GTYPE, NMOM, ELEMS and NBLK, which is that module's
state (R268; DESIGN CHOICE, log entry 10). -/
opaque mirrorFits : BitVec 64 → List Nat → Bool

/-- The 64-byte SHAKE256 digest that a firmware image carries, by the number that the model has for the image (R355;
DESIGN CHOICE, log entry 55). -/
opaque imageDigest : Nat → BitVec 512

/-- The Falcon-1024 signature of a module's identity key over the SHAKE256 digest of some bytes (R357; DESIGN CHOICE, log
entry 55). -/
opaque falconSign : Nat → List (BitVec 8) → Nat

/-- The status register of physical function 0, by whether the module is in safe mode and whether it is up: no rule lays
it out (R356; DESIGN CHOICE, log entry 55). -/
opaque pf0Status : Bool → Bool → BitVec 64

/-- The KIND of the node that a label homed on another module names, which is that module's state (R350; DESIGN CHOICE, log
entry 10). -/
opaque farKind : BitVec 64 → Nat

/-- The energy in fJ of the Ring Road hops of some accesses at homes, by the cycle at which it is applied, the virtual
function and the number of accesses: how many hops the flits of an access take, the manual leaves to routing (R329;
DESIGN CHOICE, log entry 71). -/
opaque homeFj : Nat → Nat → Nat → Nat

/-- Where the last-level cache of a die puts a 64-byte unit of package memory, as a number that names the slice (modulo 256)
and the set: no rule says (R15; DESIGN CHOICE, log entry 71). -/
opaque llcPlace : Nat → Nat

/-- Which of the ways that a fill may take it takes, by the cycle and the unit: no rule says (R326; DESIGN CHOICE, log
entry 71). -/
opaque llcWay : Nat → Nat → Nat

/-- How many further rows of Table 21.1 a successful full retrain takes a port up, by the port and the time: the manual does
not say how many one retrain brings back (R340; DESIGN CHOICE, log entry 52). -/
opaque retrainRows : Nat → Nat → Nat

/-- The counter block of a 16-byte block of an image, by its virtual function, the number of its sealing and the block; the
tag's is that of no block (R301; DESIGN CHOICE, log entry 42). -/
opaque imageCounter : Nat → Nat → Option Nat → BitVec 128

/-- AES-256 of a block under a virtual function's key, which only the root key store holds (R334; DESIGN CHOICE, log
entry 42). -/
opaque aes : Nat → BitVec 128 → BitVec 128

/-- The GHASH-based tag of a ciphertext under a virtual function's key, before it is masked (R334; DESIGN CHOICE, log
entry 42). -/
opaque ghash : Nat → List (BitVec 8) → BitVec 128

/-- Bytes of an image beyond its header, thread records, scratchpad banks, arrays and dirty data, by what it holds; the manual
gives their content, not their size (Table 19.4; DESIGN CHOICE, log entry 42). -/
opaque imageRest : List Nat → Nat

end Sys2Proof.Config
end

