-- ==== Sys2Proof/Decode.lean ====
section
/-! DEFINITION. Decoding of the two slots of a bundle and of block headers (R109 to R123), total on any word and
rejecting by name, and after it the encoder. Both are written from Tables 6.1 to 6.10. -/

namespace Sys2Proof

/-- Why a slot is refused: the checks 1, 3 and 4 of Table 6.14, all cause 0x01. Checks 2, 5 and 6 depend on the thread. -/
inductive Reject where
  /-- check 1: the scalar OP is unassigned, or 0x3F -/
  | opcode
  /-- check 3: a field of the scalar slot -/
  | scalarField
  /-- check 4: the vector slot -/
  | vectorSlot
  deriving DecidableEq, Repr

/-! Field codes (Tables 5.1, 5.5, 6.4, 6.8, 6.10). -/

def Cond.code : Cond → BitVec 3
  | .eq => 0
  | .ne => 1
  | .lt => 2
  | .ge => 3
  | .ltn => 4
  | .gen => 5
  | .bs => 6
  | .bc => 7

def Cond.ofCode (c : BitVec 3) : Option Cond :=
  match c.toNat with
  | 0 => some .eq
  | 1 => some .ne
  | 2 => some .lt
  | 3 => some .ge
  | 4 => some .ltn
  | 5 => some .gen
  | 6 => some .bs
  | 7 => some .bc
  | _ => none

def Size.code : Size → BitVec 2
  | .b8 => 0
  | .b16 => 1
  | .b32 => 2
  | .b64 => 3

def Size.ofCode (c : BitVec 2) : Option Size :=
  match c.toNat with
  | 0 => some .b8
  | 1 => some .b16
  | 2 => some .b32
  | 3 => some .b64
  | _ => none

def MemOrd.code : MemOrd → BitVec 2
  | .plain => 0
  | .acq => 1
  | .rel => 2
  | .acqRel => 3

def MemOrd.ofCode (c : BitVec 2) : Option MemOrd :=
  match c.toNat with
  | 0 => some .plain
  | 1 => some .acq
  | 2 => some .rel
  | 3 => some .acqRel
  | _ => none

def Scope.code : Scope → BitVec 3
  | .core => 0
  | .tile => 1
  | .die => 2
  | .mod => 3
  | .pod => 4
  | .sys => 5

def Scope.ofCode (c : BitVec 3) : Option Scope :=
  match c.toNat with
  | 0 => some .core
  | 1 => some .tile
  | 2 => some .die
  | 3 => some .mod
  | 4 => some .pod
  | 5 => some .sys
  | _ => none

def Aop.code : Aop → BitVec 4
  | .add => 0
  | .and => 1
  | .or => 2
  | .xor => 3
  | .swap => 4
  | .min => 5
  | .max => 6
  | .minn => 7
  | .maxn => 8
  | .fadd => 9

def Aop.ofCode (c : BitVec 4) : Option Aop :=
  match c.toNat with
  | 0 => some .add
  | 1 => some .and
  | 2 => some .or
  | 3 => some .xor
  | 4 => some .swap
  | 5 => some .min
  | 6 => some .max
  | 7 => some .minn
  | 8 => some .maxn
  | 9 => some .fadd
  | _ => none

def Stub.code : Stub → BitVec 2
  | .noStub => 0
  | .redirect => 1
  | .fault => 2

def Stub.ofCode (c : BitVec 2) : Option Stub :=
  match c.toNat with
  | 0 => some .noStub
  | 1 => some .redirect
  | 2 => some .fault
  | _ => none

def Ty.code : Ty → BitVec 4
  | .s8 => 0
  | .s16 => 1
  | .s32 => 2
  | .s64 => 3
  | .n8 => 4
  | .n16 => 5
  | .n32 => 6
  | .n64 => 7
  | .f32 => 8
  | .f16 => 9
  | .bf16 => 10
  | .f8 => 11
  | .q4x => 12

def Ty.ofCode (c : BitVec 4) : Option Ty :=
  match c.toNat with
  | 0 => some .s8
  | 1 => some .s16
  | 2 => some .s32
  | 3 => some .s64
  | 4 => some .n8
  | 5 => some .n16
  | 6 => some .n32
  | 7 => some .n64
  | 8 => some .f32
  | 9 => some .f16
  | 10 => some .bf16
  | 11 => some .f8
  | 12 => some .q4x
  | _ => none

def RMode.code : RMode → BitVec 2
  | .rne => 0
  | .rtz => 1
  | .rup => 2
  | .rdn => 3

def RMode.ofCode (c : BitVec 2) : Option RMode :=
  match c.toNat with
  | 0 => some .rne
  | 1 => some .rtz
  | 2 => some .rup
  | 3 => some .rdn
  | _ => none

def VPred.code : VPred → BitVec 4
  | .eq => 0
  | .ne => 1
  | .lt => 2
  | .ge => 3
  | .gt => 4
  | .le => 5

def VPred.ofCode (c : BitVec 4) : Option VPred :=
  match c.toNat with
  | 0 => some .eq
  | 1 => some .ne
  | 2 => some .lt
  | 3 => some .ge
  | 4 => some .gt
  | 5 => some .le
  | _ => none

def RedOp.code : RedOp → BitVec 4
  | .sum => 0
  | .max => 1
  | .min => 2
  | .and => 3
  | .or => 4

def RedOp.ofCode (c : BitVec 4) : Option RedOp :=
  match c.toNat with
  | 0 => some .sum
  | 1 => some .max
  | 2 => some .min
  | 3 => some .and
  | 4 => some .or
  | _ => none

def ScanOp.code : ScanOp → BitVec 4
  | .sum => 0
  | .max => 1

def ScanOp.ofCode (c : BitVec 4) : Option ScanOp :=
  match c.toNat with
  | 0 => some .sum
  | 1 => some .max
  | _ => none

/-- RND and DYN as one 3-bit field, slot bits [6:4] (R96). -/
def Rnd.code : Rnd → BitVec 3
  | .dyn => 1
  | .fixed m => m.code ++ (0 : BitVec 1)

/-- DYN 1 with a non-zero RND is illegal (R96). -/
def Rnd.ofCode (c : BitVec 3) : Option Rnd :=
  match c.toNat with
  | 0 => some (.fixed .rne)
  | 1 => some .dyn
  | 2 => some (.fixed .rtz)
  | 4 => some (.fixed .rup)
  | 6 => some (.fixed .rdn)
  | _ => none

def bit1 (b : Bool) : BitVec 1 := if b then 1 else 0

/-! Field extraction. Every format of Table 6.3 and 6.9 is OP, D, A and a low half; the low half is IMM16, or B and
FN. -/

def slotOp (w : BitVec 32) : BitVec 6 := w.extractLsb' 26 6
def slotD (w : BitVec 32) : Reg := w.extractLsb' 21 5
def slotA (w : BitVec 32) : Reg := w.extractLsb' 16 5
def slotLow (w : BitVec 32) : BitVec 16 := w.extractLsb' 0 16
def lowB (l : BitVec 16) : Reg := l.extractLsb' 11 5
def lowFn (l : BitVec 16) : BitVec 11 := l.extractLsb' 0 11

/-- The ALU group, FN by Table 6.7; the unary members require B zero. -/
def parseAlu (d a b : Reg) (fn : BitVec 11) : Option Instr :=
  match fn.toNat with
  | 0 => some (.add d a b)
  | 1 => some (.sub d a b)
  | 2 => some (.mul d a b)
  | 3 => some (.mulh d a b)
  | 4 => some (.mulhn d a b)
  | 5 => some (.div d a b)
  | 6 => some (.divn d a b)
  | 7 => some (.rem d a b)
  | 8 => some (.remn d a b)
  | 9 => some (.and d a b)
  | 10 => some (.or d a b)
  | 11 => some (.xor d a b)
  | 12 => some (.andn d a b)
  | 13 => some (.shl d a b)
  | 14 => some (.shr d a b)
  | 15 => some (.sra d a b)
  | 16 => some (.rol d a b)
  | 17 => some (.min d a b)
  | 18 => some (.max d a b)
  | 19 => some (.minn d a b)
  | 20 => some (.maxn d a b)
  | 21 => if b = 0 then some (.clz d a) else none
  | 22 => if b = 0 then some (.ctz d a) else none
  | 23 => if b = 0 then some (.popc d a) else none
  | 24 => if b = 0 then some (.sext8 d a) else none
  | 25 => if b = 0 then some (.sext16 d a) else none
  | 26 => if b = 0 then some (.sext32 d a) else none
  | 27 => if b = 0 then some (.zext8 d a) else none
  | 28 => if b = 0 then some (.zext16 d a) else none
  | 29 => if b = 0 then some (.zext32 d a) else none
  | _ => none

/-- SIZE, ORD and SCOPE of the SM format, and its four low bits (Table 6.3). -/
def parseSm (fn : BitVec 11) (k : Size → MemOrd → Scope → BitVec 4 → Option Instr) : Option Instr :=
  match Size.ofCode (fn.extractLsb' 9 2), MemOrd.ofCode (fn.extractLsb' 7 2), Scope.ofCode (fn.extractLsb' 4 3) with
  | some z, some o, some p => k z o p (fn.extractLsb' 0 4)
  | _, _, _ => none

/-- The memory opcodes 0x10 to 0x18 (Table 6.6). Loads keep bits [2:0] zero, bit 3 is SX; atomics hold AOP. -/
def parseMem (op : Nat) (d a x : Reg) (fn : BitVec 11) : Option Instr :=
  parseSm fn fun z o p low =>
    match op with
    | 0x10 => if low.extractLsb' 0 3 = 0 then some (.ldl d a x z o p (low.getLsbD 3)) else none
    | 0x11 => if low = 0 then some (.stl d a x z o p) else none
    | 0x12 => if low.extractLsb' 0 3 = 0 then some (.ldg d a x z o p (low.getLsbD 3)) else none
    | 0x13 => if low = 0 then some (.stg d a x z o p) else none
    | 0x14 => (Aop.ofCode low).map (.amol d a x z o p ·)
    | 0x15 => (Aop.ofCode low).map (.amog d a x z o p ·)
    | 0x16 => if low = 0 then some (.casl d a x z o p) else none
    | 0x17 => if low = 0 then some (.casg d a x z o p) else none
    | 0x18 => if d = 0 ∧ a = 0 ∧ x = 0 ∧ z = .b8 ∧ low = 0 then some (.fence o p) else none
    | _ => none

/-- Label queries, OP 0x19 (Table 6.8). -/
def parseQuery (d a b : Reg) (fn : BitVec 11) : Option Instr :=
  match fn.toNat with
  | 0 => some (.lanc d a b)
  | 1 => if b = 0 then some (.lrng d a) else none
  | 2 => if b = 0 then some (.ldep d a) else none
  | 3 => if b = 0 then some (.lpar d a) else none
  | 4 => some (.lchd d a b)
  | 5 => some (.ldig d a b)
  | 6 => if b = 0 then some (.lcan d a) else none
  | _ => none

/-- Label map operations, OP 0x1A: member in FN[2:0], STUB in FN[4:3] (Table 6.8). -/
def parseMap (d a b : Reg) (fn : BitVec 11) : Option Instr :=
  if fn.extractLsb' 5 6 ≠ 0 then none else
    match (fn.extractLsb' 0 3).toNat, Stub.ofCode (fn.extractLsb' 3 2) with
    | 0, some .noStub => some (.lins d a b)
    | 1, some t => some (.lmov d a b t)
    | 2, some t => some (.lreb d a b t)
    | 3, some .noStub => if b = 0 then some (.lfre d a) else none
    | 4, some .noStub => some (.lmap d a b)
    | 5, some .noStub => some (.lunf d a b)
    | 6, some .noStub => if b = 0 then some (.lstat d a) else none
    | _, _ => none

/-- Tenure, OP 0x1B: member FN[10:8], SCOPE FN[6:4], W FN[1], NW FN[0] (Table 6.8). -/
def parseTenure (d a b : Reg) (fn : BitVec 11) : Option Instr :=
  if b ≠ 0 ∨ fn.getLsbD 7 ∨ fn.extractLsb' 2 2 ≠ 0 then none else
    let sc := fn.extractLsb' 4 3
    let wn := fn.extractLsb' 0 2
    match (fn.extractLsb' 8 3).toNat, Scope.ofCode sc with
    | 0, some p => some (.tacq d a p (fn.getLsbD 1) (fn.getLsbD 0))
    | 1, some p => if wn = 0 then some (.trel d a p) else none
    | 2, _ => if wn = 0 ∧ sc = 0 then some (.tspl d a) else none
    | 3, some p => if wn = 0 then some (.tdsc d a p) else none
    | 4, _ => if wn = 0 ∧ sc = 0 then some (.tqry d a) else none
    | 5, some p => if wn = 0 then some (.tfls d a p) else none
    | _, _ => none

/-- Sync words, OP 0x1E: member FN[2:0], SCOPE FN[6:4] of SWADD and BWARR (Table 6.8). -/
def parseSync (d a b : Reg) (fn : BitVec 11) : Option Instr :=
  if fn.extractLsb' 7 4 ≠ 0 ∨ fn.getLsbD 3 then none else
    let sc := fn.extractLsb' 4 3
    match (fn.extractLsb' 0 3).toNat, Scope.ofCode sc with
    | 0, _ => if d = 0 ∧ sc = 0 then some (.swarm a b) else none
    | 1, some p => if d = 0 then some (.swadd a b p) else none
    | 2, _ => if d = 0 ∧ sc = 0 then some (.swwait a b) else none
    | 3, _ => if d = 0 ∧ sc = 0 then some (.bwinit a b) else none
    | 4, some p => if b = 0 then some (.bwarr d a p) else none
    | 5, _ => if d = 0 ∧ sc = 0 then some (.bwwait a b) else none
    | 6, _ => if d = 0 ∧ b = 0 ∧ sc = 0 then some (.bwfree a) else none
    | _, _ => none

/-- The remaining groups 0x1C, 0x1D, 0x1F to 0x23, 0x27 and 0x28 (Table 6.8). -/
def parseGroup (op : Nat) (d a : Reg) (low : BitVec 16) : Option Instr :=
  let b := lowB low
  let fn := lowFn low
  match op, fn.toNat with
  | 0x1C, 0 => some (.send d a b)
  | 0x1D, 0 => if d = 0 ∧ b = 0 then some (.clrp a) else none
  | 0x1D, 1 => if d = 0 ∧ b = 0 then some (.waitp a) else none
  | 0x1D, 2 => if b = 0 then some (.testp d a) else none
  | 0x20, 0 => if d = 0 ∧ b = 0 then some (.cpyq a) else none
  | 0x20, 1 => if b = 0 then some (.cpyqt d a) else none
  | 0x21, 0 => if b = 0 then some (.dqpush d a) else none
  | 0x21, 1 => if a = 0 ∧ b = 0 then some (.dqpop d) else none
  | 0x21, 2 => some (.qlaunch d a b)
  | 0x21, 3 => if d = 0 ∧ a = 0 ∧ b = 0 then some .exit else none
  | 0x21, 4 => if d = 0 ∧ a = 0 ∧ b = 0 then some .yield else none
  | 0x23, 0 => if d = 0 ∧ a = 0 ∧ b = 0 then some .phadv else none
  | 0x23, 1 => if a = 0 ∧ b = 0 then some (.phqry d) else none
  | 0x23, 2 => if d = 0 ∧ a = 0 ∧ b = 0 then some .quiet else none
  | 0x27, 0 => some (.pclose d a b)
  | 0x27, 1 => if b = 0 then some (.pqry d a) else none
  | 0x28, 0 => if d = 0 ∧ b = 0 then some (.dtwait a) else none
  | 0x28, 1 => if b = 0 then some (.dtqry d a) else none
  | 0x28, 2 => if d = 0 then some (.swin a b) else none
  | _, _ => none

/-- Semaphores, OP 0x1F in SI format: member IMM16[15:14], ordinal IMM16[4:0] (R177). -/
def parseSem (d a : Reg) (low : BitVec 16) : Option Instr :=
  if low.extractLsb' 5 9 ≠ 0 then none else
    let k := low.extractLsb' 0 5
    match (low.extractLsb' 14 2).toNat with
    | 0 => if d = 0 then some (.semp a k) else none
    | 1 => if d = 0 then some (.semv a k) else none
    | 2 => some (.semt d a k)
    | _ => none

/-- Migration, OP 0x22: FN[0] member, FN[1] WIDE, FN[2] LIVE (Table 6.8). -/
def parseMigr (d a b : Reg) (fn : BitVec 11) : Option Instr :=
  if d ≠ 0 ∨ fn.extractLsb' 3 8 ≠ 0 then none else
    if fn.getLsbD 0 then (if b = 0 then some (.migrc a (fn.getLsbD 2) (fn.getLsbD 1)) else none)
    else some (.migr a b (fn.getLsbD 2) (fn.getLsbD 1))

/-- The system opcodes 0x30 and 0x34 to 0x37 (Table 6.6). -/
def parseSystem (op : Nat) (d a b : Reg) (fn : BitVec 11) : Option Instr :=
  match op, fn.toNat with
  | 0x30, 0 => if d = 0 ∧ a = 0 ∧ b = 0 then some .eret else none
  | 0x34, 0 => if d = 0 then some (.lminv a b) else none
  | 0x34, 1 => if d = 0 ∧ a = 0 ∧ b = 0 then some .lminvVf else none
  | 0x35, 0 => if d = 0 ∧ b = 0 then some (.sstop a) else none
  | 0x35, 1 => if d = 0 ∧ b = 0 then some (.sstopCancel a) else none
  | 0x36, 0 => if b = 0 then some (.qstop d a) else none
  | 0x36, 1 => if b = 0 then some (.qstart d a) else none
  | 0x36, 2 => if b = 0 then some (.qdrain d a) else none
  | 0x36, 3 => if b = 0 then some (.qreset d a) else none
  | 0x37, 0 => some (.partxSave d a b)
  | 0x37, 1 => some (.partxRestore d a b)
  | _, _ => none

/-- A 6-bit shift count in IMM16, bits [15:6] zero (R116). -/
def parseShift (low : BitVec 16) (k : BitVec 6 → Instr) : Option Instr :=
  if low.extractLsb' 6 10 = 0 then some (k (low.extractLsb' 0 6)) else none

/-- The scalar opcode map (Table 6.6), by fields. -/
def parseScalar (op : BitVec 6) (d a : Reg) (low : BitVec 16) : Option Instr :=
  let b := lowB low
  let fn := lowFn low
  match op.toNat with
  | 0x00 => if d = 0 ∧ a = 0 ∧ low = 0 then some .snop else none
  | 0x01 => parseAlu d a b fn
  | 0x02 => some (.addi d a low)
  | 0x03 => some (.andi d a low)
  | 0x04 => some (.ori d a low)
  | 0x05 => some (.xori d a low)
  | 0x06 => parseShift low (.shli d a ·)
  | 0x07 => parseShift low (.shri d a ·)
  | 0x08 => parseShift low (.srai d a ·)
  | 0x09 => if a = 0 then some (.movi d low) else none
  | 0x0A => some (.movh d a low)
  | 0x0B => if fn = 0 then (Cond.ofCode (d.extractLsb' 2 3)).map (.cmp · (d.extractLsb' 0 2) a b) else none
  | 0x0C => (Cond.ofCode (d.extractLsb' 2 3)).map (.cmpi · (d.extractLsb' 0 2) a low)
  | 0x0D => some (.b (d ++ a ++ low))
  | 0x0E => some (.bal (d ++ a ++ low))
  | 0x0F => if low = 0 then some (.brx d a) else none
  | 0x10 => parseMem 0x10 d a b fn
  | 0x11 => parseMem 0x11 d a b fn
  | 0x12 => parseMem 0x12 d a b fn
  | 0x13 => parseMem 0x13 d a b fn
  | 0x14 => parseMem 0x14 d a b fn
  | 0x15 => parseMem 0x15 d a b fn
  | 0x16 => parseMem 0x16 d a b fn
  | 0x17 => parseMem 0x17 d a b fn
  | 0x18 => parseMem 0x18 d a b fn
  | 0x19 => parseQuery d a b fn
  | 0x1A => parseMap d a b fn
  | 0x1B => parseTenure d a b fn
  | 0x1C => parseGroup 0x1C d a low
  | 0x1D => parseGroup 0x1D d a low
  | 0x1E => parseSync d a b fn
  | 0x1F => parseSem d a low
  | 0x20 => parseGroup 0x20 d a low
  | 0x21 => parseGroup 0x21 d a low
  | 0x22 => parseMigr d a b fn
  | 0x23 => parseGroup 0x23 d a low
  | 0x24 => if a = 0 then some (.mfs d low) else none
  | 0x25 => if a = 0 then some (.mts d low) else none
  | 0x26 => if d = 0 ∧ a = 0 then some (.trap low) else none
  | 0x27 => parseGroup 0x27 d a low
  | 0x28 => parseGroup 0x28 d a low
  | 0x30 => parseSystem 0x30 d a b fn
  | 0x31 => if d = 0 ∧ a = 0 then some (.hvc low) else none
  | 0x32 => if a = 0 then some (.mfp d low) else none
  | 0x33 => if a = 0 then some (.mtp d low) else none
  | 0x34 => parseSystem 0x34 d a b fn
  | 0x35 => parseSystem 0x35 d a b fn
  | 0x36 => parseSystem 0x36 d a b fn
  | 0x37 => parseSystem 0x37 d a b fn
  | _ => none

/-- Opcodes 0x29 to 0x2F and 0x38 to 0x3F are not assigned (R117). -/
def scalarOpAssigned (op : BitVec 6) : Bool :=
  let k := op.toNat
  k ≤ 0x28 || (0x30 ≤ k && k ≤ 0x37)

/-- A parsed slot stands only if its fields are legal. -/
def checked (why : Reject) : Option Instr → Except Reject Instr
  | some i => if i.wf then .ok i else .error why
  | none => .error why

/-- Decode of a scalar slot: checks 1 and 3 of Table 6.14. -/
def decodeScalar (w : BitVec 32) : Except Reject Instr :=
  if scalarOpAssigned (slotOp w) then
    checked .scalarField (parseScalar (slotOp w) (slotD w) (slotA w) (slotLow w))
  else .error .opcode

/-- A member that does not round carries zero RND and DYN. -/
def plainRnd (r : Rnd) (i : Instr) : Option Instr := if r.isZero then some i else none

/-- A slot whose TYPE, RND and DYN are zero. -/
def plainTy (t : Ty) (r : Rnd) (i : Instr) : Option Instr := if t = .s8 ∧ r.isZero then some i else none

/-- VOP 0x01. -/
def parseArith (mem : Nat) (d a b : Reg) (t : Ty) (r : Rnd) : Option Instr :=
  match mem with
  | 0 => some (.vadd d a b t r)
  | 1 => some (.vsub d a b t r)
  | 2 => some (.vmul d a b t r)
  | 3 => some (.vdiv d a b t r)
  | 4 => plainRnd r (.vmin d a b t)
  | 5 => plainRnd r (.vmax d a b t)
  | 6 => plainRnd r (.vand d a b t)
  | 7 => plainRnd r (.vor d a b t)
  | 8 => plainRnd r (.vxor d a b t)
  | 9 => plainRnd r (.vshl d a b t)
  | 10 => plainRnd r (.vshr d a b t)
  | 11 => plainRnd r (.vsra d a b t)
  | _ => none

/-- VOP 0x03; B is zero. -/
def parseUnary (mem : Nat) (d a : Reg) (t : Ty) (r : Rnd) : Option Instr :=
  match mem with
  | 0 => plainRnd r (.vabs d a t)
  | 1 => plainRnd r (.vneg d a t)
  | 2 => some (.vsqrt d a t r)
  | 3 => some (.vrcp d a t r)
  | 4 => some (.vrsq d a t r)
  | 5 => some (.vexp d a t r)
  | 6 => some (.vexp2 d a t r)
  | 7 => some (.vlog2 d a t r)
  | 8 => some (.vtanh d a t r)
  | 9 => some (.vsigm d a t r)
  | _ => none

/-- VOP 0x0B. -/
def parseMove (mem : Nat) (d a b : Reg) (t : Ty) (r : Rnd) : Option Instr :=
  match mem with
  | 0 => if b = 0 then plainRnd r (.vcpy d a t) else none
  | 1 => if b = 0 then plainRnd r (.vbcast d a t) else none
  | 2 => plainRnd r (.vgath d a b t)
  | 3 => plainRnd r (.vscat d a b t)
  | 4 => if a = 0 ∧ b = 0 then plainRnd r (.viota d t) else none
  | _ => none

/-- VOP 0x10, whose fields are A, B and C. -/
def parseMatrix (mem : Nat) (a b c : Reg) (t : Ty) (r : Rnd) : Option Instr :=
  match mem with
  | 0 => if c = 0 then plainRnd r (.mldb a b t) else none
  | 1 => some (.mma a b c t r)
  | 2 => if b = 0 ∧ c = 0 then plainTy t r (.mzero a) else none
  | 3 => some (.mdrn a b c t r)
  | 4 => some (.mdrnOm a b c t r)
  | 5 => if b = 0 ∧ c = 0 then plainTy t r (.mstat a) else none
  | _ => none

/-- The vector map (Table 6.10), by opcode, with TYPE and rounding read. -/
def parseVop (op : Nat) (mem : BitVec 4) (d a b : Reg) (t : Ty) (r : Rnd) : Option Instr :=
  match op with
  | 0x00 => if d = 0 ∧ a = 0 ∧ b = 0 ∧ mem = 0 then plainTy t r .vnop else none
  | 0x01 => parseArith mem.toNat d a b t r
  | 0x02 => if mem = 0 then some (.vfma d a b t r) else if mem = 1 then some (.vfms d a b t r) else none
  | 0x03 => if b = 0 then parseUnary mem.toNat d a t r else none
  | 0x04 => (VPred.ofCode mem).bind (fun p => plainRnd r (.vcmp d a b t p))
  | 0x05 => if mem = 0 then plainRnd r (.vsel d a b t) else none
  | 0x06 => if b = 0 then (RedOp.ofCode mem).map (.vred d a t r ·) else none
  | 0x07 => if b = 0 then (ScanOp.ofCode mem).map (.vscan d a t r ·) else none
  | 0x08 => if mem = 0 ∧ b = 0 then some (.vcvt d a t r) else none
  | 0x09 => if mem = 0 ∧ b = 0 ∧ t = .q4x then some (.vpack d a r) else none
  | 0x0A => if mem = 0 ∧ b = 0 then some (.vunpk d a t r) else none
  | 0x0B => parseMove mem.toNat d a b t r
  | 0x0C => if mem = 0 then plainTy t r (.vpart d a b) else none
  | 0x10 => parseMatrix mem.toNat d a b t r
  | 0x11 => if b ≠ 0 then none else if mem = 0 then plainTy t r (.cvj d a) else if mem = 1 then plainTy t r (.cvjt d a) else none
  | _ => none

/-- The vector map by fields: TYPE, the three bits RND and DYN, and the member code. -/
def parseVector (op : BitVec 6) (d a b : Reg) (ty : BitVec 4) (rn : BitVec 3) (mem : BitVec 4) : Option Instr :=
  match Ty.ofCode ty, Rnd.ofCode rn with
  | some t, some r => parseVop op.toNat mem d a b t r
  | _, _ => none

/-- Decode of a vector slot: check 4 of Table 6.14. VE names the fields A, B, C in the places of D, A, B. -/
def decodeVector (w : BitVec 32) : Except Reject Instr :=
  let fn := lowFn (slotLow w)
  checked .vectorSlot (parseVector (slotOp w) (slotD w) (slotA w) (lowB (slotLow w))
    (fn.extractLsb' 7 4) (fn.extractLsb' 4 3) (fn.extractLsb' 0 4))

/-- The scalar slot of a bundle, bits [63:32] (R111). -/
def scalarSlot (bundle : Word) : BitVec 32 := bundle.extractLsb' 32 32

/-- The vector slot of a bundle, bits [31:0] (R111). -/
def vectorSlot (bundle : Word) : BitVec 32 := bundle.extractLsb' 0 32

/-- Eight bytes from the lowest address up as one little-endian word (R4); missing bytes count as zero. -/
def leWord : List Byte → Word
  | [] => 0
  | b :: bs => (leWord bs <<< 8) ||| b.setWidth 64

/-- Decode of a bundle from its bytes, lowest address first: both slots, the scalar slot's refusal first (Table 6.14). -/
def decodeBundle (bytes : List Byte) : Except Reject (Instr × Instr) :=
  match decodeScalar (scalarSlot (leWord bytes)), decodeVector (vectorSlot (leWord bytes)) with
  | .ok s, .ok v => .ok (s, v)
  | .error e, _ => .error e
  | _, .error e => .error e

/-! Block headers (Table 6.1). -/

def hdrTag (h : Word) : BitVec 6 := h.extractLsb' 58 6
def hdrLen (h : Word) : BitVec 8 := h.extractLsb' 50 8
def hdrLive (h : Word) : BitVec 16 := h.extractLsb' 34 16
def hdrLow (h : Word) : BitVec 4 := h.extractLsb' 0 4

/-! The encoder. -/

/-- A slot from OP, D, A and the low half. -/
def mkSlot (op : BitVec 6) (d a : Reg) (low : BitVec 16) : BitVec 32 := op ++ d ++ a ++ low

/-- The low half B, FN of the SR format. -/
def mkLow (b : Reg) (fn : BitVec 11) : BitVec 16 := b ++ fn

def encSr (op : BitVec 6) (d a b : Reg) (fn : BitVec 11) : BitVec 32 := mkSlot op d a (mkLow b fn)

/-- FN of the SM format: SIZE, ORD, SCOPE and four low bits. -/
def smFn (z : Size) (o : MemOrd) (p : Scope) (low : BitVec 4) : BitVec 11 := z.code ++ o.code ++ p.code ++ low

def encSm (op : BitVec 6) (d a x : Reg) (z : Size) (o : MemOrd) (p : Scope) (low : BitVec 4) : BitVec 32 :=
  encSr op d a x (smFn z o p low)

/-- SX in bit 3 of a load. -/
def sxLow (sx : Bool) : BitVec 4 := bit1 sx ++ (0 : BitVec 3)

def mapFn (member : BitVec 3) (t : Stub) : BitVec 11 := (0 : BitVec 6) ++ t.code ++ member
def tenFn (member : BitVec 3) (p : BitVec 3) (w nw : Bool) : BitVec 11 :=
  member ++ (0 : BitVec 1) ++ p ++ (0 : BitVec 2) ++ bit1 w ++ bit1 nw
def syncFn (member p : BitVec 3) : BitVec 11 := (0 : BitVec 4) ++ p ++ (0 : BitVec 1) ++ member
def semImm (member : BitVec 2) (k : BitVec 5) : BitVec 16 := member ++ (0 : BitVec 9) ++ k
def shiftImm (k : BitVec 6) : BitVec 16 := (0 : BitVec 10) ++ k
def skD (c : Cond) (k : BitVec 2) : Reg := c.code ++ k
def migrFn (member : Bool) (live wide : Bool) : BitVec 11 := (0 : BitVec 8) ++ bit1 live ++ bit1 wide ++ bit1 member
def vecFn (t : Ty) (r : Rnd) (mem : BitVec 4) : BitVec 11 := t.code ++ r.code ++ mem
def encV (op : BitVec 6) (d a b : Reg) (t : Ty) (r : Rnd) (mem : BitVec 4) : BitVec 32 := encSr op d a b (vecFn t r mem)
def offD (o : BitVec 26) : Reg := o.extractLsb' 21 5
def offA (o : BitVec 26) : Reg := o.extractLsb' 16 5
def offLow (o : BitVec 26) : BitVec 16 := o.extractLsb' 0 16
/-- The rounding bits of a member that does not round. -/
def Rnd.none : Rnd := .fixed .rne

/-- The slot of an instruction, from the encoding tables; an event has no encoding. -/
def encode : Instr → Option (BitVec 32)
  | .snop => some 0
  | .add d a b => some (encSr 0x01 d a b 0)
  | .sub d a b => some (encSr 0x01 d a b 1)
  | .mul d a b => some (encSr 0x01 d a b 2)
  | .mulh d a b => some (encSr 0x01 d a b 3)
  | .mulhn d a b => some (encSr 0x01 d a b 4)
  | .div d a b => some (encSr 0x01 d a b 5)
  | .divn d a b => some (encSr 0x01 d a b 6)
  | .rem d a b => some (encSr 0x01 d a b 7)
  | .remn d a b => some (encSr 0x01 d a b 8)
  | .and d a b => some (encSr 0x01 d a b 9)
  | .or d a b => some (encSr 0x01 d a b 10)
  | .xor d a b => some (encSr 0x01 d a b 11)
  | .andn d a b => some (encSr 0x01 d a b 12)
  | .shl d a b => some (encSr 0x01 d a b 13)
  | .shr d a b => some (encSr 0x01 d a b 14)
  | .sra d a b => some (encSr 0x01 d a b 15)
  | .rol d a b => some (encSr 0x01 d a b 16)
  | .min d a b => some (encSr 0x01 d a b 17)
  | .max d a b => some (encSr 0x01 d a b 18)
  | .minn d a b => some (encSr 0x01 d a b 19)
  | .maxn d a b => some (encSr 0x01 d a b 20)
  | .clz d a => some (encSr 0x01 d a 0 21)
  | .ctz d a => some (encSr 0x01 d a 0 22)
  | .popc d a => some (encSr 0x01 d a 0 23)
  | .sext8 d a => some (encSr 0x01 d a 0 24)
  | .sext16 d a => some (encSr 0x01 d a 0 25)
  | .sext32 d a => some (encSr 0x01 d a 0 26)
  | .zext8 d a => some (encSr 0x01 d a 0 27)
  | .zext16 d a => some (encSr 0x01 d a 0 28)
  | .zext32 d a => some (encSr 0x01 d a 0 29)
  | .addi d a i => some (mkSlot 2 d a i)
  | .andi d a i => some (mkSlot 3 d a i)
  | .ori d a i => some (mkSlot 4 d a i)
  | .xori d a i => some (mkSlot 5 d a i)
  | .shli d a i => some (mkSlot 6 d a (shiftImm i))
  | .shri d a i => some (mkSlot 7 d a (shiftImm i))
  | .srai d a i => some (mkSlot 8 d a (shiftImm i))
  | .movi d i => some (mkSlot 0x09 d 0 i)
  | .movh d a i => some (mkSlot 0x0A d a i)
  | .cmp c k a b => some (encSr 0x0B (skD c k) a b 0)
  | .cmpi c k a i => some (mkSlot 0x0C (skD c k) a i)
  | .b o => some (mkSlot 0x0D (offD o) (offA o) (offLow o))
  | .bal o => some (mkSlot 0x0E (offD o) (offA o) (offLow o))
  | .brx d a => some (mkSlot 0x0F d a 0)
  | .ldl d a x z o p sx => some (encSm 0x10 d a x z o p (sxLow sx))
  | .stl d a x z o p => some (encSm 0x11 d a x z o p 0)
  | .ldg d a x z o p sx => some (encSm 0x12 d a x z o p (sxLow sx))
  | .stg d a x z o p => some (encSm 0x13 d a x z o p 0)
  | .amol d a x z o p f => some (encSm 0x14 d a x z o p f.code)
  | .amog d a x z o p f => some (encSm 0x15 d a x z o p f.code)
  | .casl d a x z o p => some (encSm 0x16 d a x z o p 0)
  | .casg d a x z o p => some (encSm 0x17 d a x z o p 0)
  | .fence o p => some (encSm 0x18 0 0 0 .b8 o p 0)
  | .lanc d a b => some (encSr 0x19 d a b 0)
  | .lrng d a => some (encSr 0x19 d a 0 1)
  | .ldep d a => some (encSr 0x19 d a 0 2)
  | .lpar d a => some (encSr 0x19 d a 0 3)
  | .lchd d a b => some (encSr 0x19 d a b 4)
  | .ldig d a b => some (encSr 0x19 d a b 5)
  | .lcan d a => some (encSr 0x19 d a 0 6)
  | .lins d a b => some (encSr 0x1A d a b (mapFn 0 .noStub))
  | .lmov d a b t => some (encSr 0x1A d a b (mapFn 1 t))
  | .lreb d a b t => some (encSr 0x1A d a b (mapFn 2 t))
  | .lfre d a => some (encSr 0x1A d a 0 (mapFn 3 .noStub))
  | .lmap d a b => some (encSr 0x1A d a b (mapFn 4 .noStub))
  | .lunf d a b => some (encSr 0x1A d a b (mapFn 5 .noStub))
  | .lstat d a => some (encSr 0x1A d a 0 (mapFn 6 .noStub))
  | .tacq d a p w nw => some (encSr 0x1B d a 0 (tenFn 0 p.code w nw))
  | .trel d a p => some (encSr 0x1B d a 0 (tenFn 1 p.code false false))
  | .tspl d a => some (encSr 0x1B d a 0 (tenFn 2 0 false false))
  | .tdsc d a p => some (encSr 0x1B d a 0 (tenFn 3 p.code false false))
  | .tqry d a => some (encSr 0x1B d a 0 (tenFn 4 0 false false))
  | .tfls d a p => some (encSr 0x1B d a 0 (tenFn 5 p.code false false))
  | .send d a b => some (encSr 0x1C d a b 0)
  | .clrp a => some (encSr 0x1D 0 a 0 0)
  | .waitp a => some (encSr 0x1D 0 a 0 1)
  | .testp d a => some (encSr 0x1D d a 0 2)
  | .swarm a b => some (encSr 0x1E 0 a b (syncFn 0 0))
  | .swadd a b p => some (encSr 0x1E 0 a b (syncFn 1 p.code))
  | .swwait a b => some (encSr 0x1E 0 a b (syncFn 2 0))
  | .bwinit a b => some (encSr 0x1E 0 a b (syncFn 3 0))
  | .bwarr d a p => some (encSr 0x1E d a 0 (syncFn 4 p.code))
  | .bwwait a b => some (encSr 0x1E 0 a b (syncFn 5 0))
  | .bwfree a => some (encSr 0x1E 0 a 0 (syncFn 6 0))
  | .semp a k => some (mkSlot 0x1F 0 a (semImm 0 k))
  | .semv a k => some (mkSlot 0x1F 0 a (semImm 1 k))
  | .semt d a k => some (mkSlot 0x1F d a (semImm 2 k))
  | .cpyq a => some (encSr 0x20 0 a 0 0)
  | .cpyqt d a => some (encSr 0x20 d a 0 1)
  | .dqpush d a => some (encSr 0x21 d a 0 0)
  | .dqpop d => some (encSr 0x21 d 0 0 1)
  | .qlaunch d a b => some (encSr 0x21 d a b 2)
  | .exit => some (encSr 0x21 0 0 0 3)
  | .yield => some (encSr 0x21 0 0 0 4)
  | .migr a b l w => some (encSr 0x22 0 a b (migrFn false l w))
  | .migrc a l w => some (encSr 0x22 0 a 0 (migrFn true l w))
  | .phadv => some (encSr 0x23 0 0 0 0)
  | .phqry d => some (encSr 0x23 d 0 0 1)
  | .quiet => some (encSr 0x23 0 0 0 2)
  | .mfs d c => some (mkSlot 0x24 d 0 c)
  | .mts d c => some (mkSlot 0x25 d 0 c)
  | .trap i => some (mkSlot 0x26 0 0 i)
  | .pclose d a b => some (encSr 0x27 d a b 0)
  | .pqry d a => some (encSr 0x27 d a 0 1)
  | .dtwait a => some (encSr 0x28 0 a 0 0)
  | .dtqry d a => some (encSr 0x28 d a 0 1)
  | .swin a b => some (encSr 0x28 0 a b 2)
  | .eret => some (encSr 0x30 0 0 0 0)
  | .hvc i => some (mkSlot 0x31 0 0 i)
  | .mfp d c => some (mkSlot 0x32 d 0 c)
  | .mtp d c => some (mkSlot 0x33 d 0 c)
  | .lminv a b => some (encSr 0x34 0 a b 0)
  | .lminvVf => some (encSr 0x34 0 0 0 1)
  | .sstop a => some (encSr 0x35 0 a 0 0)
  | .sstopCancel a => some (encSr 0x35 0 a 0 1)
  | .qstop d a => some (encSr 0x36 d a 0 0)
  | .qstart d a => some (encSr 0x36 d a 0 1)
  | .qdrain d a => some (encSr 0x36 d a 0 2)
  | .qreset d a => some (encSr 0x36 d a 0 3)
  | .partxSave d a b => some (encSr 0x37 d a b 0)
  | .partxRestore d a b => some (encSr 0x37 d a b 1)
  | .vnop => some 0
  | .vadd d a b t r => some (encV 0x01 d a b t r 0)
  | .vsub d a b t r => some (encV 0x01 d a b t r 1)
  | .vmul d a b t r => some (encV 0x01 d a b t r 2)
  | .vdiv d a b t r => some (encV 0x01 d a b t r 3)
  | .vmin d a b t => some (encV 0x01 d a b t .none 4)
  | .vmax d a b t => some (encV 0x01 d a b t .none 5)
  | .vand d a b t => some (encV 0x01 d a b t .none 6)
  | .vor d a b t => some (encV 0x01 d a b t .none 7)
  | .vxor d a b t => some (encV 0x01 d a b t .none 8)
  | .vshl d a b t => some (encV 0x01 d a b t .none 9)
  | .vshr d a b t => some (encV 0x01 d a b t .none 10)
  | .vsra d a b t => some (encV 0x01 d a b t .none 11)
  | .vfma d a b t r => some (encV 0x02 d a b t r 0)
  | .vfms d a b t r => some (encV 0x02 d a b t r 1)
  | .vabs d a t => some (encV 0x03 d a 0 t .none 0)
  | .vneg d a t => some (encV 0x03 d a 0 t .none 1)
  | .vsqrt d a t r => some (encV 0x03 d a 0 t r 2)
  | .vrcp d a t r => some (encV 0x03 d a 0 t r 3)
  | .vrsq d a t r => some (encV 0x03 d a 0 t r 4)
  | .vexp d a t r => some (encV 0x03 d a 0 t r 5)
  | .vexp2 d a t r => some (encV 0x03 d a 0 t r 6)
  | .vlog2 d a t r => some (encV 0x03 d a 0 t r 7)
  | .vtanh d a t r => some (encV 0x03 d a 0 t r 8)
  | .vsigm d a t r => some (encV 0x03 d a 0 t r 9)
  | .vcmp d a b t p => some (encV 0x04 d a b t .none p.code)
  | .vsel a b c t => some (encV 0x05 a b c t .none 0)
  | .vred d a t r o => some (encV 0x06 d a 0 t r o.code)
  | .vscan d a t r o => some (encV 0x07 d a 0 t r o.code)
  | .vcvt d a t r => some (encV 0x08 d a 0 t r 0)
  | .vpack d a r => some (encV 0x09 d a 0 .q4x r 0)
  | .vunpk d a t r => some (encV 0x0A d a 0 t r 0)
  | .vcpy d a t => some (encV 0x0B d a 0 t .none 0)
  | .vbcast d a t => some (encV 0x0B d a 0 t .none 1)
  | .vgath d a b t => some (encV 0x0B d a b t .none 2)
  | .vscat d a b t => some (encV 0x0B d a b t .none 3)
  | .viota d t => some (encV 0x0B d 0 0 t .none 4)
  | .vpart a b c => some (encV 0x0C a b c .s8 .none 0)
  | .mldb a b t => some (encV 0x10 a b 0 t .none 0)
  | .mma a b c t r => some (encV 0x10 a b c t r 1)
  | .mzero a => some (encV 0x10 a 0 0 .s8 .none 2)
  | .mdrn a b c t r => some (encV 0x10 a b c t r 3)
  | .mdrnOm a b c t r => some (encV 0x10 a b c t r 4)
  | .mstat a => some (encV 0x10 a 0 0 .s8 .none 5)
  | .cvj a b => some (encV 0x11 a b 0 .s8 .none 0)
  | .cvjt a b => some (encV 0x11 a b 0 .s8 .none 1)
  | _ => none

/-- A vector-slot instruction: the rows from VNOP to CVJT. -/
def Instr.isVector : Instr → Bool
  | .vnop | .vadd .. | .vsub .. | .vmul .. | .vdiv .. | .vmin .. | .vmax .. | .vand .. | .vor .. | .vxor .. | .vshl ..
  | .vshr .. | .vsra .. | .vfma .. | .vfms .. | .vabs .. | .vneg .. | .vsqrt .. | .vrcp .. | .vrsq .. | .vexp ..
  | .vexp2 .. | .vlog2 .. | .vtanh .. | .vsigm .. | .vcmp .. | .vsel .. | .vred .. | .vscan .. | .vcvt .. | .vpack ..
  | .vunpk .. | .vcpy .. | .vbcast .. | .vgath .. | .vscat .. | .viota .. | .vpart .. | .mldb .. | .mma .. | .mzero ..
  | .mdrn .. | .mdrnOm .. | .mstat .. | .cvj .. | .cvjt .. => true
  | _ => false

/-- A scalar-slot instruction: it has an encoding and is not a vector-slot instruction. -/
def Instr.isScalar (i : Instr) : Bool := (encode i).isSome && !i.isVector

/-- An event: no encoding, so it never stands in a slot. -/
def Instr.isEvent (i : Instr) : Bool := (encode i).isNone

/-- The instruction a table word stands for. A 32-bit row of the table is a slot; the same 32 bits may be legal in both
slots, and the scalar reading is tried first (DESIGN CHOICE, log entry 1). A 64-bit word is a bundle: its scalar slot
unless that is zero. -/
def decodeTableWord (nbits w : Nat) : Option Instr :=
  let slot (x : BitVec 32) : Option Instr :=
    match decodeScalar x, decodeVector x with
    | .ok i, _ => some i
    | _, .ok i => some i
    | _, _ => none
  if nbits ≤ 32 then slot (BitVec.ofNat 32 w)
  else
    match decodeBundle ((List.range 8).map fun k => BitVec.ofNat 8 (w / 2 ^ (8 * k))) with
    | .ok (s, v) => if s = .snop then some v else some s
    | .error _ => none

end Sys2Proof
end

