-- ==== Sys2Proof/Machine/State.lean ====
section
/-! DEFINITION. The state of a Skatin module as plain data, and the machine after reset. Numbers that the manual gives
as identities (tiles, cores, threads, launches, requests) are Nat; what software sees as words are bit vectors.
A tile is ROW * 32 + COL; a tenant thread is (tile * 3 + ROLE) * 16 + SLOT; a management thread is
49152 + (die * 3 + ROLE) * 16 + SLOT. -/

namespace Sys2Proof.Machine

/-- Why a machine stops. No meaning of this model ends in a fault: what the manual calls an error is a trap, a status
or a refusal that the instruction reports, all of them next states. -/
inductive Fault where
  /-- A step of a frozen module (R358): its clocks are stopped, so there is no next state. Raised by `step` when the
  module is frozen and the schedule holds no event of the management port. Safe: the hardware stands still too. -/
  | frozen
  deriving DecidableEq, Repr

/-- Why a machine refuses an instruction. -/
inductive Refusal where
  /-- An instruction with no meaning yet, named by its mnemonic. Raised by arms of `exec` only. Safe: the machine stops. -/
  | notModelled (mnemonic : String)
  deriving DecidableEq, Repr

/-! ## Threads -/

/-- What keeps a thread out of the rotation (Table 2.1, and the waits of R287 to R304). A wait marked `again` means that
the bundle is issued again when the condition holds; the others end by an event that completes the instruction. -/
inductive Why where
  /-- again: an absent channel register is named as a source -/
  | chan (r : Nat)
  /-- an access awaits its reply -/
  | access (req : Nat)
  /-- a sweep of the thread is queued or running -/
  | sweep (id : Nat)
  /-- a matrix operation of the thread is queued or running -/
  | matrix (job : Nat)
  /-- SEMP on a count of zero -/
  | semp (tile sem : Nat)
  /-- SWWAIT or BWWAIT of a word at a scratchpad key of the thread's tile, until GEN passes the value -/
  | gen (key val : Nat)
  /-- no wait of a thread: why a load at a bank is not performed, in a stream window at or above its watermark -/
  | window (tile win off n : Nat)
  /-- again: the thread's send-queue entry is occupied -/
  | sendEntry
  /-- again: the thread's copy-FIFO entry or dependency-table entries are occupied -/
  | copyEntry
  /-- again: the thread's converter entry or dependency-table entries are occupied -/
  | cvEntry
  /-- again: dependency-table entries are wanted by a matrix operation or a drain -/
  | depEntry
  /-- a job that DTWAIT waits for -/
  | dtwait (job : Nat)
  /-- PHADV beyond the allowance -/
  | phase
  /-- QUIET -/
  | quiet
  /-- MIGR, MIGRC or YIELD awaits the target's answer -/
  | migr (ctx : Nat)
  /-- a tenure request awaits its reply -/
  | tenure (req : Nat)
  /-- a call or an escalation awaits its reply -/
  | call
  /-- again: MFP of cr.callq with an empty call queue -/
  | callq
  /-- a shoot-down awaits its acknowledgements -/
  | shootdown (id : Nat)
  /-- again: earlier accesses must be performed first (FENCE, R148) -/
  | fence
  /-- again: a queue's dispatched launches must complete (QDRAIN) -/
  | drain (vf queue : Nat)
  /-- again: a partition's armed stop must complete (PARTX SAVE) -/
  | stop (part : Nat)
  /-- again: cr.time must pass an image's stop time (PARTX RESTORE) -/
  | time (ns : Nat)
  /-- again: the jobs of a thread's slot must complete or park (halt with QUIESCE) -/
  | quiesce (tid : Nat)
  /-- again: ordered stores of the thread, or accesses under way, ahead of a release or a map operation -/
  | order
  /-- parked by an escalation (R290) -/
  | parked
  deriving DecidableEq, Repr

/-- A call record (R290, R292): the caller's thread, the cr.callw word, the four arguments. -/
structure CallRec where
  tid   : Nat
  callw : Word
  args  : List Word
  deriving DecidableEq, Repr

/-- The per-thread privileged registers (Table 18.3), the debugger's hold on the thread (R302 to R304), the latched call
(R293) and the pending trap of a restored thread (Table 19.5). `sonly` is the cr.sepc word of a frame whose bundle has
performed its vector slot (SONLY of Table 19.5), `hargs` the arguments of an HVC that waits for its vector slot (R292). -/
structure ThreadSys where
  svec      : Word
  scause    : Word
  sepc      : Word
  sval      : Word
  sxcode    : Word
  dbgsel    : Word
  dbgidx    : Word
  dbgcode   : Word
  dbgmatch  : Word
  psel      : Word
  stopcycle : Word
  cret0     : Word
  cret1     : Word
  latch     : Option CallRec
  halted    : Bool
  stepping  : Bool
  noMatch   : Bool
  pend      : Option (Nat × Word)
  sonly     : Option Word
  hargs     : Option (List Word)
  deriving DecidableEq, Repr

/-- One hardware thread: its general registers with presence and poison, its place in its code, and its control
registers (Tables 8.5, 18.3). `left` counts the bundles from `pc` to the end of its block, its own included; 0 means
that `pc` is a header. `live` is the LIVE field of its block's header, none where control entered the block at a bundle
(R109). `sonly` says that the vector slot of the bundle at `pc` has been performed, and `uonly` is the cr.uepc word of a
user frame for which it has. `far` is the label and offset of a MIGR whose checks another module has passed (R185).
`last` is the cycle of its previous issue. `stamp` orders its waits (R31, R41); `restamp` is the cycle stamp of a TACQ
that a stop has withdrawn (R170). -/
structure Thread where
  g       : Vector Word 32
  pres    : BitVec 8
  pois    : BitVec 32
  pc      : Word
  left    : Nat
  live    : Option (BitVec 16)
  level   : BitVec 2
  work    : Bool
  waits   : List Why
  sonly   : Bool
  uonly   : Option Word
  far     : Option (Word × Word)
  last    : Option Nat
  stamp   : Nat
  restamp : Option Nat
  fst     : Word
  frm     : Word
  uvec    : Word
  ucause  : Word
  uepc    : Word
  uval    : Word
  task    : Word
  slice   : BitVec 32
  code    : Word
  sys     : ThreadSys
  deriving DecidableEq, Repr

/-- The privileged registers of a thread at reset. -/
def ThreadSys.zero : ThreadSys :=
  { svec := 0, scause := 0, sepc := 0, sval := 0, sxcode := 0, dbgsel := 0, dbgidx := 0, dbgcode := 0, dbgmatch := 0
    psel := 0, stopcycle := 0, cret0 := 0, cret1 := 0, latch := none, halted := false, stepping := false
    noMatch := false, pend := none, sonly := none, hargs := none }

/-- A thread at reset: it holds no work and every register is zero (DESIGN CHOICE, log entry 2). -/
def Thread.idle : Thread :=
  { g := Vector.replicate 32 0, pres := 0, pois := 0, pc := 0, left := 0, live := none, level := 0, work := false, waits := []
    sonly := false, uonly := none, far := none, last := none, stamp := 0, restamp := none, fst := 0, frm := 0, uvec := 0, ucause := 0
    uepc := 0, uval := 0, task := 0, slice := 0, code := 0, sys := ThreadSys.zero }

/-- What a bundle holds back while an answer may still trap it (R135): the channel registers whose presence it consumes,
those of them that its vector slot alone reads, whether it has a vector slot and whether that had been performed before,
and what that slot has still to write: a register, and bytes of scratchpad by key. -/
structure Held where
  used  : BitVec 8
  usedV : BitVec 8
  vec   : Bool
  sonly : Bool
  reg   : Option (BitVec 5 × Word)
  bytes : List (Nat × Byte)
  deriving DecidableEq, Repr

/-- Nothing is held back. -/
def Held.none : Held := { used := 0, usedV := 0, vec := false, sonly := false, reg := Option.none, bytes := [] }

/-- What one bundle in issue has done so far. `who` is the thread that an issue cycle has chosen; `snap` holds the
registers as they stood at issue, so that both slots read before either writes (R111); `moved` says that control left
the bundle, `trapped` that a trap was taken, `stalled` that a slot waits and will be issued again. -/
structure Issue where
  who     : Option Nat
  snap    : Option (Vector Word 32)
  moved   : Bool
  trapped : Bool
  stalled : Bool
  deriving DecidableEq, Repr

/-- A 64-byte line of a core's instruction cache (Table 1.1, R23), as eight words, with the code node that it is of;
where another module homes that, 0 and its EXTENT (R110, R339). -/
structure CodeLine where
  core  : Nat
  vf    : Nat
  label : Word
  line  : Nat
  words : List Word
  node  : Nat
  far   : Option Nat
  deriving DecidableEq, Repr

/-! ## The label map -/

/-- A page-table entry that is not unallocated (Table 19.1). -/
inductive Page where
  | present (frame : Nat)
  | demoted (dseq : Nat)
  | poisoned (integ : Bool) (frame : Nat)
  deriving DecidableEq, Repr

/-- A mapped node: its descriptor (Table 3.2), its digit table and its page table. A node is named by its descriptor's
physical address. `words` holds bytes 24 to 63 of the descriptor, five words. -/
structure Node where
  vf     : Nat
  kind   : Nat
  order  : Nat
  enc    : Bool
  ro     : Bool
  sup    : Bool
  extent : Nat
  home   : Nat
  words  : Vector Word 5
  kids   : Store Nat
  pages  : Store Page
  deriving DecidableEq, Repr

/-- The maps of all virtual functions and the system map (R52, R284): nodes by descriptor address, root tables by map
and root number. Map 0 to 255 is a virtual function's, 256 the system map's. A root entry is HOME and the
descriptor's address, or 0. `nextDesc` is the next free address of the map pool, `frames` the page frames in use. -/
structure Maps where
  nodes    : Store Node
  roots    : Store (Nat × Nat)
  nextDesc : Nat
  frames   : List Nat
  deriving DecidableEq, Repr

/-! ## Tenure -/

/-- A rectangle of a storage root's index space: origins and extents of the four dimensions (R72). -/
structure Rect where
  org : List Nat
  ext : List Nat
  deriving DecidableEq, Repr

/-- A holder (R73): the core, or the tile of a fused launch, with the launch. -/
structure Holder where
  fused  : Bool
  unit   : Nat
  launch : Nat
  deriving DecidableEq, Repr

/-- The state of a tenure record at its home. -/
inductive TenMode where
  | read
  | write
  /-- ended by a release whose data stayed in the L1 (R82), at this scope -/
  | released (scope : Nat)
  /-- a read tenure ended by a revoke (R85, R86) -/
  | revoked
  deriving DecidableEq, Repr

/-- A tenure record: storage root and rectangle, never a label (R87); `node` and `tile` name the handle (tile 0 is the
node itself, k + 1 its implicit tile k). `dirty` holds bytes stored under a write tenure and not released, by byte
offset in the storage root; `held` those released at a scope that left them in the L1. `nscope` is NSCOPE of Table 4.1.
`pois` are the 64-byte units of the
storage root whose bytes in the holder's L1 are poisoned (R359). `slice` is the directory slice that records it, as a tile
(R74), and `resv` the slices where it has a reservation (R75). -/
structure Ten where
  root     : Nat
  node     : Nat
  tile     : Nat
  rect     : Rect
  holder   : Holder
  mode     : TenMode
  who      : BitVec 32
  recalled : Bool
  dirty    : Store Byte
  held     : Store Byte
  nscope   : Option Nat
  replica  : Store Byte
  pois     : List Nat
  slice    : Nat
  resv     : List Nat
  deriving DecidableEq, Repr

/-- A travelling or queued tenure request (R76): `queued` is its place in the order of arrival, `stamp` the cycle of its
issue (R86), `stubs` the stubs its handle has counted, `hold` what its bundle holds back. -/
structure TenReq where
  tid    : Nat
  label  : Word
  root   : Nat
  node   : Nat
  tile   : Nat
  rect   : Rect
  holder : Holder
  write  : Bool
  nowait : Bool
  scope  : Nat
  dreg   : BitVec 5
  stamp  : Nat
  queued : Option Nat
  stubs  : List Nat
  hold   : Held
  pc     : Word
  left   : Nat
  deriving DecidableEq, Repr

/-! ## Accesses in flight -/

/-- Where an access lands: a scratchpad key (tile * 2^20 + offset) with the local address that named it, or a byte
offset of a node with the label that named it. -/
inductive Place where
  | spad (key : Nat) (addr : Word)
  /-- a label homed on another module -/
  | remote (home : Nat) (label off : Word)
  | glob (node : Nat) (child : Option Nat) (off : Nat) (label : Word)
  deriving DecidableEq, Repr

/-- An operation on another module's map, directory or Forum, as its packet carries it: the instruction, the values of its
operands, and the record that it names with the trap of that record, if it meets one (R339). -/
structure FarCall where
  op    : Instr
  args  : List Word
  words : List Word
  fail  : Option (Nat × Word)
  deriving DecidableEq, Repr

/-- What an access does at its point of coherence (R143 to R147), or which sync member it is (R174). -/
inductive AccOp where
  | load (sx : Bool)
  | store (v : Nat)
  | amo (op : Aop) (v : Nat) (md : RMode)
  | cas (e n : Nat)
  | swarm (v : Nat)
  | swadd (v : Nat)
  | waitGen (v : Nat)
  | bwinit (v : Nat)
  | bwarr
  | bwfree
  /-- the checks of a MIGR whose label is homed on another module (R185) -/
  | probe
  /-- an operation of another module's map, directory or Forum; the value of a query should that module be lost (R159,
  R167) -/
  | far (f : FarCall) (lost : Option Word)
  /-- an operation already performed at its home: only the reply is outstanding -/
  | reply (v : Option Word)
  deriving DecidableEq, Repr

/-- How far an access has got. -/
inductive AccState where
  /-- issued, and waits in its core behind earlier stores of its thread (R247) -/
  | held
  | sent
  /-- a plain store whose acknowledgement has returned before it is performed (R144) -/
  | accepted
  /-- SWWAIT or BWWAIT that has passed its checks at the word's bank and waits there for GEN (R175) -/
  | waiting
  | performed (v : Option Word) (flags : Nat)
  | failed (cause : Nat) (v : Word)
  deriving DecidableEq, Repr

/-- One access of a thread, with the place of its bundle and what that holds back; `shoot` is the shoot-down whose
completion the reply waits for. -/
structure Access where
  tid    : Nat
  holder : Holder
  place  : Place
  n      : Nat
  op     : AccOp
  dreg   : BitVec 5
  ord    : MemOrd
  scope  : Nat
  order  : Nat
  state  : AccState
  shoot  : Option Nat
  hold   : Held
  pc     : Word
  left   : Nat
  deriving DecidableEq, Repr

/-- A delivery of SEND in its sender's send-queue entry (R172), poisoned where a sweep sends poisoned data (R359). -/
structure Send where
  target : Nat
  chan   : BitVec 5
  value  : Word
  pois   : Bool
  deriving DecidableEq, Repr

/-! ## Launches -/

/-- A task record (Table 2.4). -/
structure TaskRec where
  entry  : Word
  arg0   : Word
  arg1   : Word
  sync   : Word
  slice  : BitVec 32
  stolen : Bool
  origin : BitVec 32
  deriving DecidableEq, Repr

/-- A migrating context (R37): the registers g1 to g16 (zero where not carried) and which of them are poisoned (R359), the
thread that sent it and what its bundle holds back. -/
structure Ctx where
  launch : Nat
  sender : Nat
  core   : Nat
  pc     : Word
  left   : Nat
  task   : Word
  slice  : BitVec 32
  wide   : Bool
  regs   : List Word
  bad    : List Bool
  hold   : Held
  deriving DecidableEq, Repr

/-- Where a context that has left its slot stands; `spilling`: another module, which homes the spill area, is asked to
hold it. -/
inductive CtxState where
  | travelling
  | spilling
  | accepted
  | refused (cause : Nat) (v : Word)
  deriving DecidableEq, Repr

/-- What has reached a semaphore in a cycle: the count its SEMPs and SEMTs have taken, and in order those that found none
left, a SEMT with its register (R178). -/
structure SemCycle where
  cycle  : Nat
  taken  : Nat
  missed : List (Nat × Option (BitVec 5))
  deriving DecidableEq, Repr

/-- Semaphores by tile * 32 + number with their waiters in order (R30, R31) and the last cycle of each, send-queue
entries by sender (R172), the call queues by level * 4 + die (R292), contexts that have left their slot (R37). -/
structure SyncState where
  sems    : Store Nat
  waiters : Store (List Nat)
  recent  : Store SemCycle
  sends   : Store Send
  calls   : Store (List CallRec)
  ctxs    : Store (Ctx × CtxState)
  deriving DecidableEq, Repr

/-- A steal of one core (R38): victims not yet asked, and the answer on its way. -/
inductive StealState where
  | asking (victims : List Nat)
  | answered (victims : List Nat) (victim : Nat) (rec : Option TaskRec)
  /-- every victim was empty or busy: the order starts again after the thief's next Circus pass -/
  | resting
  deriving DecidableEq, Repr

/-- The life of a launch. -/
inductive LaunchPhase where
  | waiting
  | placed
  | running
  deriving DecidableEq, Repr

/-- The work of a launch: dealt slices that wait (by core index), deques (bottom last), arrival queues (oldest first),
the Circus token (`tokDue` when it stands back at core 0 unexamined), the marks, the phase counts by tile and the counts
heard by tile * 1024 + neighbour, steals by thief core index, and the number of spilled contexts that wait for each core
index (R39). -/
structure LaunchWork where
  dealt    : Store (List Nat)
  deques   : Store (List TaskRec)
  arrivals : Store (List Ctx)
  token    : Nat
  tokMark  : Bool
  tokDue   : Bool
  rounds   : Nat
  marks    : List Nat
  counts   : Store Nat
  heard    : Store Nat
  steals   : Store StealState
  spilled  : Store Nat
  deriving DecidableEq, Repr

/-- A launch: its packet's fields, its rectangle, and the work, phase, Circus and steal state that belongs to it.
Core indexes are those of R35; tiles are module tiles. `done` is the scratchpad key of its DONE word, in use when `dn`;
`pend` is its place in the order of dispatch. -/
structure Launch where
  vf       : Nat
  part     : Nat
  queue    : Nat
  phase    : LaunchPhase
  row0     : Nat
  col0     : Nat
  rows     : Nat
  cols     : Nat
  slots    : BitVec 16
  fused    : Bool
  bbank    : Nat
  code     : Word
  entry    : Word
  arg0     : Word
  arg1     : Word
  slices   : Nat
  start    : Nat
  dn       : Bool
  irq      : Bool
  spill    : Word
  limit    : Nat
  allow    : Nat
  pend     : Nat
  done     : Nat
  work     : LaunchWork
  deriving DecidableEq, Repr

/-! ## Partitions -/

/-- Where a partition's synchronised stop stands (R298, R315). -/
inductive StopState where
  | none
  | armed (cycle : Nat)
  /-- phases 2 and 3: issue has stopped; the routers visited so far, 1,024 to a tour, and whether this tour has absorbed a
  flit -/
  | flushing (cycle time router : Nat) (absorbed : Bool)
  | stopped (cycle time : Nat)
  deriving DecidableEq, Repr

/-- The per-partition registers (Table 18.3), the stop, and the numbering of a restored partition (R319): `vslots` and
`vbanks` are the positions that its threads see, of equal rank with the physical SLOTS and BANKS. -/
structure Part where
  scode     : Word
  valid     : Bool
  vf        : Nat
  slots     : BitVec 16
  banks     : BitVec 24
  ways      : BitVec 16
  chans     : BitVec 24
  qquota    : BitVec 13
  pagequota : BitVec 32
  pageuse   : BitVec 32
  tbudget   : BitVec 32
  ebudget   : BitVec 32
  vslots    : BitVec 16
  vbanks    : BitVec 24
  stop      : StopState
  deriving DecidableEq, Repr

/-- A partition at reset: nothing bound, every register zero. -/
def Part.empty : Part :=
  { scode := 0, valid := false, vf := 0, slots := 0, banks := 0, ways := 0, chans := 0, qquota := 0, pagequota := 0
    pageuse := 0, tbudget := 0, ebudget := 0, vslots := 0, vbanks := 0, stop := .none }

/-- A stream window of a tile: its base offset, length and watermark, and the intervals landed above the watermark, by
their first byte; length 0 is closed (R229, R230). -/
structure Window where
  base   : Nat
  len    : Nat
  wm     : Nat
  landed : Store Nat
  deriving DecidableEq, Repr

/-- A shoot-down (R311): the map, the label range it drops (`all` for the whole map), the nodes and stubs whose translations
it drops whatever label they were cached under (R61, R63), the tiles that have dropped their
entries, the acknowledgements counted, and the thread of an LMINV that waits for it. -/
structure Shoot where
  vf   : Nat
  lo   : Word
  hi   : Word
  all  : Bool
  via  : List Nat
  seen : List Nat
  acks : Nat
  tid  : Option Nat
  deriving DecidableEq, Repr

/-- A cached translation of one tier (R310): tier 0 to 3071 is a core's, 3072 + tile a tile's. `ro`, `sup`, `order` and
`extent` are the descriptor's as the walk read them (R312). -/
structure Cached where
  tier   : Nat
  vf     : Nat
  label  : Word
  page   : Nat
  node   : Nat
  child  : Option Nat
  ro     : Bool
  sup    : Bool
  order  : Nat
  extent : Nat
  stubs  : List Nat
  deriving DecidableEq, Repr

/-! ## Engines -/

/-- A shape record (Table 6.11). -/
structure Shape where
  base : Word
  ty   : Nat
  rank : Nat
  chan : Bool
  ext  : List Nat
  str  : List Int
  deriving DecidableEq, Repr

/-- A sweep of a core (R188): its thread, the member that issued it, its records in the order D, A, B, C, its mode.
`beat` counts beats done, `run` is the running value of VRED and VSCAN, `inb` the bytes taken from channel sources by
record, `out` the bytes that wait for the send queue, each with whether it is poisoned (R359). `dep` is the access of
the same bundle that may still trap. -/
structure Sweep where
  tid   : Nat
  op    : Instr
  recs  : List Shape
  md    : RMode
  dreg  : BitVec 5
  start : Bool
  beat  : Nat
  run   : Option Nat
  flags : Nat
  pois  : Bool
  inb   : Store (List (Byte × Bool))
  out   : List (Byte × Bool)
  dep   : Option Nat
  pc    : Word
  left  : Nat
  deriving DecidableEq, Repr

/-- A copy record (Table 6.13): `goff` is the word in bytes 48 to 55, GOFF or STEP. -/
structure CopyRec where
  ext    : List Nat
  gstr   : List Int
  clip   : List Nat
  ty     : Nat
  rank   : Nat
  mdim   : Nat
  mrows  : Nat
  mcols  : Nat
  mblock : Nat
  goff   : Word
  deriving DecidableEq, Repr

/-- What a job does. Rows, columns and cells are those of the matrix array. -/
inductive JobOp where
  | copy (kind : Nat) (src dst : Word) (rec : CopyRec)
  /-- the converter: operation, destination, source, SHIFT, mode -/
  | conv (op : Nat) (d a : Shape) (shift : Int) (md : RMode)
  /-- a gather under way: the nodes that its one read of the map found -/
  | gather (dst : Word) (rec : CopyRec) (label : Word) (nodes : List (Nat × Option Nat))
  | mldb (rec : Shape) (off : Nat)
  | mma (rec : Shape) (off row0 : Nat) (md : RMode)
  | mzero (row0 rows cols : Nat)
  /-- MDRN with HAND 0 -/
  | drain (rec : Shape) (row0 rows cols : Nat) (clear : Bool) (md : RMode)
  /-- MDRN with HAND 1, before the rows have passed to the copy engine; `om` for MDRN.OM -/
  | handoff (label : Word) (doff : Nat) (gstr : Int) (ty row0 rows cols : Nat) (clear om : Bool) (md : RMode)
  /-- the rows of a hand-off in the copy engine -/
  | handed (label : Word) (doff : Nat) (gstr : Int) (ty cols : Nat) (om : Bool) (data : List Nat)
  deriving DecidableEq, Repr

/-- Where a job stands. A parked job holds the cause, its value and whether its fault has been queued (R321). -/
inductive JobState where
  | queued
  | started
  | parked (cause : Nat) (v : Word) (posted : Bool)
  deriving DecidableEq, Repr

/-- A part of a footprint (R216): an inclusive interval of a tile's scratchpad or of a label's node. -/
inductive FootPart where
  | spad (tile lo hi : Nat) (write : Bool)
  | label (l : Word) (lo hi : Int) (write : Bool)
  deriving DecidableEq, Repr

/-- An engine job (R215): `entry` is its dependency-table entry (none for MZERO), `engine` the code of Table 11.1, `fifo`
whether it still holds its FIFO entry, `edges` the jobs it takes an edge from, `pos` the elements done and `sect` the
sectors done, `waits` whether its thread waits for it. `sync` is its SYNC word's local address, or 0; `sem` a
semaphore's key; `forum` the set and block at which a job of kind 8 or 9 stands once it has reached the Forum (R278); `mirr`
the forwarded operations that it waits for (R277); `away` that its next sector has left for another module (R339). -/
structure Job where
  tid    : Nat
  launch : Nat
  level  : Nat
  slice  : BitVec 32
  entry  : Option Nat
  engine : Nat
  agent  : Nat
  op     : JobOp
  sync   : Word
  sem    : Option Nat
  state  : JobState
  fifo   : Bool
  waits  : Bool
  edges  : List Nat
  foot   : List FootPart
  pos    : Nat
  sect   : Nat
  flags  : Nat
  dep    : Option Nat
  forum  : Option (Nat × Nat)
  mirr   : List Nat
  away   : Bool
  pc     : Word
  left   : Nat
  used   : BitVec 8
  deriving DecidableEq, Repr

/-- A merge (R227): its key, cursor, the type and element count of its first contribution, and the jobs whose
contributions have arrived, by slice. -/
structure Merge where
  launch : Nat
  node   : Nat
  off    : Nat
  cursor : Nat
  ty     : Nat
  count  : Nat
  seen   : Store Nat
  deriving DecidableEq, Repr

/-- A rule snapshot (R272): NOPS operation words and the sixteen constants. -/
structure Rule where
  ops    : List Nat
  consts : List Nat
  deriving DecidableEq, Repr

/-- A weight read that waits at the Forum for its step (R276): the block, the type and the step, and what it read when
that step closed, codes with their poison and their flags. -/
structure WeightRead where
  block : Nat
  ty    : Nat
  step  : Nat
  got   : Option (List (Nat × Bool) × Nat)
  deriving DecidableEq, Repr

/-- The Forum's state of a parameter set (R268 to R278), by node: the reads that wait there, by job; the closed step,
blocks applied in the open step, a pending close under hold, blocks held (index for the open step, 256 + index for the
next) as codes with their poison, the step's snapshot, the committed copy by byte with its poisoned 64-byte units, the
pages it holds, the demoted pages that a roll-back has still to reach (R275), and whether the set was rolled back after
a lost partner. -/
structure Forum where
  reads     : Store WeightRead
  closed    : BitVec 32
  applied   : List Nat
  pending   : Bool
  early     : Store (List (Nat × Bool))
  rule      : Option Rule
  committed : Store Byte
  cpois     : List Nat
  pages     : List Nat
  undo      : List Nat
  rolled    : Bool
  deriving DecidableEq, Repr

/-- An operation that one member of a mirror pair forwards to the other, whose label it names (R277): a block, a close, a
write of block bytes, or the committed state that a joining partner takes. -/
inductive MirrorOp where
  | block (label : Word) (index : Nat) (step : BitVec 32) (data : List (Nat × Bool))
  | close (label : Word) (step : BitVec 32) (policy : Nat)
  | write (label : Word) (bytes : List (Nat × Byte))
  | join (label : Word) (closed : BitVec 32) (bytes : Store Byte) (pois : List Nat)
  deriving DecidableEq, Repr

/-- A forwarded operation that has reached this member: the sending module, its virtual function, its number there and the
label of the sending member. -/
structure MirrorIn where
  src    : Nat
  member : Word
  vf     : Nat
  req    : Nat
  op     : MirrorOp
  deriving DecidableEq, Repr

/-- A fault record on its way to the ring (Table 19.3). -/
structure FaultRec where
  job    : Nat
  cause  : Nat
  agent  : Nat
  ord    : Nat
  core   : BitVec 32
  value  : Word
  label  : Word
  wher   : Word
  sector : Nat
  stamp  : Nat
  sync   : Word
  deriving DecidableEq, Repr

/-- Sweeps by core, in issue order; jobs; the B banks (tile * 2^21 + column * 2^14 + byte), their poisoned 64-byte
units, the accumulators (tile * 2^15 + (row * 128 + column) * 4 + byte); merges; Forums; mirror operations that have
arrived here; fault buffers by partition * 4 + die, and the faults that have found theirs full (R313); and of each
posted record the job that it names and the action that has been stored to it, 0 for none (R314), by virtual function *
2^64 + index. -/
structure EngState where
  sweeps : Store (List Sweep)
  jobs   : Store Job
  bbank  : Memory
  bPois  : List Nat
  acc    : Memory
  merges : Store Merge
  forums : Store Forum
  mirror : Store MirrorIn
  faults : Store (List FaultRec)
  late   : Store (List FaultRec)
  posted : Store (Nat × Nat)
  deriving DecidableEq, Repr

/-! ## Host, networks and module -/

/-- A launch queue (Table 21.4), with the launches that a QDRAIN at work waits for. -/
structure Queue where
  ring   : Word
  prio   : Nat
  log2   : Nat
  head   : BitVec 32
  tail   : BitVec 32
  errIdx : BitVec 32
  err    : Nat
  state  : Nat
  drain  : Option Nat
  deriving DecidableEq, Repr

/-- A write that the host has posted to a virtual function's registers (R347, R348, R352): RING or the word of PRIO and
LOG2 of a queue, bytes of a queue's ring through BAR 2, an entry of the MSI-X table with its mask, or the function's
mask. -/
inductive HostWrite where
  | ring (vf queue : Nat) (v : Word)
  | level (vf queue : Nat) (v : Word)
  | bytes (vf queue off : Nat) (data : List Byte)
  | entry (vf vector : Nat) (address : Word) (data : BitVec 32) (masked : Bool)
  | mask (vf : Nat) (masked : Bool)
  deriving DecidableEq, Repr

/-- Queues by virtual function * 4096 + number; the last queue dispatched by virtual function * 4 + PRIO; the MSI-X entries'
addresses and data, the vectors that are unmasked or pending and the messages sent, by virtual function * 64 + vector; the
functions that are masked; and the writes that the host has posted, in order. -/
structure HostState where
  queues   : Store Queue
  turn     : Store Nat
  entries  : Store (Word × BitVec 32)
  unmasked : List Nat
  masked   : List Nat
  pending  : List Nat
  sent     : Store Nat
  posted   : List HostWrite
  deriving DecidableEq, Repr

/-- A flit (R338): its packet, whose number is its sequence number, and its place in it, its source, destination and the
router that holds it, age, golden status and partition (16 for none); `again` that a stop absorbed it, so that it is injected
once more (R320). -/
structure Flit where
  packet : Nat
  seq    : Nat
  src    : Nat
  dst    : Nat
  at_    : Nat
  age    : Nat
  golden : Bool
  again  : Bool
  part   : Nat
  deriving DecidableEq, Repr

/-- A packet in flight: its flits and those its destination has reassembled (R337). -/
structure Packet where
  total : Nat
  got   : List Nat
  deriving DecidableEq, Repr

/-- The Ring Road: packets by number (an access's own number), flits, the golden token's place in the serpentine order
and the flit it serves, the save buffers by router (R316), and the Ring Road cycles whose hops, whose step of the token
and, by partition, whose visit of a flush token are done, counted from 1. -/
structure NetState where
  packets : Store Packet
  flits   : List Flit
  token   : Nat
  golden  : Option (Nat × Nat)
  saved   : Store (List Flit)
  hopAt   : Nat
  tokAt   : Nat
  visitAt : Store Nat
  deriving DecidableEq, Repr

/-- A scale-up port: its row of Table 21.1, its peer, the stale counter, and when it last retrained (R340, R342). -/
structure Port where
  state : Nat
  peer  : BitVec 16
  stale : Nat
  tried : Nat
  deriving DecidableEq, Repr

/-- Whom a packet acts for: a thread or a job of the sending module, its level, its holder there and its core number. -/
structure Agent where
  tid    : Nat
  level  : Nat
  fused  : Bool
  launch : Nat
  core   : BitVec 32
  deriving DecidableEq, Repr

/-- What the hardware of a core asks of another module: the line of its code at an offset, a slot of a spill area for a
context, the spilled context of lowest SEQ that waits for a core (R26, R39, R339). -/
inductive HwOp where
  | line (off : Nat)
  | spill (c : Ctx)
  | refill (core : Nat)
  /-- as `refill`, for a launch that has been cancelled with a status code (R299, R336) -/
  | discard (core code : Nat)
  deriving DecidableEq, Repr

/-- The answer: EXTENT and words of a line, a context held, the words of a slot that has been emptied with their poison,
or why not. -/
inductive HwAns where
  | line (extent : Nat) (words : List Word)
  | spilled
  | context (cells : Option (List (Word × Bool)))
  | failed (cause : Nat) (v : Word)
  deriving DecidableEq, Repr

/-- Such a request that is outstanding: the module asked, the thread that it is made for, the context or the launch
concerned, and the label that it names. -/
structure HwAsk where
  peer  : Nat
  tid   : Nat
  id    : Nat
  label : Word
  op    : HwOp
  deriving DecidableEq, Repr

/-- What a scale-up packet carries: the reply to an access, or a trap that it meets at its home; the answer for an
engine sector; a mirror operation or its answer; an access of another module's thread to a label homed here, or an
operation on a map, a directory or a Forum here (R339); an engine's sector, or contribution, to a label homed here
(R222, R344); an abort token for the contributions to a label (R336, R344); the withdrawal of a queued TACQ and its
answer (R170); that a launch which held tenure here has ended, or been reset (R87, R336); and what the hardware of a
core asks for, with its answer (R26, R39). DESIGN CHOICE, log entry 41. -/
inductive LinkBody where
  | value (req : Nat) (v : Option Word) (flags : Nat)
  | failed (req cause : Nat) (v : Word)
  /-- the answer for the next sector of a job: the codes read with their poison, or nothing for a put; its flags -/
  | sector (job : Nat) (data : List (Nat × Bool)) (flags : Nat)
  | sectorFailed (job cause : Nat) (v : Word)
  | mirror (req : Nat) (member : Word) (op : MirrorOp)
  | mirrorDone (req : Nat)
  | access (req : Nat) (who : Agent) (label off : Word) (n : Nat) (op : AccOp)
  | call (req : Nat) (who : Agent) (f : FarCall)
  /-- the next sector of a job from element `pos` on, with its codes and their poison -/
  | ask (job : Nat) (who : Agent) (slice : BitVec 32) (op : JobOp) (pos : Nat) (data : List (Nat × Bool))
  | abort (label : Word)
  | withdraw (req : Nat)
  | withdrawn (req : Nat)
  | ended (launch : Nat) (drop : Bool)
  | hw (req : Nat) (who : Agent) (label : Word) (op : HwOp)
  | hwDone (req : Nat) (r : HwAns)
  deriving DecidableEq, Repr

/-- A scale-up packet (R342): its source module and that module's incarnation, the sending virtual function and its reset
number. -/
structure LinkPacket where
  src   : BitVec 16
  inc   : BitVec 16
  vf    : Nat
  reset : Nat
  body  : LinkBody
  deriving DecidableEq, Repr

/-- A forwarded mirror operation whose answer is outstanding (R277): the set, the partner's module, the operation, and the
answer that it holds back for another module, with its virtual function. -/
structure MirrorOut where
  set  : Nat
  peer : Nat
  op   : MirrorOp
  back : Option (Nat × Nat × LinkBody)
  deriving DecidableEq, Repr

/-- An operation of another module that is at work here, under a thread number of its own: the module, the virtual
function, the holder that it acts as and its core number, and what the packet brought. -/
structure Guest where
  src    : Nat
  req    : Nat
  vf     : Nat
  holder : Holder
  core   : BitVec 32
  f      : FarCall
  deriving DecidableEq, Repr

/-- The scale-up fabric: ports, packets that stand at them, the packets that this module has sent, in order, with their
destinations, forwarded operations whose answers are outstanding, incarnations learnt by module, reset numbers known by
module * 256 + virtual function, this module's own by virtual function, the modules lost, the operations of other modules at
work here by thread number, the modules that a launch holds tenure or merges at (launch, module), the TACQs whose withdrawal
has been asked for, and what the hardware of this module's cores has asked others for. -/
structure LinkState where
  ports  : Store Port
  inbox  : Store LinkPacket
  outbox : List (Nat × LinkPacket)
  awaits : Store MirrorOut
  incs   : Store Nat
  resets : Store Nat
  own    : Store Nat
  lost   : List Nat
  guests : Store Guest
  reach  : List (Nat × Nat)
  undone : List Nat
  asks   : Store HwAsk
  deriving DecidableEq, Repr

/-- A page sealed by the root firmware (R334): its virtual function, DSEQ and entry address, and its bytes with their
poison. -/
structure SealedPage where
  vf   : Nat
  dseq : Nat
  addr : Nat
  body : List (Nat × Byte)
  pois : List Nat
  deriving DecidableEq, Repr

/-- What a PARTX SAVE keeps of a partition (Table 19.4), in the positions that it held, which the image's masks give, and
its threads' numbering. Tenure records stay in force at their homes with the saved holders' dirty data (R318); the image has
its own copy. `queues` are the virtual function's queue registers, `cipher` the sealed bytes that the save has written. -/
structure Image where
  vf       : Nat
  slots    : BitVec 16
  banks    : BitVec 24
  vslots   : BitVec 16
  vbanks   : BitVec 24
  cycle    : Nat
  time     : Nat
  threads  : Store Thread
  spad     : Memory
  spadPois : List Nat
  tags     : List Nat
  sems     : Store Nat
  waiters  : Store (List Nat)
  sends    : Store Send
  wins     : Store Window
  launches : Store Launch
  sweeps   : Store (List Sweep)
  jobs     : Store Job
  bbank    : Memory
  bPois    : List Nat
  acc      : Memory
  merges   : Store Merge
  flits    : List (Nat × Flit)
  packets  : Store Packet
  accs     : Store Access
  faults   : Store (List FaultRec)
  ctxs     : Store (Ctx × CtxState)
  tens     : Store Ten
  queues   : Store Queue
  size     : Nat
  cipher   : List Byte
  deriving DecidableEq, Repr

/-- The root key store: the module's identity key (R357), virtual functions with a key and their next DSEQ, and what has been
sealed, by number. -/
structure KeyState where
  identity : Nat
  dseq     : Store Nat
  pages    : Store SealedPage
  images   : Store Image
  deriving DecidableEq, Repr

/-- A line of a last-level slice: the slice's tile, the set and the way, the 64-byte unit of package memory that it holds, and
whether that has been written since the fill. -/
structure LlcLine where
  tile  : Nat
  set   : Nat
  way   : Nat
  unit  : Nat
  dirty : Bool
  deriving DecidableEq, Repr

/-- The last-level caches of the dies (R14, R15): the lines held, and each slice's B bank in 256 KiB units. -/
structure Llc where
  lines : List LlcLine
  bbank : Store Nat
  deriving DecidableEq, Repr

/-- Time and energy of one virtual function not yet applied, in units and fJ, with what has not been told yet, the
64-byte parts of its accesses at homes that have crossed the Ring Road; what is spent since the last boundary; whether
it has been bound before; whether it is gated (R331); the pages it holds while it is bound to no partition (R327). -/
structure Meter where
  pages  : BitVec 32
  tAcc   : Nat
  eAcc   : Nat
  trips  : Nat
  tSpent : Nat
  eSpent : Nat
  bound  : Bool
  gated  : Bool
  deriving DecidableEq, Repr

/-- A root service at work for a caller (R332): its call record, its code and arguments, the pages moved so far and the
next, and the shoot-down that it waits for with the page frame that it frees then. -/
structure Service where
  call  : CallRec
  code  : Nat
  args  : List Word
  next  : Nat
  moved : Nat
  shoot : Option (Nat × Nat)
  deriving DecidableEq, Repr

/-- The three firmware images of a module, by number (R355): the three low bits of a number say that the image's key has the
digest asked for, that its signature verifies and that its body has the digest it carries; the bits above are its version.
DESIGN CHOICE, log entry 55. -/
structure Firmware where
  root    : Nat
  hyp     : Nat
  service : Nat
  deriving DecidableEq, Repr

/-- An attestation report (Table 22.3). -/
structure Report where
  nonce   : BitVec 256
  number  : Nat
  inc     : BitVec 16
  minVer  : Nat
  warm    : Bool
  root    : BitVec 512
  hyp     : BitVec 512
  service : BitVec 512
  sign    : Nat
  deriving DecidableEq, Repr

/-- What a die's sensors show (R361): core supply in mV, current in mA, power in mW, hottest temperature in degrees. -/
structure DiePower where
  supply  : Nat
  current : Nat
  power   : Nat
  hottest : Int
  deriving DecidableEq, Repr

/-- A power report (R361): the dies', the supply that a clock is judged by, the module's power in mW, and whether every
clock holds. -/
structure PowerReport where
  dies  : Store DiePower
  core  : Nat
  total : Nat
  held  : Bool
  deriving DecidableEq, Repr

/-- How long the two events of R361 have lasted, in reports of 1 ms, and how often each has been raised. -/
structure PowerState where
  supplyFor    : Nat
  powerFor     : Nat
  supplyRaised : Nat
  powerRaised  : Nat
  deriving DecidableEq, Repr

/-- The always-on domain and the management port (R354 to R361): incarnation, failure counters, safe mode, validity of
the retention registers and training values, the kind of the last start, a start under way since a time, fused minimum
version, the firmware images, the module number that management firmware sets, the step at which the recovery loader's
next start fails (0 for none), error logs by die, the last report and read-out, the dies' sensors, the last power report
and the power events. -/
structure BootState where
  inc      : BitVec 16
  warmFail : Nat
  coldFail : Nat
  safe     : Bool
  retained : Bool
  warm     : Bool
  starting : Option (Bool × Nat)
  up       : Bool
  minVer   : Nat
  firmware : Firmware
  number   : BitVec 16
  failsAt  : Nat
  errors   : Store Nat
  report   : Option Report
  readout  : Option (Nat × Nat × List Nat)
  sensors  : Store DiePower
  power    : Option PowerReport
  events   : PowerState
  locked   : Bool
  slew     : Int
  deriving DecidableEq, Repr

/-- What lies outside the tiles. `period` is the index of the last budget boundary applied (R331); `service` holds the
root services at work, by caller; `resets` the resets of virtual functions under way for no caller, true for one that a
Function Level Reset asked for (R352, R359). -/
structure ModState where
  host    : HostState
  net     : NetState
  link    : LinkState
  keys    : KeyState
  llc     : Llc
  meters  : Store Meter
  period  : Nat
  service : Store Service
  resets  : Store Bool
  boot    : BootState
  deriving DecidableEq, Repr

/-! ## The module -/

/-- The whole machine. `cycle` is cr.cycle and `time` cr.time in ns (R22, R151). `agenda` is the schedule: the
autonomous events that happen next, oldest first, and the inputs of the outside world; it is no part of the hardware
(DESIGN CHOICE, log entry 3). `cur` is the thread whose slot is in issue, `lastCore` the core that last had its issue
cycle. Scratchpad keys are tile * 2^20 + offset; package memory is byte addressed; poison is by 64-byte unit. `next`
numbers new records; `splits` names the nodes whose write records a TSPL has split (R79); `pushes` holds halo strips on
their way (storage root, bytes and their poisoned units, R81); `self` is this module's number. -/
structure State where
  cycle    : Nat
  time     : Nat
  agenda   : List Instr
  cur      : Nat
  lastCore : Nat
  iss      : Issue
  next     : Nat
  threads  : Store Thread
  icache   : List CodeLine
  spad     : Memory
  spadPois : List Nat
  tags     : List Nat
  dram     : Memory
  dramPois : List Nat
  maps     : Maps
  tlb      : List Cached
  shoots   : Store Shoot
  accs     : Store Access
  tens     : Store Ten
  splits   : List Nat
  treqs    : Store TenReq
  pushes   : Store (Nat × List (Nat × Byte) × List Nat)
  sync     : SyncState
  launches : Store Launch
  parts    : Store Part
  wins     : Store Window
  eng      : EngState
  mod      : ModState
  self     : Nat
  frozen   : Bool
  deriving DecidableEq, Repr

/-- No engine holds anything. -/
def EngState.empty : EngState :=
  { sweeps := [], jobs := [], bbank := [], bPois := [], acc := [], merges := [], forums := [], mirror := [], faults := []
    late := [], posted := [] }

/-- A scale-up port with all lanes up and no peer yet. -/
def Port.fresh : Port := { state := 0, peer := 0, stale := 0, tried := 0 }

/-- The parts outside the tiles after the first cold start: incarnation 1, failure counters zero, the timebase not yet
locked (R353, R354, R356). -/
def ModState.reset : ModState :=
  { host := { queues := [], turn := [], entries := [], unmasked := [], masked := [], pending := [], sent := [], posted := [] }
    net := { packets := [], flits := [], token := 0, golden := none, saved := [], hopAt := 0, tokAt := 0, visitAt := [] }
    link := { ports := [], inbox := [], outbox := [], awaits := [], incs := [], resets := [], own := [], lost := [], guests := [], reach := [], undone := [], asks := [] }
    keys := { identity := 0, dseq := [], pages := [], images := [] }
    llc := { lines := [], bbank := [] }
    meters := [], period := 0, service := [], resets := []
    boot := { inc := 1, warmFail := 0, coldFail := 0, safe := false, retained := true, warm := false, starting := none
              up := true, minVer := 0, firmware := { root := 7, hyp := 7, service := 7 }, number := 1, failsAt := 0, errors := []
              report := none, readout := none, sensors := [], power := none
              events := { supplyFor := 0, powerFor := 0, supplyRaised := 0, powerRaised := 0 }
              locked := false, slew := 0 } }

/-- The module right after a successful cold start (R354): every memory zero, no map, no partition, no work, counters
at zero. The values the manual does not give are those of log entry 2 (a DESIGN CHOICE). -/
def State.reset : State :=
  { cycle := 0, time := 0, agenda := [], cur := 0, lastCore := 0
    iss := { who := none, snap := none, moved := false, trapped := false, stalled := false }
    next := 1, threads := [], icache := [], spad := [], spadPois := [], tags := [], dram := [], dramPois := []
    maps := { nodes := [], roots := [], nextDesc := 64, frames := [] }
    tlb := [], shoots := [], accs := [], tens := [], splits := [], treqs := [], pushes := []
    sync := { sems := [], waiters := [], recent := [], sends := [], calls := [], ctxs := [] }
    launches := [], parts := [], wins := []
    eng := EngState.empty, mod := ModState.reset, self := 1, frozen := false }

end Sys2Proof.Machine
end

