-- ==== Sys2Proof/Machine/Resolve.lean ====
section
/-! DEFINITION. Path labels as bits (R47 to R51) and their resolution through a label map (R52 to R62, R364, R368). -/

namespace Sys2Proof.Machine

/-! ## Labels as bits -/

def lblRoot (l : Word) : Nat := (l.extractLsb' 52 12).toNat
def lblDepth (l : Word) : Nat := (l.extractLsb' 0 4).toNat

/-- Digit(l, j), level j from 1 to 6 (R51). -/
def lblDigit (l : Word) (j : Nat) : Nat := (l.extractLsb' (52 - 8 * j) 8).toNat

/-- LabelValid (R48, R51). -/
def lblValid (l : Word) : Bool :=
  decide (lblRoot l ≠ 0) && decide (lblDepth l ≤ 6)
    && [1, 2, 3, 4, 5, 6].all (fun j => decide (lblDigit l j ≠ 0) == decide (j ≤ lblDepth l))

/-- The label with the given root and digits; DEPTH is their number, at most 6. -/
def lblMake (root : Nat) (digits : List Nat) : Word :=
  let rec go : List Nat → Nat → Nat
    | [], _ => 0
    | d :: ds, j => d * 2 ^ (52 - 8 * j) + go ds (j + 1)
  word (root * 2 ^ 52 + go digits 1 + digits.length)

/-- The digits of levels 1 to DEPTH. -/
def lblDigits (l : Word) : List Nat := (List.range (Nat.min (lblDepth l) 6)).map (fun i => lblDigit l (i + 1))

/-- Anc(a, b) (R51). -/
def lblAnc (a b : Word) : Bool :=
  decide (lblDepth a ≤ lblDepth b) && decide (a >>> (52 - 8 * lblDepth a) = b >>> (52 - 8 * lblDepth a))

/-- SubEnd(a): the digits below DEPTH become 0xFF and DEPTH 6 (R51). -/
def lblSubEnd (a : Word) : Word := lblMake (lblRoot a) (lblDigits a ++ List.replicate (6 - lblDepth a) 0xFF)

/-- LPAR: the parent by bits, 0 for a root or an invalid label (Table 9.1). -/
def lblParent (l : Word) : Word :=
  if !lblValid l || lblDepth l = 0 then 0 else lblMake (lblRoot l) (lblDigits l).dropLast

/-- LCHD: the child with a digit, 0 when out of range (Table 9.1). -/
def lblChild (l : Word) (d : Nat) : Word :=
  if !lblValid l || lblDepth l = 6 || d = 0 || 255 < d then 0 else lblMake (lblRoot l) (lblDigits l ++ [d])

/-- Splice(n, l, i): 0 when no label can be formed (R51, R62). -/
def lblSplice (n l : Word) (i : Nat) : Word :=
  let rest := (lblDigits l).drop i
  if !lblValid n || 6 < lblDepth n + rest.length then 0 else lblMake (lblRoot n) (lblDigits n ++ rest)

/-! ## Descriptors -/

/-- A field of a node's kind-specific words (Table 3.4): word 0 is bytes 24 to 31. -/
def Node.field (n : Node) (w lo len : Nat) : Nat :=
  if h : w < 5 then ((n.words[w]).extractLsb' lo len).toNat else 0

def Node.rank (n : Node) : Nat := n.field 0 58 2 + 1
def Node.tyCode (n : Node) : Nat := n.field 0 60 4
def Node.halo (n : Node) : Nat := n.field 0 52 6
def Node.suplv (n : Node) : Nat := n.field 0 49 3
def Node.vorg (n : Node) : Nat := n.field 0 0 40
/-- DIM0 to DIM3. -/
def Node.dims (n : Node) : List Nat := [n.field 1 0 32, n.field 1 32 32, n.field 2 0 32, n.field 2 32 32]
/-- TDIM0 to TDIM3. -/
def Node.tdims (n : Node) : List Nat := [n.field 3 0 16, n.field 3 16 16, n.field 3 32 16, n.field 3 48 16]
def Node.stubFault (n : Node) : Bool := decide (n.field 0 0 1 = 1)
def Node.newLabel (n : Node) : Word := n.words[1]
def Node.hits (n : Node) : Word := n.words[2]

/-- Ceiling division; 0 for a zero divisor. -/
def ceilDiv (a b : Nat) : Nat := if b = 0 then 0 else (a + b - 1) / b

/-- The tile counts nt_j of a tile array (R57). -/
def Node.tileCounts (n : Node) : List Nat := List.zipWith ceilDiv n.dims n.tdims

/-- Product of a list. -/
def prod (l : List Nat) : Nat := l.foldl (· * ·) 1

/-- Bytes of a number of elements of a type code: q4x takes 18 bytes for 32 elements (R57, Table 5.1). -/
def tyBytes (code elems : Nat) : Nat :=
  match code with
  | 0 | 4 | 11 => elems
  | 1 | 5 | 9 | 10 => 2 * elems
  | 2 | 6 | 8 => 4 * elems
  | 3 | 7 => 8 * elems
  | 12 => elems / 32 * 18
  | _ => elems

/-- The tile index vector of tile `k`. -/
def Node.tileIndex (n : Node) (k : Nat) : List Nat :=
  let rec go : List Nat → Nat → List Nat
    | [], _ => []
    | c :: cs, k => k % c :: go cs (k / c)
  go n.tileCounts k

/-- The clipped extents of tile `k` (R57). -/
def Node.tileExt (n : Node) (k : Nat) : List Nat :=
  let rec go : List Nat → List Nat → List Nat → List Nat
    | t :: ts, d :: ds, m :: ms => Nat.min d (m - t * d) :: go ts ds ms
    | _, _, _ => []
  go (n.tileIndex k) n.tdims n.dims

/-- The byte size of tile `k` (R57). -/
def Node.tileBytes (n : Node) (k : Nat) : Nat := tyBytes n.tyCode (prod (n.tileExt k))

/-- The byte offset of tile `k` in its array's storage: the tiles before it, in index order (R57). -/
def Node.tileOffset (n : Node) (k : Nat) : Nat := (List.range k).foldl (fun o i => o + n.tileBytes i) 0

/-- NBLK, the number of blocks of a parameter set (Table 16.1). -/
def Node.blockCount (n : Node) : Nat := n.field 0 0 8
/-- GTYPE, NMOM, ELEMS and STEP0 of a parameter set (Table 16.1). -/
def Node.gtype (n : Node) : Nat := n.field 0 60 4
def Node.nmom (n : Node) : Nat := n.field 0 58 2
def Node.elems (n : Node) : Nat := n.field 0 16 16
def Node.step0 (n : Node) : Nat := n.field 1 0 32
/-- MIRROR, the partner's label or 0. -/
def Node.mirror (n : Node) : Word := n.words[2]
/-- S, the bytes of a block: E masters and NMOM moments in f32 (R269). -/
def Node.blockBytes (n : Node) : Nat := 4 * n.elems * (1 + n.nmom)
/-- Where an implicit child's bytes begin in its parent's storage (R57, R269). -/
def Node.childOffset (n : Node) (k : Nat) : Nat :=
  if n.kind = 4 then 256 + k * n.blockBytes else n.tileOffset k

/-- The number of implicit children (R54): tiles of a tile array, blocks of a parameter set. -/
def Node.implicit (n : Node) : Nat :=
  match n.kind with
  | 2 => prod n.tileCounts
  | 4 => n.blockCount
  | _ => 0

/-- Kinds whose children are mapped through a digit table (Table 3.3). -/
def Node.hasKids (n : Node) : Bool := n.kind = 0 || n.kind = 1 || n.kind = 3 || n.kind = 5

/-! ## Resolution -/

/-- Where a path leads: a descriptor, or an implicit child of one. -/
structure Target where
  node  : Nat
  child : Option Nat
  deriving DecidableEq, Repr

/-- One descent of a path in one map. -/
inductive Descent where
  | found (t : Target)
  /-- a stub met at level `i` -/
  | stub (i id : Nat)
  | absent
  deriving DecidableEq, Repr

/-- The rest of a path from a node at level `i`. Nothing lies below an implicit child (R54). -/
def descend (m : Maps) : List Nat → Nat → Nat → Descent
  | [], i, id => match Store.find m.nodes id with
    | some n => if n.kind = 6 then .stub i id else .found { node := id, child := none }
    | none => .absent
  | d :: ds, i, id => match Store.find m.nodes id with
    | none => .absent
    | some n =>
      if n.kind = 6 then .stub i id
      else if n.kind = 2 ∨ n.kind = 4 then
        (if ds = [] ∧ 1 ≤ d ∧ d ≤ n.implicit then .found { node := id, child := some (d - 1) } else .absent)
      else match Store.find n.kids d with
        | some c => descend m ds (i + 1) c
        | none => .absent

/-- The descriptor of a root of a map, if this module homes it; 0 marks an empty entry (R52). -/
def rootNode (m : Maps) (map root : Nat) : Option Nat :=
  match Store.find m.roots (map * 4096 + root) with
  | some (_, d) => if d = 0 then none else some d
  | none => none

/-- The HOME of a root's entry, 0 when the entry is empty. -/
def rootHome (m : Maps) (map root : Nat) : Nat :=
  match Store.find m.roots (map * 4096 + root) with
  | some (h, _) => h
  | none => 0

/-- One descent of a whole label. -/
def descendLabel (m : Maps) (map : Nat) (l : Word) : Descent :=
  match rootNode m map (lblRoot l) with
  | some d => descend m (lblDigits l) 0 d
  | none => .absent

/-- Canon with its target: follows stubs of either policy, at most four, never counts and never traps (R62). -/
def canonGo (m : Maps) (map : Nat) : Nat → Word → Option (Word × Target)
  | 0, l =>
    if !lblValid l then none else
      match descendLabel m map l with
      | .found t => some (l, t)
      | _ => none
  | h + 1, l =>
    if !lblValid l then none else
      match descendLabel m map l with
      | .found t => some (l, t)
      | .absent => none
      | .stub i id => match Store.find m.nodes id with
        | some n => canonGo m map h (lblSplice n.newLabel l i)
        | none => none

/-- Canon of a label with its target. -/
def canonAt (m : Maps) (map : Nat) (l : Word) : Option (Word × Target) := canonGo m map 4 l

/-- Canon (R62): 0 if invalid or unmapped. -/
def canon (m : Maps) (map : Nat) (l : Word) : Word :=
  match canonAt m map l with
  | some (l', _) => l'
  | none => 0

/-- The outcome of a resolution of R59 rows 1 to 3: the target with its label, or a trap; and the redirect stubs passed,
each of which counts (R62). -/
structure Resolution where
  result : Except (Nat × Word) (Word × Target)
  stubs  : List Nat

/-- Follows stubs from label `l`; `given` is the label the access named. -/
def resolveGo (m : Maps) (map : Nat) (given : Word) : Nat → Word → List Nat → Resolution
  | 0, l, st =>
    if !lblValid l then ⟨.error (0x06, given), st⟩ else
      match descendLabel m map l with
      | .found t => ⟨.ok (l, t), st⟩
      | .absent => ⟨.error (0x06, given), st⟩
      | .stub _ _ => ⟨.error (0x16, 0), st⟩
  | h + 1, l, st =>
    if !lblValid l then ⟨.error (0x06, given), st⟩ else
      match descendLabel m map l with
      | .found t => ⟨.ok (l, t), st⟩
      | .absent => ⟨.error (0x06, given), st⟩
      | .stub i id => match Store.find m.nodes id with
        | none => ⟨.error (0x06, given), st⟩
        | some n =>
          if n.stubFault then ⟨.error (0x16, canon m map given), st⟩
          else resolveGo m map given h (lblSplice n.newLabel l i) (st ++ [id])

/-- R59 rows 1 to 3. -/
def resolve (m : Maps) (map : Nat) (l : Word) : Resolution :=
  if lblValid l then resolveGo m map l 4 l [] else ⟨.error (0x07, l), []⟩

/-- HITS saturates at all ones (Table 3.4). -/
def Node.hit (n : Node) : Node := { n with words := n.words.set 2 (if n.hits = Word.ones then Word.ones else n.hits + 1) }

/-- Counts one redirect on each stub passed (R62). -/
def Maps.countHits (m : Maps) (stubs : List Nat) : Maps :=
  { m with nodes := stubs.foldl (fun ns id => Store.upd ns id Node.hit) m.nodes }

/-- The slot of a label: its last slot is examined, not followed. The path above it follows redirect stubs. The root's
own entry is the slot of a root label. -/
inductive Slot where
  | empty
  | node (t : Target)
  | stub (id : Nat)
  deriving DecidableEq, Repr

end Sys2Proof.Machine
end

