-- ==== Sys2Proof/Machine/Ops.lean ====
section
/-! DEFINITION. The named operations over threads, registers, code, memory and traps that every meaning uses: register
read and write (R112), LocalAddr (R70), branch targets (R141), taking a trap (R153, R288, R290) and returning (R154,
R291). -/

namespace Sys2Proof.Machine

/-! ## Places -/

def isMgmt (tid : Nat) : Bool := decide (49152 ≤ tid)
def slotOf (tid : Nat) : Nat := tid % 16
def coreOf (tid : Nat) : Nat := tid / 16
def tileOf (tid : Nat) : Nat := tid / 48
/-- 0 M, 1 C, 2 A, on tenant and management tiles alike. -/
def roleOf (tid : Nat) : Nat := tid / 16 % 3
def tileRow (tile : Nat) : Nat := tile / 32
def tileCol (tile : Nat) : Nat := tile % 32
/-- The die of a tenant tile (R8). -/
def tileDie (tile : Nat) : Nat := 2 * (tileRow tile / 16) + tileCol tile / 16
/-- The die of a thread. -/
def dieOf (tid : Nat) : Nat := if isMgmt tid then (tid - 49152) / 48 else tileDie (tileOf tid)

def tidOf (tile role slot : Nat) : Nat := (tile * 3 + role) * 16 + slot

/-- The core number of a tenant core and slot (Table 1.3). -/
def coreNumber (tile role slot : Nat) : BitVec 32 :=
  BitVec.ofNat 32 (tileRow tile * 0x2000 + tileCol tile * 0x100 + role * 0x40 + slot)

/-- The CALLER form of a management thread (R286). -/
def callerNumber (tid : Nat) : BitVec 32 :=
  BitVec.ofNat 32 (2 ^ 31 + dieOf tid * 2 ^ 28 + roleOf tid * 0x40 + slotOf tid)

/-- The tile, role and slot that a 64-bit value names as a core number, if it names a core (R13). -/
def parseCore (v : Word) : Option (Nat × Nat × Nat) :=
  let n := v.toNat
  let role := n / 64 % 4
  if n < 2 ^ 18 ∧ role ≠ 3 ∧ n / 16 % 4 = 0 then some (n / 256, role, n % 16) else none

/-! ## Threads and registers -/

def State.thread (s : State) (tid : Nat) : Thread := (Store.find s.threads tid).getD Thread.idle

def State.setThread (s : State) (tid : Nat) (t : Thread) : State := { s with threads := Store.put s.threads tid t }

def State.updThread (s : State) (tid : Nat) (f : Thread → Thread) : State := s.setThread tid (f (s.thread tid))

/-- The thread in issue. -/
def State.me (s : State) : Thread := s.thread s.cur

def State.updMe (s : State) (f : Thread → Thread) : State := s.updThread s.cur f

/-- A register as a slot reads it: g0 is zero, the others stand as at issue (R111, R112). -/
def State.reg (s : State) (r : Reg) : Word :=
  if r = 0 then 0 else
    match s.iss.snap with
    | some v => v[r.toNat]
    | none => s.me.g[r.toNat]

/-- A thread's register write: g0 discards, a channel register becomes present (R112). -/
def Thread.setReg (t : Thread) (r : Reg) (v : Word) : Thread :=
  if r = 0 then t else
    { t with g := t.g.set r.toNat v
             pois := t.pois &&& ~~~ ((1 : BitVec 32) <<< r.toNat)
             pres := if 24 ≤ r.toNat then t.pres ||| ((1 : BitVec 8) <<< (r.toNat - 24)) else t.pres }

def State.setReg (s : State) (r : Reg) (v : Word) : State := s.updMe (·.setReg r v)

/-- Presence of a channel register. -/
def Thread.present (t : Thread) (r : Nat) : Bool := t.pres.getLsbD (r - 24)

def Thread.setPresent (t : Thread) (r : Nat) (p : Bool) : Thread :=
  { t with pres := if p then t.pres ||| ((1 : BitVec 8) <<< (r - 24)) else t.pres &&& ~~~ ((1 : BitVec 8) <<< (r - 24)) }

/-! ## Partitions and launches -/

def State.part (s : State) (p : Nat) : Part := (Store.find s.parts p).getD Part.empty

def State.setPart (s : State) (p : Nat) (x : Part) : State := { s with parts := Store.put s.parts p x }

def State.updPart (s : State) (p : Nat) (f : Part → Part) : State := s.setPart p (f (s.part p))

/-- The number of set bits of a mask below a position. -/
def rankOf {w : Nat} (mask : BitVec w) (pos : Nat) : Nat :=
  (List.range pos).foldl (fun n i => if mask.getLsbD i then n + 1 else n) 0

/-- The position of the set bit of a rank, if any. -/
def posOf {w : Nat} (mask : BitVec w) (rank : Nat) : Option Nat :=
  (List.range w).find? (fun i => mask.getLsbD i && decide (rankOf mask i = rank))

/-- The number of set bits. -/
def popOf {w : Nat} (mask : BitVec w) : Nat := rankOf mask w

/-- The resident partition that owns a tenant thread's slot (R28). -/
def State.partOf (s : State) (tid : Nat) : Option Nat :=
  if isMgmt tid then none
  else (s.parts.find? (fun p => p.2.valid && p.2.slots.getLsbD (slotOf tid))).map (·.1)

/-- The slot number that software of a partition sees for a physical slot (R319). -/
def Part.viewSlot (p : Part) (phys : Nat) : Nat := (posOf p.vslots (rankOf p.slots phys)).getD phys

/-- The physical slot of a slot number that software names. -/
def Part.physSlot (p : Part) (view : Nat) : Option Nat :=
  if p.vslots.getLsbD view then posOf p.slots (rankOf p.vslots view) else none

/-- The physical bank of a bank field that software names (R319). -/
def Part.physBank (p : Part) (view : Nat) : Option Nat :=
  if p.vbanks.getLsbD view then posOf p.banks (rankOf p.vbanks view) else none

/-- The first thread number of the operations of other modules. -/
def guestFrom : Nat := 2 ^ 20

/-- The operation of another module under a thread number (R339). -/
def State.guest (s : State) (tid : Nat) : Option Guest := if tid < guestFrom then none else Store.find s.mod.link.guests tid

/-- The map a thread's labels resolve in: its virtual function's, or the system map, 256 (R284). -/
def State.mapOf (s : State) (tid : Nat) : Nat :=
  match s.partOf tid with
  | some p => (s.part p).vf
  | none => match s.guest tid with
    | some g => g.vf
    | none => 256

/-- The core number a thread reads in cr.core (R286, R319). -/
def State.coreWord (s : State) (tid : Nat) : BitVec 32 :=
  if isMgmt tid then match s.guest tid with
    | some g => g.core
    | none => callerNumber tid
  else
    let slot := match s.partOf tid with
      | some p => (s.part p).viewSlot (slotOf tid)
      | none => slotOf tid
    coreNumber (tileOf tid) (roleOf tid) slot

/-- A tile lies in a launch's rectangle, which may cross the torus edge. -/
def Launch.hasTile (l : Launch) (tile : Nat) : Bool :=
  decide ((tileRow tile + 32 - l.row0) % 32 < l.rows) && decide ((tileCol tile + 32 - l.col0) % 32 < l.cols)

/-- The launch that holds a tenant thread's slot on its tile (R28). -/
def State.launchOf (s : State) (tid : Nat) : Option Nat :=
  if isMgmt tid then none
  else (s.launches.find? (fun l => (decide (l.2.phase = .placed) || decide (l.2.phase = .running))
    && l.2.hasTile (tileOf tid) && l.2.slots.getLsbD (slotOf tid)
    && decide (s.partOf tid = some l.2.part))).map (·.1)

def State.launch (s : State) (id : Nat) : Option Launch := Store.find s.launches id

def State.updLaunch (s : State) (id : Nat) (f : Launch → Launch) : State := { s with launches := Store.upd s.launches id f }

/-- The holder a thread acts as (R73): its core, or its tile in a fused launch, with its launch. -/
def State.holderOf (s : State) (tid : Nat) : Holder :=
  match s.launchOf tid with
  | some id => match s.launch id with
    | some l => if l.fused then { fused := true, unit := tileOf tid, launch := id }
                else { fused := false, unit := coreOf tid, launch := id }
    | none => { fused := false, unit := coreOf tid, launch := 0 }
  | none => match s.guest tid with
    | some g => g.holder
    | none => { fused := false, unit := coreOf tid, launch := 0 }

/-! ## Local addresses -/

/-- LocalAddr (R70, R365, R319) for a thread: the scratchpad key of a local address, or trap 0x05. -/
def State.localAddr (s : State) (tid : Nat) (a : Word) : Except (Nat × Word) Nat :=
  let row := (a.extractLsb' 53 5)
  let col := (a.extractLsb' 48 5)
  let bank := (a.extractLsb' 15 5).toNat
  if a.extractLsb' 58 4 ≠ 0 ∨ a.extractLsb' 20 28 ≠ 0 then .error (0x05, a)
  else if isMgmt tid ∧ a.extractLsb' 62 2 ≠ 0 then .error (0x05, a)
  else
    let tile :=
      if a.getLsbD 62 then tileOf tid
      else if a.getLsbD 63 then
        ((tileRow (tileOf tid) + row.toNat) % 32) * 32 + (tileCol (tileOf tid) + col.toNat) % 32
      else row.toNat * 32 + col.toNat
    let phys : Option Nat :=
      if 23 < bank then none
      else if isMgmt tid then
        (if 2 ≤ (s.thread tid).level.toNat ∧ (s.part ((s.thread tid).sys.psel.extractLsb' 0 4).toNat).banks.getLsbD bank
          then some bank else none)
      else match s.partOf tid with
        | some p => (s.part p).physBank bank
        | none => none
    match phys with
    | some b => .ok (tile * 2 ^ 20 + b * 2 ^ 15 + (a.extractLsb' 0 15).toNat)
    | none => .error (0x05, a)

/-- The tile of a scratchpad key. -/
def keyTile (key : Nat) : Nat := key / 2 ^ 20

/-! ## Code -/

/-- The node a code label names, for checks that neither count stubs nor trap. -/
def State.codeNode (s : State) (map : Nat) (code : Word) : Option (Nat × Node) :=
  match canonAt s.maps map code with
  | some (_, t) => match t.child, Store.find s.maps.nodes t.node with
    | none, some n => some (t.node, n)
    | _, _ => none
  | none => none

/-- The other module that homes a valid label of a map, if one does (R52, R339). -/
def State.farHome (s : State) (map : Nat) (l : Word) : Option Nat :=
  let h := rootHome s.maps map (lblRoot l)
  if lblValid l ∧ h ≠ 0 ∧ h ≠ s.self then some h else none

/-- EXTENT of a code node as a core knows it: by its descriptor here, or by a line that another module has sent. -/
def State.codeExtent (s : State) (core map : Nat) (code : Word) : Option Nat :=
  match s.codeNode map code with
  | some (_, n) => some n.extent
  | none => (s.icache.find? (fun l => decide (l.core = core) && decide (l.vf = map) && decide (l.label = code)
      && l.far.isSome)).bind (·.far)

/-- The 64-byte line of a core's instruction cache, if present. -/
def State.cachedLine (s : State) (core map : Nat) (code : Word) (line : Nat) : Option (List Word) :=
  (s.icache.find? (fun l => decide (l.core = core) && decide (l.vf = map) && decide (l.label = code)
    && decide (l.line = line))).map (·.words)

/-- A 64-bit word of package memory. -/
def State.dramWord (s : State) (phys : Nat) : Word := word (Memory.readLe s.dram phys 8)

/-- The word at an offset of a code node, as the core would find it there: from its instruction cache, or from the
node's page. None when the page holds no readable data now; the fetch then traps (DEDUCED, log entry 5). -/
def State.peekCode (s : State) (tid : Nat) (code : Word) (off : Nat) : Option Word :=
  let map := s.mapOf tid
  match s.cachedLine (coreOf tid) map code (off / 64) with
  | some ws => ws[off % 64 / 8]?
  | none => match s.codeNode map code with
    | some (_, n) => match Store.find n.pages (off / 65536) with
      | some (.present f) => some (s.dramWord (f * 65536 + off % 65536))
      | some _ => none
      | none => some 0
    | none => none

/-- The checks of a block header (R110, R141 row 3). -/
def headerCheck (w : Word) : Option (Nat × Word) :=
  if hdrTag w ≠ 0x3F then some (0x03, w)
  else if hdrLen w = 0 ∨ hdrLow w ≠ 0 then some (0x01, w)
  else none

/-- Rows 1 and 2 of R141 for a target in a code node of some extent. -/
def targetIn (extent : Nat) (t : Word) : Option (Nat × Word) :=
  if 2 ^ 63 ≤ t.toNat ∨ extent < t.toNat + 8 then some (0x08, t)
  else if t.toNat % 8 ≠ 0 then some (0x03, t)
  else none

/-- Rows 1 and 2 of R141 for a target: the trap it meets, if any. The extent of a node that another module homes is
checked as far as a line has brought it; the fetch checks it there (DESIGN CHOICE, log entry 41). -/
def State.offsetCheck (s : State) (tid : Nat) (code t : Word) : Option (Nat × Word) :=
  let map := s.mapOf tid
  match s.codeExtent (coreOf tid) map code with
  | some ext => targetIn ext t
  | none =>
    if (s.farHome map code).isSome then targetIn (2 ^ 64) t
    else match (resolve s.maps map code).result with
      | .error e => some e
      | .ok _ => some (0x06, code)

/-- R141: the trap that a branch target meets, if any. -/
def State.targetCheck (s : State) (tid : Nat) (code t : Word) : Option (Nat × Word) :=
  match s.offsetCheck tid code t with
  | some e => some e
  | none => match s.peekCode tid code t.toNat with
    | some w => headerCheck w
    | none => none

/-! ## Control -/

/-- Control passes to a place in the thread's code node; `left` 0 names a header. -/
def State.goTo (s : State) (pc : Word) (left : Nat) : State :=
  { s.updMe (fun t => { t with pc := pc, left := left }) with iss := { s.iss with moved := true } }

/-- The bundle after the current one (R152): the following bundle, or the next header. -/
def Thread.after (t : Thread) : Word × Nat := (t.pc + 8, t.left - 1)

/-- The link of a branch: the first header after its block (R141). -/
def Thread.link (t : Thread) : Word := t.pc + word (8 * t.left)

/-- The layout of cr.uepc and cr.sepc (Table 8.5). -/
def epcWord (pc : Word) (left : Nat) : Word :=
  ((word left &&& 0xFF) <<< 40) ||| (pc &&& 0xFFFFFFFFF8)

def epcPc (w : Word) : Word := w &&& 0xFFFFFFFFF8
def epcLeft (w : Word) : Nat := (w.extractLsb' 40 8).toNat
/-- 8 * HANDLER of cr.uvec and cr.svec. -/
def handlerOf (w : Word) : Word := w &&& 0xFFFFFFFFF8
def inhOf (w : Word) : Bool := w.getLsbD 63
def withInh (w : Word) (b : Bool) : Word := if b then w ||| 0x8000000000000000 else w &&& 0x7FFFFFFFFFFFFFFF

/-! ## Traps -/

/-- The cr.callw word of a caller (Table 18.3). -/
def State.callWord (s : State) (tid code kind : Nat) : Word :=
  let part := (s.partOf tid).getD 0
  let vf := match s.partOf tid with
    | some p => (s.part p).vf
    | none => 0
  let num := if isMgmt tid then callerNumber tid else coreNumber (tileOf tid) (roleOf tid) (slotOf tid)
  word (code % 2 ^ 16 * 2 ^ 48 + kind * 2 ^ 44 + part * 2 ^ 40 + vf * 2 ^ 32 + num.toNat)

/-- Posts a call record to the queue of the level above on the caller's die (R290, R292). Entries past the 256th wait
for room in the order of posting, which is where a thread whose call finds the queue full stands. -/
def State.postCall (s : State) (tid : Nat) (callw : Word) (args : List Word) : State :=
  let key := (if (s.thread tid).level.toNat ≤ 1 then 2 else 3) * 4 + dieOf tid
  let q := (Store.find s.sync.calls key).getD []
  { s with sync := { s.sync with calls := Store.put s.sync.calls key (q ++ [{ tid := tid, callw := callw, args := args }]) } }

/-- Adds a reason to stay out of the rotation. -/
def State.block (s : State) (tid : Nat) (w : Why) : State := s.updThread tid (fun t => { t with waits := w :: t.waits })

/-- Removes a reason. -/
def State.unblock (s : State) (tid : Nat) (w : Why) : State :=
  s.updThread tid (fun t => { t with waits := t.waits.filter (fun x => decide (x ≠ w)) })

/-- The vector slot of the bundle at a resumption point has been performed (SONLY of Table 19.5). DEDUCED, log entry 30. -/
def Thread.sonlyAt (t : Thread) (pc : Word) (left : Nat) : Bool :=
  t.sonly && decide (t.pc = pc) && decide (t.left = left)

/-- What a frame keeps of that: the word of the resumption point. -/
def Thread.sonlyWord (t : Thread) (pc : Word) (left : Nat) : Option Word :=
  if t.sonlyAt pc left then some (epcWord pc left) else none

/-- Escalation (R290): the thread parks, keeping the cause that it retakes after a restoration (R295, R320), and a call
record of KIND 1 is posted; a root thread freezes the module. -/
def State.escalate (s : State) (tid : Nat) (cause : Nat) (v : Word) (pc : Word) (left : Nat) : State :=
  if (s.thread tid).level = 3 then { s with frozen := true }
  else
    (s.postCall tid (s.callWord tid cause 1)
      [word cause, v, epcWord pc left, (s.thread tid).code]).updThread tid
        (fun t => { t with waits := .parked :: t.waits, sonly := t.sonlyAt pc left, pc := pc, left := left
                           sys := { t.sys with pend := some (cause, v) } })

/-- EnterFrame (R288): the trap enters the thread's own frame, or escalates. -/
def State.enterFrame (s : State) (tid : Nat) (cause : Nat) (v : Word) (pc : Word) (left : Nat) : State :=
  let t := s.thread tid
  if inhOf t.sys.scause ∨ ¬ t.sys.svec.getLsbD 0 then s.escalate tid cause v pc left
  else
    let s1 := s.updThread tid (fun t => { t with sys := { t.sys with
      scause := withInh (word (t.level.toNat * 2 ^ 60 + cause)) true
      sepc := epcWord pc left, sval := v, sxcode := t.code, sonly := t.sonlyWord pc left } })
    let code := if isMgmt tid then t.code else (s.part ((s.partOf tid).getD 0)).scode
    let target := handlerOf t.sys.svec
    match s1.targetCheck tid code target with
    | some (c, _) => s1.escalate tid c target pc left
    | none => s1.updThread tid (fun t => { t with
        level := if t.level = 0 then 1 else t.level, code := code, pc := target, left := 0, sonly := false })

/-- The causes a user handler may take (R153). -/
def userCause (c : Nat) : Bool := c = 0x0C || c = 0x0F || c = 0x14 || c = 0x16

/-- Trap (R153, R288): the user handler where R153 sends it there, else the frame. `pc` and `left` are the resumption
point. A trap of another module's operation returns in its reply (R339). -/
def State.trapThread (s : State) (tid : Nat) (cause : Nat) (v : Word) (pc : Word) (left : Nat) : State :=
  let t := s.thread tid
  if guestFrom ≤ tid then s.updThread tid (fun t => { t with sys := { t.sys with pend := some (cause, v) } })
  else if t.level = 0 ∧ userCause cause ∧ t.uvec.getLsbD 0 ∧ ¬ inhOf t.ucause then
    let s1 := s.updThread tid (fun t => { t with
      ucause := withInh (word cause) true, uepc := epcWord pc left, uval := v, uonly := t.sonlyWord pc left })
    let target := handlerOf t.uvec
    match s1.targetCheck tid t.code target with
    | some (c, x) => s1.enterFrame tid c x pc left
    | none => s1.updThread tid (fun t => { t with pc := target, left := 0, sonly := false })
  else s.enterFrame tid cause v pc left

/-- A stop has been reached at a cycle: from the armed cycle on nothing of the partition issues (R298, R315). -/
def StopState.due (x : StopState) (cycle : Nat) : Bool :=
  match x with
  | .none => false
  | .armed c => decide (c ≤ cycle)
  | .flushing _ _ _ _ | .stopped _ _ => true

/-- The partition of a tenant thread has reached its stop cycle (R315). -/
def State.stopReached (s : State) (tid : Nat) : Bool :=
  match s.partOf tid with
  | some p => (s.part p).stop.due s.cycle
  | none => false

/-- A trap that an answer brings: it is taken now, or on resumption when the stop has been reached (R322). -/
def State.trapLater (s : State) (tid : Nat) (cause : Nat) (v : Word) (pc : Word) (left : Nat) : State :=
  if s.stopReached tid then
    s.updThread tid (fun t => { t with pc := pc, left := left, sys := { t.sys with pend := some (cause, v) } })
  else s.trapThread tid cause v pc left

/-- A trap of the bundle in issue at a resumption point. -/
def State.trapAt (s : State) (cause : Nat) (v : Word) (pc : Word) (left : Nat) : State :=
  let s1 := s.trapThread s.cur cause v pc left
  { s1 with iss := { s1.iss with moved := true, trapped := true } }

/-- A trap of the bundle in issue, which is its own resumption point (R135, R153). -/
def State.trap (s : State) (cause : Nat) (v : Word) : State := s.trapAt cause v s.me.pc s.me.left

/-- A slot that waits and is issued again when the condition holds (R26). -/
def State.stall (s : State) (w : Why) : State :=
  { s.block s.cur w with iss := { s.iss with stalled := true } }

/-! ## Meanings that may trap or wait -/

/-- How a slot's meaning ends early. -/
inductive Stop where
  | trap (cause : Nat) (v : Word)
  | wait (w : Why)

/-- A meaning under way: what it has changed is kept when it traps (stubs counted, pages allocated), and not when it is to be
issued again (R62). -/
abbrev Op (α : Type) := ExceptT Stop (StateM State) α

def opTrap {α : Type} (cause : Nat) (v : Word) : Op α := throw (.trap cause v)
def opWait {α : Type} (w : Why) : Op α := throw (.wait w)
def opCheck (ok : Bool) (cause : Nat) (v : Word) : Op Unit := if ok then pure () else opTrap cause v
def opGet : Op State := get
def opMod (f : State → State) : Op Unit := modify f
def opOk {α : Type} : Except (Nat × Word) α → Op α
  | .ok a => pure a
  | .error (c, v) => opTrap c v

/-- Runs a meaning that began in `s0` on from a state; an early stop takes its trap there, or waits as it began. -/
def runFrom (s0 : State) (m : Op Unit) (s : State) : Host.Outcome State Fault Refusal :=
  match m.run s with
  | (.ok _, s') => .next s'
  | (.error (.trap c v), s') => .next (s'.trap c v)
  | (.error (.wait w), _) => .next (s0.stall w)

/-- Runs a meaning. -/
def runOp (m : Op Unit) (s : State) : Host.Outcome State Fault Refusal := runFrom s m s

end Sys2Proof.Machine
end

