-- ==== Sys2Proof/Machine/Operands.lean ====
section
/-! DEFINITION. Operand forms of the scalar slot: immediates (Table 6.5), conditions (R139), sizes, and the registers a
slot reads (R112, R136). -/

namespace Sys2Proof

/-- SIZE in bytes. -/
def Size.bytes : Size → Nat
  | .b8 => 1
  | .b16 => 2
  | .b32 => 4
  | .b64 => 8

/-- The number of a scope, its code (Table 6.4). -/
def Scope.num (p : Scope) : Nat := p.code.toNat

/-- ORD release or acq-rel. -/
def MemOrd.isRel : MemOrd → Bool
  | .rel | .acqRel => true
  | .plain | .acq => false

end Sys2Proof

namespace Sys2Proof.Machine

/-- Sext(IMM16, 16). -/
def immS (i : BitVec 16) : Word := i.signExtend 64
/-- Zext(IMM16, 16). -/
def immZ (i : BitVec 16) : Word := i.setWidth 64

/-- CMPI's second operand (Table 6.5). -/
def cmpImm (c : Cond) (i : BitVec 16) : Word :=
  match c with
  | .eq | .ne | .lt | .ge => immS i
  | .ltn | .gen => immZ i
  | .bs | .bc => immZ i &&& 63

/-- The condition of CMP and CMPI (R139). -/
def condHolds (c : Cond) (x y : Word) : Bool :=
  match c with
  | .eq => decide (x = y)
  | .ne => decide (x ≠ y)
  | .lt => decide (x.toInt < y.toInt)
  | .ge => decide (y.toInt ≤ x.toInt)
  | .ltn => decide (x.toNat < y.toNat)
  | .gen => decide (y.toNat ≤ x.toNat)
  | .bs => x.getLsbD (y.toNat % 64)
  | .bc => !x.getLsbD (y.toNat % 64)

/-- The branch target of an OFF26 field (Table 6.5). -/
def offTarget (pc : Word) (off : BitVec 26) : Word := pc + (off.signExtend 64 <<< 3)

/-- The low `n` bytes of a word. -/
def lowBytes (v : Word) (n : Nat) : Nat := v.toNat % 2 ^ (8 * n)

/-- An `n`-byte value as LDL and LDG write it (R143). -/
def extendBytes (v n : Nat) (sx : Bool) : Word :=
  if sx ∧ 2 ^ (8 * n - 1) ≤ v then word (v + (2 ^ 64 - 2 ^ (8 * n))) else word v

/-- The signed value of an `n`-byte number. -/
def signedOf (v n : Nat) : Int := if 2 ^ (8 * n - 1) ≤ v then (v : Int) - 2 ^ (8 * n) else v

end Sys2Proof.Machine
end

