-- ==== Sys2Proof/Machine/Flags.lean ====
section
/-! DEFINITION. The sticky flags of cr.fst (R97, Table 5.6) and the rounding mode of a slot (R96). -/

namespace Sys2Proof.Machine

/-- ORs flags into a thread's cr.fst; a flag once set stays set (R97). -/
def State.orFlags (s : State) (tid fl : Nat) : State := s.updThread tid (fun t => { t with fst := t.fst ||| word fl })

/-- The mode that cr.frm holds (Table 5.6). -/
def frmMode (frm : Word) : RMode := (RMode.ofCode (frm.extractLsb' 0 2)).getD .rne

/-- The mode of a vector slot: its own, or cr.frm at issue (R96). -/
def State.slotMode (s : State) (r : Rnd) : RMode :=
  match r with
  | .dyn => frmMode s.me.frm
  | .fixed m => m

end Sys2Proof.Machine
end

