-- ==== Sys2Proof/Machine/Storage.lean ====
section
/-! DEFINITION. Where a node's bytes live (R55 to R57, R72): storage roots, rectangles, the map from bytes of a view or a
tile to bytes of its storage root, and the package memory behind a page. -/

namespace Sys2Proof.Machine

def State.node (s : State) (id : Nat) : Option Node := Store.find s.maps.nodes id

/-- The ancestor `n` levels above a node, found through the digit tables (R56, Table 3.4). -/
def parentOf (m : Maps) (id : Nat) : Option Nat :=
  (m.nodes.find? (fun p => p.2.kids.any (fun k => decide (k.2 = id)))).map (·.1)

def ancestor (m : Maps) (id : Nat) : Nat → Option Nat
  | 0 => some id
  | n + 1 => match ancestor m id n with
    | some p => parentOf m p
    | none => none

/-- The root number above a node, by fuel. -/
def rootAbove (m : Maps) (id : Nat) : Nat → Option Nat
  | 0 => none
  | f + 1 => match m.roots.find? (fun r => decide (r.2.2 = id)) with
    | some r => some (r.1 % 4096)
    | none => match parentOf m id with
      | some p => rootAbove m p f
      | none => none

/-- A node under the host root, 4093 (R346): its frames are host bus addresses. -/
def Maps.isHost (m : Maps) (id : Nat) : Bool := decide (rootAbove m id 8 = some 4093)

/-- The storage root's descriptor of a node (R72). -/
def storageRoot (m : Maps) (id : Nat) : Nat :=
  match Store.find m.nodes id with
  | some n => if n.kind = 1 ∨ n.kind = 2 then (ancestor m id n.suplv).getD id else id
  | none => id

/-- An index vector from an element number, dimension 0 fastest, under extents. -/
def indexOf : List Nat → Nat → List Nat
  | [], _ => []
  | d :: ds, k => (if d = 0 then 0 else k % d) :: indexOf ds (if d = 0 then 0 else k / d)

/-- The element number of an index vector under extents (R56). -/
def elemOf : List Nat → List Nat → Nat
  | d :: ds, i :: is => i + d * elemOf ds is
  | _, _ => 0

/-- Elements and bytes of one storage unit: a q4x block is 32 elements in 18 bytes (R93). -/
def unitElems (code : Nat) : Nat := if code = 12 then 32 else 1
def unitBytes (code : Nat) : Nat := if code = 12 then 18 else tyBytes code 1

/-- Extents along dimension 0 counted in units. -/
def unitDims (code : Nat) : List Nat → List Nat
  | d :: ds => d / unitElems code :: ds
  | [] => []

/-- The byte of a node with own storage that holds byte `b` of the unit of an element, by the element's index (R56, R57). -/
def Node.byteAt (n : Node) (idx : List Nat) (b : Nat) : Nat :=
  let c := n.tyCode
  let at_ (ext i : List Nat) : Nat := elemOf ext i / unitElems c * unitBytes c + b
  if n.kind = 2 then
    let t := List.zipWith (fun i d => if d = 0 then 0 else i / d) idx n.tdims
    let inner := List.zipWith (fun i d => if d = 0 then 0 else i % d) idx n.tdims
    let k := elemOf n.tileCounts t
    n.tileOffset k + at_ (n.tileExt k) inner
  else at_ n.dims idx

/-- The tile of a tile array that holds a byte of its storage: its number and the byte within it, by fuel. -/
def Node.tileAt (n : Node) (off : Nat) : Nat → Nat → Nat × Nat
  | 0, k => (k, off)
  | f + 1, k => if off < n.tileOffset k + n.tileBytes k then (k, off - n.tileOffset k) else n.tileAt off f (k + 1)

/-- The index, in the node's own index space, of element `j` of the unit that holds a byte of its own offsets, and the byte
within the unit; none past the elements of a tile or a tensor. Bytes of an EXTENT past the elements wrap to the first ones: no
rule ties EXTENT to DIM (R56; DESIGN CHOICE, log entry 74). -/
def Node.elemAt (n : Node) (off j : Nat) : Option (List Nat) :=
  let c := n.tyCode
  let e (o : Nat) : Nat := o / Nat.max 1 (unitBytes c) * unitElems c + j
  if n.kind = 2 then
    let (k, o) := n.tileAt off 255 0
    if j ≠ 0 ∧ prod (n.tileExt k) ≤ e o then none
    else some (List.zipWith (· + ·) (List.zipWith (· * ·) (n.tileIndex k) n.tdims) (indexOf (n.tileExt k) (e o)))
  else if j ≠ 0 ∧ prod n.dims ≤ e off then none
  else some (indexOf n.dims (e off))

/-- The first of these indexes, and the byte within the unit. -/
def Node.indexAt (n : Node) (off : Nat) : List Nat × Nat :=
  let b := if n.kind = 2 then (n.tileAt off 255 0).2 else off
  ((n.elemAt off 0).getD [], b % Nat.max 1 (unitBytes n.tyCode))

/-- The view's origin as an index vector of its root. VORG counts the elements of a root in the dense order of its
dimensions, of a tile array too, and an origin inside a q4x block is taken at the block's start.
DESIGN CHOICE, log entry 68. -/
def Node.viewOrigin (n root : Node) : List Nat := indexOf root.dims n.vorg

/-- A byte of a target as (storage root, byte of its storage). A byte of a view's EXTENT past its last element is one of the
view's own, as `Node.elemAt` wraps it (R72; DESIGN CHOICE, log entry 74). -/
def rootByte (m : Maps) (t : Target) (off : Nat) : Nat × Nat :=
  match Store.find m.nodes t.node with
  | none => (t.node, off)
  | some n =>
    let own := match t.child with
      | some k => n.childOffset k + off
      | none => off
    if (n.kind = 1 ∨ n.kind = 2) ∧ n.suplv ≠ 0 then
      let r := storageRoot m t.node
      match Store.find m.nodes r with
      | some root =>
        let (idx, b) := n.indexAt own
        (r, root.byteAt (List.zipWith (· + ·) idx (n.viewOrigin root)) b)
      | none => (r, own)
    else (t.node, own)

/-- The rectangle of a tenurable target in its root's index space, in elements (R72). -/
def rectOf (m : Maps) (t : Target) : Rect :=
  match Store.find m.nodes t.node with
  | none => { org := [], ext := [] }
  | some n =>
    let base := if n.suplv = 0 then [0, 0, 0, 0] else
      match Store.find m.nodes (storageRoot m t.node) with
      | some root => indexOf root.dims n.vorg
      | none => [0, 0, 0, 0]
    match t.child with
    | some k => { org := List.zipWith (· + ·) base (List.zipWith (· * ·) (n.tileIndex k) n.tdims), ext := n.tileExt k }
    | none => { org := base, ext := n.dims }

/-- Two rectangles share an element. -/
def Rect.meets (a b : Rect) : Bool :=
  (List.zip (List.zip a.org a.ext) (List.zip b.org b.ext)).all
    (fun p => decide (0 < p.1.2) && decide (0 < p.2.2) && decide (p.1.1 < p.2.1 + p.2.2) && decide (p.2.1 < p.1.1 + p.1.2))

/-- A rectangle holds an index vector. -/
def Rect.has (r : Rect) (idx : List Nat) : Bool :=
  (List.zip (List.zip r.org r.ext) idx).all (fun p => decide (p.1.1 ≤ p.2) && decide (p.2 < p.1.1 + p.1.2))

/-- Number of elements. -/
def Rect.size (r : Rect) : Nat := prod r.ext

/-- All index vectors of a rectangle, dimension 0 fastest. -/
def Rect.indexes (r : Rect) : List (List Nat) :=
  (List.range r.size).map (fun k => List.zipWith (· + ·) r.org (indexOf r.ext k))

/-- The bytes of a node's elements; what lies past them in its EXTENT holds none. A q4x tensor ends with a whole block. -/
def Node.dataBytes (n : Node) : Nat :=
  if n.kind = 2 then n.tileOffset n.implicit
  else ceilDiv (prod n.dims) (unitElems n.tyCode) * unitBytes n.tyCode

/-- A byte of a storage root holds an element of a rectangle; a q4x byte holds the 32 elements of its block (R72). -/
def State.rectHasByte (s : State) (root : Nat) (r : Rect) (off : Nat) : Bool :=
  match s.node root with
  | some n => (n.kind = 1 || n.kind = 2) && decide (off < n.dataBytes) && (List.range (unitElems n.tyCode)).any (fun j =>
      match n.elemAt off j with
      | some i => r.has i
      | none => false)
  | none => false

/-- All bytes of a rectangle of a storage root, each once. -/
def State.rectBytes (s : State) (root : Nat) (r : Rect) : List Nat :=
  match s.node root with
  | some n =>
    let units := r.indexes.map (fun i => n.byteAt i 0)
    (if unitElems n.tyCode = 1 then units else units.eraseDups).flatMap (fun u => (List.range (unitBytes n.tyCode)).map (u + ·))
  | none => []

/-! ## Package memory behind a node -/

/-- The physical byte behind a byte of a storage root, if its page is present. -/
def State.physOf (s : State) (root off : Nat) : Option Nat :=
  match s.node root with
  | some n => match Store.find n.pages (off / 65536) with
    | some (.present f) => some (f * 65536 + off % 65536)
    | _ => none
  | none => none

/-- A byte at its home: zero where no page is present. -/
def State.homeByte (s : State) (root off : Nat) : Byte :=
  match s.physOf root off with
  | some p => s.dram.read p
  | none => 0

/-- Writes a byte at its home; nothing where no page is present. -/
def State.putHome (s : State) (root off : Nat) (b : Byte) : State :=
  match s.physOf root off with
  | some p => { s with dram := s.dram.write p b }
  | none => s

/-- The page of a byte of a storage root is demoted: no data can be written to its home (Table 19.1). -/
def State.demotedAt (s : State) (root off : Nat) : Bool :=
  match (s.node root).bind (fun n => Store.find n.pages (off / 65536)) with
  | some (.demoted _) => true
  | _ => false

/-- The 64-byte unit of a home byte is poisoned (R359). -/
def State.homePoisoned (s : State) (root off : Nat) : Bool :=
  match s.physOf root off with
  | some p => s.dramPois.contains (p / 64)
  | none => false

/-- Writes a list of (offset, byte) pairs at their home. -/
def State.putHomeAll (s : State) (root : Nat) (l : List (Nat × Byte)) : State :=
  l.foldl (fun s p => s.putHome root p.1 p.2) s

/-- The home poison that written bytes leave: a poisoned byte's unit, and none in a whole unit of sound bytes (R359).
DEDUCED, log entry 29. -/
def State.homePoison (s : State) (l : List (Nat × Nat)) (bad : Bool) : State :=
  let units := l.filterMap (fun p => (s.physOf p.1 p.2).map (· / 64))
  if bad then { s with dramPois := units.foldl (fun ps u => if ps.contains u then ps else u :: ps) s.dramPois }
  else if s.dramPois = [] then s
  else
    let phys := l.filterMap (fun p => s.physOf p.1 p.2)
    { s with dramPois := s.dramPois.filter (fun u => !((List.range 64).all (fun b => phys.contains (u * 64 + b)))) }

/-- Writes an L1's bytes back to their home, with the poison of the units in `pois` (R82, R359). -/
def State.writeBack (s : State) (root : Nat) (l : List (Nat × Byte)) (pois : List Nat) : State :=
  let at_ (bad : Bool) : List (Nat × Nat) :=
    (l.filter (fun p => pois.contains (p.1 / 64) == bad)).map (fun p => (root, p.1))
  ((s.putHomeAll root l).homePoison (at_ false) false).homePoison (at_ true) true

/-- The LPDDR6 channel of a page frame, 0 to 95, 24 to a die (R15; DESIGN CHOICE, log entry 7). -/
def frameChannel (frame : Nat) : Nat := frame % 96
def frameDie (frame : Nat) : Nat := frameChannel frame / 24

/-! ## Directory slices (R74, R75) -/

/-- The die whose LPDDR6 channel holds the page of a byte of a storage root; die 0 where no page does (DEDUCED, log
entry 61). -/
def State.pageDie (s : State) (root off : Nat) : Nat :=
  match (s.node root).bind (fun n => Store.find n.pages (off / 65536)) with
  | some (.present f) | some (.poisoned _ f) => frameDie f
  | some (.demoted _) | none => 0

/-- The directory slice of a storage root on a die, as a tile: Home's last line. -/
def sliceTile (root die : Nat) : Nat :=
  let k := (root / 2 ^ 6 % 256) ^^^ (root / 2 ^ 14 % 256)
  (16 * (die / 2) + k / 16) * 32 + 16 * (die % 2) + k % 16

/-- Home (R74): the slice on the die of the rectangle's first element. DEDUCED, log entry 61. -/
def State.homeSlice (s : State) (root : Nat) (r : Rect) : Nat :=
  let e := match s.node root with
    | some n => n.byteAt r.org 0
    | none => 0
  sliceTile root (s.pageDie root e)

/-- The slices that hold a reservation: those of the same storage root on the other dies of the rectangle's elements, in
ascending die number (R75). DEDUCED, log entry 61. -/
def State.reservations (s : State) (root : Nat) (r : Rect) : List Nat :=
  let home := s.homeSlice root r
  let bytes := s.rectBytes root r
  ((List.range 4).filter (fun d => decide (sliceTile root d ≠ home) && bytes.any (fun o => decide (s.pageDie root o = d)))).map
    (sliceTile root)

end Sys2Proof.Machine
end

