-- ==== Sys2Proof/Machine/Translate.lean ====
section
/-! DEFINITION. Translate (R308): the checks of R59 in order, the cached translations of R310, the allocation of a page on
first touch (R55) and the page states of Table 19.1. -/

namespace Sys2Proof.Machine

/-- The kinds of access that R59 row 6 tells apart. -/
inductive AccKind where
  | load | store | fetch
  deriving DecidableEq, Repr

/-- The partition whose virtual function owns a map, if it is resident. -/
def State.partOfVf (s : State) (map : Nat) : Option Nat :=
  (s.parts.find? (fun p => p.2.valid && decide (p.2.vf = map))).map (·.1)

/-- The extent of a target: an implicit child's is its own (R364). -/
def Node.targetExtent (n : Node) (child : Option Nat) : Nat :=
  match child with
  | some k => if n.kind = 4 then n.blockBytes else n.tileBytes k
  | none => n.extent

/-- R59 rows 4 to 6 for a target whose extent is found to be `ext` bytes. -/
def accessWithin (n : Node) (ext : Nat) (kind : AccKind) (level : Nat) (l off : Word) (bytes : Nat) : Option (Nat × Word) :=
  if ext < off.toNat + bytes then some (0x08, l)
  else if bytes ≠ 0 ∧ off.toNat % bytes ≠ 0 then some (0x04, l)
  else if (kind = .store ∧ n.ro) ∨ (n.sup ∧ level = 0) ∨ (kind = .store ∧ n.kind = 5 ∧ level = 0)
      ∨ (kind = .fetch ∧ n.kind ≠ 5) then some (0x09, l)
  else none

/-- R59 rows 4 to 6 for a target as it stands. -/
def accessCheck (n : Node) (child : Option Nat) (kind : AccKind) (level : Nat) (l off : Word) (bytes : Nat) :
    Option (Nat × Word) :=
  accessWithin n (n.targetExtent child) kind level l off bytes

/-- The pages of the module's pool (R327). -/
def poolPages : Nat := 25165824

/-- The lowest free page frame of the pool on a channel that a mask allows (DESIGN CHOICE, log entry 7). -/
def Maps.freeFrame (m : Maps) (chans : BitVec 24) : Option Nat :=
  (List.range (96 * (m.frames.length + 1))).find?
    (fun f => !m.frames.contains f && decide (f < poolPages) && chans.getLsbD (frameChannel f % 24))

/-- The lowest page of host memory that no host node uses; host pages are numbered above the package's (DESIGN CHOICE,
log entry 7). -/
def Maps.hostFrame (m : Maps) : Option Nat :=
  ((List.range (m.frames.length + 1)).map (fun i => 2 ^ 25 + i)).find? (fun f => !m.frames.contains f)

/-- The Forum's state of a parameter set, from STEP0 until something has happened to it. -/
def State.forum (s : State) (id : Nat) : Forum :=
  (Store.find s.eng.forums id).getD
    { reads := [], closed := BitVec.ofNat 32 (match s.node id with
        | some n => n.step0
        | none => 0)
      applied := [], pending := false, early := [], rule := none, committed := [], cpois := [], pages := [], undo := []
      rolled := false }

def State.setForum (s : State) (id : Nat) (f : Forum) : State :=
  { s with eng := { s.eng with forums := Store.put s.eng.forums id f } }

/-- A page of a parameter set is touched: its committed copy takes a page too (R269). -/
def State.commitPage (s : State) (root page : Nat) : State :=
  let f := s.forum root
  if f.pages.contains page then s else s.setForum root { f with pages := page :: f.pages }

/-- The meter of a virtual function, all zero until something is charged. -/
def State.meter (s : State) (vf : Nat) : Meter :=
  (Store.find s.mod.meters vf).getD { pages := 0, tAcc := 0, eAcc := 0, trips := 0, tSpent := 0, eSpent := 0, bound := false, gated := false }

def State.updMeter (s : State) (vf : Nat) (f : Meter → Meter) : State :=
  { s with mod := { s.mod with meters := Store.put s.mod.meters vf (f (s.meter vf)) } }

/-- Charges energy in fJ to a map's virtual function (R329); the system map's is charged to none. -/
def State.charge (s : State) (map fj : Nat) : State :=
  if map < 256 ∧ fj ≠ 0 then s.updMeter map (fun m => { m with eAcc := m.eAcc + fj }) else s

/-- The 64-byte units that some keys of one access touch. -/
def unitCount (keys : List Nat) : Nat :=
  ((keys.map (· / 64)).foldl (fun l u => if l.contains u then l else u :: l) ([] : List Nat)).length

/-- Charges one scratchpad access of a thread's work (Table 20.2). -/
def State.chargeSpad (s : State) (tid : Nat) (keys : List Nat) : State := s.charge (s.mapOf tid) (6000 * unitCount keys)

/-! ### The last-level cache (R14, R15, R326) -/

/-- The slice that a 64-byte unit of package memory goes to, a tile of the die of its channel. -/
def llcTile (unit : Nat) : Nat :=
  let die := frameDie (unit / 1024)
  let k := Config.llcPlace unit % 256
  (16 * (die / 2) + k / 16) * 32 + 16 * (die % 2) + k % 16

/-- The sets of a slice, of 16 ways with 64-byte lines: what the B bank leaves of 4 MiB (R14; the line's size is the
model's, DESIGN CHOICE, log entry 71). -/
def Llc.sets (c : Llc) (tile : Nat) : Nat := 4096 - 256 * (Store.find c.bbank tile).getD 0

def Llc.setOf (c : Llc) (tile unit : Nat) : Nat := Config.llcPlace unit / 256 % Nat.max 1 (c.sets tile)

/-- The way numbers of a mask. -/
def waysOf (mask : BitVec 16) : List Nat := (List.range 16).filter mask.getLsbD

/-- A part of 64 bytes is read or written through the cache by work that may fill the ways of `mask`: the caches after
it, and its fJ. A hit, in any way, is a last-level access; a miss is one and an LPDDR6 transfer, with another for the
line that it puts out where that has been written. With no way to fill, the part bypasses the caches (R326). DESIGN
CHOICE, log entry 71. -/
def Llc.access (c : Llc) (cycle : Nat) (mask : BitVec 16) (unit : Nat) (write : Bool) : Llc × Nat :=
  match (waysOf mask)[Config.llcWay cycle unit % Nat.max 1 (waysOf mask).length]? with
  | none => (c, 1900000)
  | some way =>
    if c.lines.any (fun x => decide (x.unit = unit)) then
      ({ c with lines := c.lines.map (fun x => if x.unit = unit then { x with dirty := x.dirty || write } else x) }, 20000)
    else
      let tile := llcTile unit
      let set := c.setOf tile unit
      let here (x : LlcLine) : Bool := decide (x.tile = tile) && decide (x.set = set) && decide (x.way = way)
      ({ c with lines := { tile := tile, set := set, way := way, unit := unit, dirty := write } :: c.lines.filter (fun x => !here x) },
        if c.lines.any (fun x => here x && x.dirty) then 3820000 else 1920000)

/-- A slice's B bank changes its size: every line of the slice is written back and invalidated before (R14). Gives the lines
written back too. -/
def Llc.resize (c : Llc) (tile size : Nat) : Llc × Nat :=
  if (Store.find c.bbank tile).getD 0 = size then (c, 0)
  else
    ({ lines := c.lines.filter (fun x => decide (x.tile ≠ tile)), bbank := Store.put c.bbank tile size },
      (c.lines.filter (fun x => decide (x.tile = tile) && x.dirty)).length)

/-- Charges one part of 64 bytes of package memory that a map's work reads or writes at its home (R329). Its way over the Ring
Road is counted too (DESIGN CHOICE, log entry 71). -/
def State.chargePart (s : State) (map : Nat) (write : Bool) (unit : Nat) : State :=
  let mask : BitVec 16 := match s.partOfVf map with
    | some p => (s.part p).ways
    | none => 0xFFFF
  let (c, fj) := s.mod.llc.access s.cycle mask unit write
  let s1 : State := { s with mod := { s.mod with llc := c } }
  if map < 256 then s1.updMeter map (fun m => { m with eAcc := m.eAcc + fj, trips := m.trips + 1 }) else s1

/-- The 64-byte units of package memory behind some storage bytes. -/
def State.unitsOf (s : State) (l : List (Nat × Nat)) : List Nat :=
  l.foldl (fun us p => match s.physOf p.1 p.2 with
    | some a => if us.contains (a / 64) then us else us ++ [a / 64]
    | none => us) []

/-- Charges what a map's work reads or writes at its home: bytes of a host node cross the host port (R329, R346). -/
def State.chargeBytes (s : State) (map : Nat) (l : List (Nat × Nat)) (write : Bool) : State :=
  let units := s.unitsOf l
  if (l.head?.map (fun p => s.maps.isHost p.1)).getD false then s.charge map (300000 * units.length)
  else units.foldl (fun s u => s.chargePart map write u) s

/-- The same for a thread's work. -/
def State.chargeHome (s : State) (tid : Nat) (l : List (Nat × Nat)) (write : Bool) : State := s.chargeBytes (s.mapOf tid) l write

/-- One beat of a thread's work that crosses a scale-up link. -/
def State.chargeFar (s : State) (tid : Nat) : State := s.charge (s.mapOf tid) 400000

/-- Adds to the pages that a map's virtual function holds, wherever its count is kept (R327).
DEDUCED, log entry 26. -/
def State.addPages (s : State) (map : Nat) (n : BitVec 32) : State :=
  match s.partOfVf map with
  | some p => s.updPart p (fun x => { x with pageuse := x.pageuse + n })
  | none => if map < 256 then s.updMeter map (fun m => { m with pages := m.pages + n }) else s

/-- The most pages that a map's pool can take: its root table, a page of its own for each descriptor and each digit table, and
three page-table levels for each page (R55). -/
def Maps.poolMost (m : Maps) (map : Nat) : Nat :=
  1 + ((m.nodes.filter (fun n => decide (n.2.vf = map))).map (fun n => 2 + 3 * n.2.pages.length)).sum

/-- The pages of a map's pool: a free value up to the most that it can take (R327; DESIGN CHOICE, log entry 70). -/
def Maps.pool (m : Maps) (map : Nat) : Nat :=
  Nat.min (m.poolMost map)
    (Config.mapPages ((m.nodes.filter (fun n => decide (n.2.vf = map))).map (fun n => (n.1, n.2.kids.length, n.2.pages.length))))

def State.mapPool (s : State) (map : Nat) : Nat := s.maps.pool map

/-- cr.pageuse of a partition: its virtual function's data pages and committed copies, and its map pool (R327). -/
def State.pageUse (s : State) (p : Nat) : Nat :=
  let x := s.part p
  if x.valid then x.pageuse.toNat + s.mapPool x.vf else x.pageuse.toNat

/-- The package's pages that hold data or committed copies. -/
def State.dataPages (s : State) : Nat :=
  (s.maps.frames.filter (fun f => decide (f < poolPages))).length + (s.eng.forums.map (fun f => f.2.pages.length)).sum

/-- The maps of a module: the virtual functions' and the system map. -/
def allMaps : List Nat := List.range 257

/-- An allocation of `need` pages that leaves the maps as `m` finds the quota or the module's pool full (R327). What the map
pools may take at most is tried first. -/
def State.noRoom (s : State) (map need : Nat) (m : Maps) : Bool :=
  let passes (cap use : Nat) (most exact : Unit → Nat) : Bool := decide (cap < use + most ()) && decide (cap < use + exact ())
  ((match s.partOfVf map with
      | some p => passes (s.part p).pagequota.toNat ((s.part p).pageuse.toNat + need) (fun _ => m.poolMost map) (fun _ => m.pool map)
      | none => false)
    || passes poolPages (s.dataPages + need) (fun _ => (allMaps.map m.poolMost).sum) (fun _ => (allMaps.map m.pool).sum))
    && (decide (need ≠ 0) || decide (s.mapPool map < m.pool map))

/-- The maps with a page of a storage root present in a frame. -/
def Maps.withPage (m : Maps) (root page f : Nat) : Maps :=
  { m with nodes := Store.upd m.nodes root (fun n => { n with pages := Store.put n.pages page (.present f) }), frames := f :: m.frames }

/-- The pages that a first touch of a page of a storage root takes from the package: a set's committed copy takes one too
(R269), host memory none (R346). -/
def State.pageNeed (s : State) (root page : Nat) : Nat :=
  if s.maps.isHost root then 0
  else match s.node root with
    | some n => if n.kind = 4 ∧ ¬ (s.forum root).pages.contains page then 2 else 1
    | none => 1

/-- One page of a storage root is made present and zero, within the quota (R308); one of a host node is host memory, which
holds what it holds (R346). -/
def State.allocPage (s : State) (map root page : Nat) (off : Word) : State × Option (Nat × Word) :=
  let need := s.pageNeed root page
  let chans : BitVec 24 := match s.partOfVf map with
    | some p => (s.part p).chans
    | none => 0xFFFFFF
  match if s.maps.isHost root then s.maps.hostFrame else s.maps.freeFrame chans with
  | none => (s, some (0x11, off))
  | some f =>
    if s.noRoom map need (s.maps.withPage root page f) then (s, some (0x11, off))
    else
      let s0 := if need = 2 then s.commitPage root page else s
      let s1 := { s0 with maps := s.maps.withPage root page f
                          dram := if s.maps.isHost root then s.dram else s.dram.zero (f * 65536) 65536 }
      (s1.addPages map (BitVec.ofNat 32 need), none)

/-! ## Page-table entries (R307) -/

/-- The word of a page-table entry (Table 19.1). -/
def Page.entry : Option Page → Word
  | none => 0
  | some (.present f) => word (2 ^ 62 + f * 2 ^ 16)
  | some (.demoted d) => word (2 ^ 63 + d)
  | some (.poisoned integ f) => word (2 ^ 63 + 2 ^ 62 + (if integ then 2 ^ 61 else 0) + f * 2 ^ 16)

/-- The entry at a page's place in one of the two upper levels of a node's page table: present where some page below it has an
entry that is not unallocated, with the frame of the next table (R55, R307). -/
def Node.upperEntry (n : Node) (id level page : Nat) : Word :=
  let span := if level = 0 then 2 ^ 16 else 2 ^ 8
  if n.pages.any (fun p => decide (p.1 / span = page / span)) then
    word (2 ^ 62 + Config.tableFrame id (level + 1) (page / span * span) % 2 ^ 32 * 2 ^ 16)
  else 0

/-- The page part of Translate for one page of a storage root. -/
def State.pageCheck (s : State) (map root page : Nat) (off : Word) : State × Option (Nat × Word) :=
  match s.node root with
  | none => (s, none)
  | some n => match Store.find n.pages page with
    | none => s.allocPage map root page off
    | some (.present _) => (s, none)
    | some (.demoted _) => (s, some (0x10, off))
    | some (.poisoned true _) => (s, some (0x12, off))
    | some (.poisoned false _) => (s, some (0x13, off))

/-- The pages of a list of storage bytes, without repeats. -/
def pagesOf : List (Nat × Nat) → List (Nat × Nat)
  | [] => []
  | (r, o) :: l => let ps := pagesOf l; if ps.contains (r, o / 65536) then ps else (r, o / 65536) :: ps

def State.pageChecks (s : State) (map : Nat) (off : Word) : List (Nat × Nat) → State × Option (Nat × Word)
  | [] => (s, none)
  | (r, p) :: l => match s.pageCheck map r p off with
    | (s1, none) => s1.pageChecks map off l
    | (s1, some e) => (s1, some e)

/-- The storage bytes that an access of `n` bytes names. -/
def State.bytesOf (s : State) (t : Target) (off n : Nat) : List (Nat × Nat) :=
  (List.range n).map (fun i => rootByte s.maps t (off + i))

/-- A cached translation of a tier. -/
def State.cachedAt (s : State) (tier map : Nat) (l : Word) (page : Nat) : Option Cached :=
  s.tlb.find? (fun c => decide (c.tier = tier) && decide (c.vf = map) && decide (c.label = l) && decide (c.page = page)
    && (s.node c.node).isSome)

/-- Puts a translation into a tier of `cap` entries, the oldest leaving first (DESIGN CHOICE, log entry 8). -/
def fillTier (tlb : List Cached) (c : Cached) (cap : Nat) : List Cached :=
  let same := tlb.filter (fun x => decide (x.tier = c.tier))
  let rest := tlb.filter (fun x => !decide (x.tier = c.tier))
  rest ++ (same.drop (same.length + 1 - cap) ++ [c])

/-- The lookup of R310: the core tier, the tile tier, the walk of R59 rows 1 to 3. A hit gives what its walk read. -/
def State.lookup (s : State) (map : Nat) (core tile : Option Nat) (l : Word) (page : Nat) : Option Cached × Resolution :=
  let inTier (t : Option Nat) : Option Cached := t.bind (fun k => s.cachedAt k map l page)
  match (inTier core).or (inTier tile) with
  | some c => (some c, ⟨.ok (l, { node := c.node, child := c.child }), c.stubs⟩)
  | none => (none, resolve s.maps map l)

/-- A descriptor as a lookup found it: RO, SUP and ORDER as its walk read them (R310, R312). -/
def Node.asFound (n : Node) (hit : Option Cached) : Node :=
  match hit with
  | some c => { n with ro := c.ro, sup := c.sup, order := c.order }
  | none => n

/-- The extent that a lookup found: an LMAP that shrinks it counts at once for every access translated after it (R312),
one that extends it with the descriptor that the cached translation gives (R310). -/
def Node.extentFound (n : Node) (child : Option Nat) (hit : Option Cached) : Nat :=
  match hit with
  | some c => Nat.min c.extent (n.targetExtent child)
  | none => n.targetExtent child

/-- The pages of some storage bytes all stand in the map. -/
def State.allPresent (s : State) (ps : List (Nat × Nat)) : Bool :=
  ps.all (fun p => match (s.node p.1).bind (fun n => Store.find n.pages p.2) with
    | some (.present _) => true
    | _ => false)

/-- Fills the tiers that do not hold a translation yet (R310). -/
def State.fillTiers (s : State) (map : Nat) (core tile : Option Nat) (l : Word) (page : Nat) (t : Target) (nd : Node)
    (ext : Nat) (stubs : List Nat) : State :=
  let fill (tlb : List Cached) (k : Option Nat) (cap : Nat) : List Cached := match k with
    | some tier =>
      if (s.cachedAt tier map l page).isSome then tlb
      else fillTier tlb { tier := tier, vf := map, label := l, page := page, node := t.node, child := t.child
                          ro := nd.ro, sup := nd.sup, order := nd.order, extent := ext, stubs := stubs } cap
    | none => tlb
  { s with tlb := fill (fill s.tlb core 64) tile 1024 }

/-- Translate (R308) in a map, at a level, through the core tier `core` and the tile tier `tile` where those are given:
the target with the stubs counted and the pages present, or the trap. A walk that meets an unallocated page fills nothing. -/
def State.translateIn (s : State) (map : Nat) (core tile : Option Nat) (level : Nat) (kind : AccKind) (l off : Word) (n : Nat) :
    State × Except (Nat × Word) Target :=
  let page := off.toNat / 65536
  let (hit, res) := s.lookup map core tile l page
  let s1 := { s with maps := s.maps.countHits res.stubs }
  match res.result with
  | .error e => (s1, .error e)
  | .ok (_, t) => match s1.node t.node with
    | none => (s1, .error (0x06, l))
    | some live =>
      let nd := live.asFound hit
      let ext := live.extentFound t.child hit
      match accessWithin nd ext kind level l off n with
      | some e => (s1, .error e)
      | none =>
        let ps := pagesOf (s1.bytesOf t off.toNat n)
        match s1.pageChecks map off ps with
        | (s2, some e) => (s2, .error e)
        | (s2, none) => (if s1.allPresent ps then s2.fillTiers map core tile l page t nd ext res.stubs else s2, .ok t)

/-- The core tier of a tenant thread, and its tile's; a management thread caches nothing (DESIGN CHOICE, log entry 8). -/
def coreTier (tid : Nat) : Option Nat := if isMgmt tid then none else some (coreOf tid)
def tileTier (tid : Nat) : Option Nat := if isMgmt tid then none else some (3072 + tileOf tid)

/-- Translate for a thread at its level. -/
def State.translate (s : State) (tid : Nat) (kind : AccKind) (l off : Word) (n : Nat) :
    State × Except (Nat × Word) Target :=
  s.translateIn (s.mapOf tid) (coreTier tid) (tileTier tid) (s.thread tid).level.toNat kind l off n

/-- The ORDER kind of the descriptor that a thread's access to a page of a label finds (R310, R312). -/
def State.orderFound (s : State) (tid : Nat) (l off : Word) (node : Nat) : Nat :=
  match (s.lookup (s.mapOf tid) (coreTier tid) (tileTier tid) l (off.toNat / 65536)).1, s.node node with
  | some c, _ => c.order
  | none, some n => n.order
  | none, none => 1

/-- The home module of a label's root, this module's own number when its map homes it. -/
def State.homeOf (s : State) (map : Nat) (l : Word) : Nat := rootHome s.maps map (lblRoot l)

end Sys2Proof.Machine
end

