-- ==== Sys2Proof/Machine/Access.lean ====
section
/-! DEFINITION. What an access does at its point of coherence (R143 to R147, R174): scratchpad banks with their tags,
windows and poison, and the bytes of label nodes as a holder, an untenured thread and the home see them (R81 to R84). -/

namespace Sys2Proof.Machine

/-! ## Atomics -/

/-- The new value of an atomic (Table 8.3) with the flags of .fadd. -/
def amoNew (op : Aop) (old v n : Nat) (md : RMode) : Flagged Nat :=
  match op with
  | .add => ((old + v) % 2 ^ (8 * n), 0)
  | .and => (old &&& v, 0)
  | .or => (old ||| v, 0)
  | .xor => (old ^^^ v, 0)
  | .swap => (v, 0)
  | .min => (if signedOf old n ≤ signedOf v n then old else v, 0)
  | .max => (if signedOf old n ≤ signedOf v n then v else old, 0)
  | .minn => (Nat.min old v, 0)
  | .maxn => (Nat.max old v, 0)
  | .fadd => addF32 md old v

/-- GenPast (R174). -/
def genPast (gen v : Nat) : Bool :=
  let d := (gen + 2 ^ 32 - v % 2 ^ 32) % 2 ^ 32
  decide (1 ≤ d) && decide (d ≤ 2 ^ 31)

/-! ## Scratchpad -/

def State.spadRead (s : State) (key n : Nat) : Nat := s.spad.readLe key n
def State.spadWrite (s : State) (key n v : Nat) : State := { s with spad := s.spad.writeLe key n v }

/-- The 16 bytes of a key are tagged (R126). -/
def State.tagged (s : State) (key : Nat) : Bool := s.tags.contains (key / 16)

def State.setTag (s : State) (key : Nat) (b : Bool) : State :=
  { s with tags := if b then (if s.tagged key then s.tags else (key / 16) :: s.tags)
                   else s.tags.filter (fun k => decide (k ≠ key / 16)) }

/-- Some byte of a range of 64-byte units is poisoned. -/
def State.spadPoisoned (s : State) (key n : Nat) : Bool :=
  s.spadPois.any (fun u => decide (key / 64 ≤ u) && decide (u * 64 < key + n))

/-- The offset that a partition's threads see for a physical offset of a tile in one of its banks (R319). -/
def Part.viewOff (p : Part) (off : Nat) : Option Nat :=
  if p.banks.getLsbD (off / 2 ^ 15) then
    (posOf p.vbanks (rankOf p.banks (off / 2 ^ 15))).map (fun b => b * 2 ^ 15 + off % 2 ^ 15)
  else none

/-- The partition of a window's slot (R28): window w is slot 2w's. -/
def State.windowPart (s : State) (w : Nat) : Part :=
  ((s.parts.find? (fun p => p.2.valid && p.2.slots.getLsbD (w % 8 * 2))).map (·.2)).getD Part.empty

/-- The window at or above whose watermark some of a load's bytes lie (R143, R230). Windows are kept in the offsets that
their partition's threads see; they hold no byte of another partition's banks. -/
def State.windowBlocks (s : State) (key n : Nat) : Option Nat :=
  (s.wins.find? (fun w => match (s.windowPart w.1).viewOff (key % 2 ^ 20) with
    | some off => decide (w.1 / 8 = keyTile key) && decide (w.2.base ≤ off + n - 1) && decide (off < w.2.base + w.2.len)
        && decide (w.2.wm < Nat.min (off + n) (w.2.base + w.2.len))
    | none => false)).map (·.1)

/-- The fields of a sync or barrier word: bytes 0, 4, 8 and 12 (Table 6.15). -/
def State.word32 (s : State) (key i : Nat) : Nat := s.spadRead (key + 4 * i) 4
def State.setWord32 (s : State) (key i v : Nat) : State := s.spadWrite (key + 4 * i) 4 v

/-- A wait that ends when GEN of a word takes a value. -/
def Why.passed (w : Why) (key gen : Nat) : Bool :=
  match w with
  | .gen k v => decide (k = key) && genPast gen v
  | _ => false

/-- A wait at its bank that ends when GEN of a word takes a value. -/
def Access.passed (a : Access) (key gen : Nat) : Bool :=
  match a.state, a.op, a.place with
  | .waiting, .waitGen v, .spad k _ => decide (k = key) && genPast gen v
  | _, _, _ => false

/-- GEN of a word takes a value: every wait that it passes ends in the same step (R175). -/
def State.setGen (s : State) (key gen : Nat) : State :=
  let s1 := s.setWord32 key 2 gen
  { s1 with
    threads := s1.threads.map (fun (t : Nat × Thread) => if t.2.waits.any (·.passed key gen) then
      (t.1, { t.2 with waits := t.2.waits.filter (fun w => !w.passed key gen) }) else t)
    accs := s1.accs.map (fun (a : Nat × Access) =>
      if a.2.passed key gen then (a.1, { a.2 with state := .performed none 0 }) else a) }

/-- SWADD of `n` to a word whose check has passed (Table 9.7). -/
def State.swAdd (s : State) (key n : Nat) : State :=
  let t := s.word32 key 0
  let c := s.word32 key 1 + n
  (s.setGen key ((s.word32 key 2 + c / t) % 2 ^ 32)).setWord32 key 1 (c % t)

/-- The check of SWADD: tagged, with a TARGET (Table 9.7). -/
def State.swAddOk (s : State) (key : Nat) : Bool := s.tagged key && decide (s.word32 key 0 ≠ 0)

/-- A STATUS write (R176, R367): on a tagged word it writes STATUS and adds 1 to GEN; on an untagged word nothing. -/
def State.writeStatus (s : State) (key cause code : Nat) : State :=
  if s.tagged key then
    (s.setWord32 key 3 (cause * 2 ^ 24 + code)).setGen key ((s.word32 key 2 + 1) % 2 ^ 32)
  else s

/-- Some thread waits on a word, in its slot or at the bank (BWFREE's check, Table 9.7). -/
def State.waitedOn (s : State) (key : Nat) : Bool :=
  s.threads.any (fun t => t.2.waits.any (fun w => match w with | .gen k _ => decide (k = key) | _ => false))
    || s.accs.any (fun a => match a.2.state, a.2.place with
      | .waiting, .spad k _ => decide (k = key)
      | _, _ => false)

/-- How an access fares at its point of coherence. -/
inductive Perform where
  | done (s : State) (v : Option Word) (flags : Nat)
  | trap (cause : Nat) (v : Word)
  /-- not yet: the access stays where it is -/
  | later (w : Why)

/-- An access at a scratchpad bank. `addr` is the local address as the thread named it, the value of its traps. Where a unit
that the access reads is poisoned (R359), the tag's trap comes first (R126, R146; DESIGN CHOICE, log entry 74). -/
def State.atBank (s : State) (key : Nat) (addr : Word) (n : Nat) (op : AccOp) : Perform :=
  let tag := s.tagged key
  match op with
  | .load sx => match s.windowBlocks key n with
    | some w => .later (.window (w / 8) (w % 8) (key % 2 ^ 20) n)
    | none =>
      if s.spadPoisoned key n then .trap 0x13 (Config.poisonValue addr)
      else .done s (some (extendBytes (s.spadRead key n) n sx)) 0
  | .store v => if tag then .trap 0x0D addr else .done (s.spadWrite key n v) none 0
  | .amo f v md =>
    if tag then .trap 0x0D addr
    else if s.spadPoisoned key n then .trap 0x13 (Config.poisonValue addr)
    else
      let old := s.spadRead key n
      let (new, fl) := amoNew f old v n md
      .done (s.spadWrite key n new) (some (word old)) fl
  | .cas e v =>
    if tag then .trap 0x0D addr
    else if s.spadPoisoned key n then .trap 0x13 (Config.poisonValue addr)
    else
      let old := s.spadRead key n
      .done (if old = e then s.spadWrite key n v else s) (some (word old)) 0
  | .swarm v =>
    if v = 0 ∨ 2 ^ 32 ≤ v then .trap 0x0C addr
    else
      let s1 := (((s.setWord32 key 0 v).setWord32 key 1 0).setWord32 key 3 0)
      .done ((if tag then s1 else s1.setWord32 key 2 0).setTag key true) none 0
  | .swadd v =>
    if ¬ tag ∨ 2 ^ 32 ≤ v then .trap 0x0C addr
    else if s.spadPoisoned key 16 then .trap 0x13 (Config.poisonValue addr)
    else if ¬ s.swAddOk key then .trap 0x0C addr
    else .done (s.swAdd key v) none 0
  | .waitGen v =>
    if ¬ tag ∨ 2 ^ 32 ≤ v then .trap 0x0C addr
    else if s.spadPoisoned key 16 then .trap 0x13 (Config.poisonValue addr)
    else if genPast (s.word32 key 2) v then .done s none 0
    else .later (.gen key v)
  | .bwinit v =>
    if v = 0 ∨ 2 ^ 32 ≤ v then .trap 0x0C addr
    else if tag ∧ s.spadPoisoned key 16 then .trap 0x13 (Config.poisonValue addr)
    else if tag ∧ s.word32 key 1 ≠ 0 then .trap 0x0C addr
    else
      let s1 := (((s.setWord32 key 0 v).setWord32 key 1 0).setWord32 key 3 0)
      .done ((if tag then s1 else s1.setWord32 key 2 0).setTag key true) none 0
  | .bwarr =>
    if ¬ tag then .trap 0x0C addr
    else if s.spadPoisoned key 16 then .trap 0x13 (Config.poisonValue addr)
    else if s.word32 key 0 = 0 ∨ s.word32 key 3 ≠ 0 then .trap 0x0C addr
    else
      let gen := s.word32 key 2
      let a := s.word32 key 1 + 1
      .done (if a = s.word32 key 0 then (s.setWord32 key 1 0).setGen key ((gen + 1) % 2 ^ 32)
             else s.setWord32 key 1 a) (some (word gen)) 0
  | .bwfree =>
    if ¬ tag ∨ s.waitedOn key then .trap 0x0C addr
    else .done ((s.spadWrite key 16 0).setTag key false) none 0
  | .probe | .far _ _ => .done s none 0
  | .reply v => .done s v 0

/-! ## Label nodes -/

/-- The tenure records of a storage root that hold a byte. -/
def State.tensAt (s : State) (root off : Nat) : Store Ten :=
  s.tens.filter (fun t => decide (t.2.root = root) && s.rectHasByte root t.2.rect off)

/-- A record that is a tenure in force. -/
def Ten.live (t : Ten) : Bool := decide (t.mode = .read) || decide (t.mode = .write)

/-- A record's L1 data of a byte is poisoned (R359). -/
def Ten.bad (t : Ten) (off : Nat) : Bool := t.pois.contains (off / 64)

/-- The records of a holder on a storage root. -/
def State.tensOf (s : State) (h : Holder) (root : Nat) : Store Ten :=
  s.tens.filter (fun t => decide (t.2.root = root) && decide (t.2.holder = h))

/-- A byte as a holder's L1 has it, with its poison: its dirty data, its data released but not written back, or its halo
replica where no tenure of its own holds the byte (R81, R82); none where the home serves it. -/
def State.l1Cell (s : State) (h : Holder) (root off : Nat) : Option (Byte × Bool) :=
  let mine := s.tensOf h root
  match (mine.findSome? (fun t => (Store.find t.2.dirty off).map (fun b => (b, t.2.bad off)))).or
      (mine.findSome? (fun t => (Store.find t.2.held off).map (fun b => (b, t.2.bad off)))) with
  | some b => some b
  | none =>
    if mine.any (fun t => t.2.live && s.rectHasByte root t.2.rect off) then none
    else mine.findSome? (fun t => if t.2.live then (Store.find t.2.replica off).map (fun b => (b, t.2.bad off)) else none)

/-- A byte that a holder reads at its home: neither a tenure of its own nor a replica holds it (R81, R84). -/
def State.readsHome (s : State) (h : Holder) (root off : Nat) : Bool :=
  (s.l1Cell h root off).isNone && !(s.tensOf h root).any (fun t => t.2.live && s.rectHasByte root t.2.rect off)

def State.l1Byte (s : State) (h : Holder) (root off : Nat) : Option Byte := (s.l1Cell h root off).map (·.1)

/-- A byte that a holder reads is poisoned: in its L1, or at the home that serves it. -/
def State.bytePoisoned (s : State) (h : Holder) (root off : Nat) : Bool :=
  match s.l1Cell h root off with
  | some c => c.2
  | none => s.homePoisoned root off ||
    (s.tensOf h root).any (fun t => t.2.live && t.2.bad off && s.rectHasByte root t.2.rect off)

/-- A byte as a thread of a holder reads it. -/
def State.seenByte (s : State) (h : Holder) (root off : Nat) : Byte := (s.l1Byte h root off).getD (s.homeByte root off)

/-- A little-endian number from bytes, lowest address first. -/
def leNat : List Byte → Nat
  | [] => 0
  | b :: bs => b.toNat + 256 * leNat bs

/-- The `n` bytes of a number, lowest address first. -/
def leBytes : Nat → Nat → List Byte
  | 0, _ => []
  | n + 1, v => BitVec.ofNat 8 v :: leBytes n (v / 256)

/-- The write tenure of a holder on a byte, if any. -/
def State.writeTen (s : State) (h : Holder) (root off : Nat) : Option Nat :=
  ((s.tensAt root off).find? (fun t => decide (t.2.holder = h) && decide (t.2.mode = .write))).map (·.1)

/-- A byte that some other holder holds, or that this holder holds for read only (R84, R144): a store there traps. -/
def State.storeRefused (s : State) (h : Holder) (root off : Nat) : Bool :=
  (s.tensAt root off).any (fun t => t.2.live && !(decide (t.2.holder = h) && decide (t.2.mode = .write)))

/-- A record has released data that a forced publish writes to the home: data in a demoted page stays (R83). -/
def State.owes (s : State) (x : Ten) : Bool := x.held.any (fun p => !s.demotedAt x.root p.1)

/-- Records of other holders whose released data a read of a byte at its home must first have there (R83, R84). -/
def State.unpublished (s : State) (h : Holder) (root off : Nat) : Bool :=
  s.readsHome h root off && (s.tensAt root off).any (fun t => decide (t.2.holder ≠ h) && s.owes t.2)

/-- Adds units to a list of poisoned ones. -/
def addUnits (l us : List Nat) : List Nat := us.foldl (fun l u => if l.contains u then l else u :: l) l

/-- A replica takes the bytes that it carries; those of poisoned units bring their poison. -/
def Ten.refresh (t : Ten) (l : List (Nat × Byte)) (pois : List Nat) : Ten :=
  let mine := l.filter (fun p => (Store.find t.replica p.1).isSome)
  { t with
    replica := mine.foldl (fun r p => Store.put r p.1 p.2) t.replica
    pois := addUnits t.pois ((mine.map (fun p => p.1 / 64)).filter (fun u => pois.contains u)) }

/-- Pushes bytes of a storage root to every replica that carries them (R81). -/
def State.pushBytes (s : State) (root : Nat) (l : List (Nat × Byte)) (pois : List Nat) : State :=
  { s with tens := s.tens.map (fun t => if t.2.root = root ∧ t.2.live then (t.1, t.2.refresh l pois) else t) }

/-- A record is still needed: a released one only while it holds data. -/
def Ten.keeps (x : Ten) : Bool :=
  match x.mode with
  | .released _ => decide (x.held ≠ [])
  | .read | .write | .revoked => true

/-- Released data that a record still holds is dropped where newer data stands at the home. -/
def Ten.dropHeld (x : Ten) (hit : Nat → Bool) : Ten :=
  let held : Store Byte := x.held.filter (fun p => !hit p.1)
  { x with held := held, nscope := if held = [] then none else x.nscope }

/-- Pushes that still travel drop bytes of which a newer value has been written or released (R81). -/
def State.dropPushes (s : State) (root : Nat) (hit : Nat → Bool) : State :=
  { s with pushes := s.pushes.map (fun (p : Nat × Nat × List (Nat × Byte) × List Nat) =>
      if p.2.1 = root then (p.1, p.2.1, p.2.2.1.filter (fun b => !hit b.1), p.2.2.2) else p) }

/-- Bytes of a storage root have a newer value than any release: records drop theirs, and so do the pushes that still
travel (R81, R84, R145). -/
def State.supersede (s : State) (root : Nat) (hit : Nat → Bool) : State :=
  { s.dropPushes root hit with
    tens := (s.tens.map (fun (t : Nat × Ten) => if t.2.root = root then (t.1, t.2.dropHeld hit) else t)).filter
      (fun t => t.2.keeps) }

/-- A write to a parameter set that its region forbids (R270): bytes 4 to 63 always, block bytes while a block of the
open step has arrived or a close is pending. -/
def State.forumRefuses (s : State) (root off : Nat) : Bool :=
  match s.node root with
  | some n => decide (n.kind = 4) && ((decide (4 ≤ off) && decide (off < 64))
      || (decide (256 ≤ off) && (decide ((s.forum root).applied ≠ []) || (s.forum root).pending)))
  | none => false

/-- A write to a block byte goes to the committed copy as well (R270). -/
def State.putCommitted (s : State) (root off : Nat) (b : Byte) : State :=
  match s.node root with
  | some n =>
    if n.kind = 4 ∧ 256 ≤ off then
      let f := s.forum root
      s.setForum root { f with committed := Store.put f.committed off b }
    else s
  | none => s

/-- A packet leaves for another module, with what R342 puts into it. -/
def State.sendLink (s : State) (dst vf : Nat) (b : LinkBody) : State :=
  let l := s.mod.link
  { s with mod := { s.mod with link := { l with outbox := l.outbox ++ [(dst,
      { src := BitVec.ofNat 16 s.self, inc := s.mod.boot.inc, vf := vf, reset := (Store.find l.own vf).getD 0, body := b })] } } }

/-- The canonical label of a node of a map, by fuel (R50). -/
def nodeLabel (m : Maps) (map id : Nat) : Nat → Word
  | 0 => 0
  | f + 1 => match m.roots.find? (fun r => decide (r.1 / 4096 = map) && decide (r.2.2 = id)) with
    | some r => lblMake (r.1 % 4096) []
    | none => match m.nodes.find? (fun p => p.2.kids.any (fun k => decide (k.2 = id))) with
      | some (pid, n) => match n.kids.find? (fun k => decide (k.2 = id)) with
        | some (d, _) => lblChild (nodeLabel m map pid f) d
        | none => 0
      | none => 0

def targetLabel (m : Maps) (map : Nat) (t : Target) : Word :=
  match t.child with
  | some k => lblChild (nodeLabel m map t.node 8) (k + 1)
  | none => nodeLabel m map t.node 8

/-- The home of a set's mirror partner, when it has one that is not lost (R277). -/
def State.partner (s : State) (n : Node) : Option Nat :=
  if n.mirror = 0 then none
  else
    let h := s.homeOf n.vf n.mirror
    if h = 0 ∨ h = s.self ∨ s.mod.link.lost.contains h then none else some h

/-- Forwards an operation of a set to its partner under a number, by which its answer comes, with the set's own label, which
the partner's MIRROR must be (R277; DEDUCED, log entry 33). -/
def State.forward (s : State) (id : Nat) (n : Node) (h key : Nat) (op : MirrorOp) : State :=
  ({ s with mod := { s.mod with link := { s.mod.link with
      awaits := Store.put s.mod.link.awaits key { set := id, peer := h, op := op, back := none } } } }).sendLink h n.vf
    (.mirror key (targetLabel s.maps n.vf { node := id, child := none }) op)

/-- The operations of a list of numbers that the partner has not answered yet. -/
def State.mirrorOpen (s : State) (keys : List Nat) : Bool := keys.any (fun k => (Store.find s.mod.link.awaits k).isSome)

/-- The first of some storage bytes that is a block byte of a set with a partner, with the set and the partner's home. -/
def State.mirrored (s : State) (l : List (Nat × Nat)) : Option (Nat × Node × Nat) :=
  l.findSome? (fun p => if 256 ≤ p.2 then match s.node p.1 with
      | some n => if n.kind = 4 then (s.partner n).map (fun h => (p.1, n, h)) else none
      | none => none
    else none)

/-- Forwards the block bytes of a write that has been performed (R277); gives the operation's number. -/
def State.forwardWrite (s : State) (l : List (Nat × Nat)) : State × Option Nat :=
  match s.mirrored l with
  | some (root, n, h) =>
    let bytes := (l.filter (fun p => decide (p.1 = root) && decide (256 ≤ p.2))).map (fun p => (p.2, s.homeByte root p.2))
    ({ s with next := s.next + 1 }.forward root n h s.next (.write n.mirror bytes), some s.next)
  | none => (s, none)

/-- The poison of a set's committed copy follows that of the block bytes written (R270, R359). -/
def State.commitPoison (s : State) (l : List (Nat × Nat)) : State :=
  l.foldl (fun s p => match s.node p.1 with
    | some n =>
      if n.kind = 4 ∧ 256 ≤ p.2 then
        let f := s.forum p.1
        s.setForum p.1 { f with cpois := if s.homePoisoned p.1 p.2 then addUnits f.cpois [p.2 / 64]
                                         else f.cpois.filter (fun u => decide (u ≠ p.2 / 64)) }
      else s
    | none => s) s

/-- A byte is stored at its home, over data released there before, and pushed to the replicas that carry it (R81, R84). -/
def State.storeHome (s : State) (root off : Nat) (b : Byte) : State :=
  (((s.putHome root off b).putCommitted root off b).supersede root (fun o => decide (o = off))).pushBytes root [(off, b)]
    (if s.homePoisoned root off then [off / 64] else [])

/-- Stores one byte: into the holder's dirty data where it holds write tenure, else at the home. A unit that is poisoned
stays so (R359). -/
def State.putByte (s : State) (h : Holder) (p : (Nat × Nat) × Byte) : State :=
  match s.writeTen h p.1.1 p.1.2 with
  | some id => { s with tens := Store.upd s.tens id (fun t => { t with
      dirty := Store.put t.dirty p.1.2 p.2
      pois := if s.bytePoisoned h p.1.1 p.1.2 then addUnits t.pois [p.1.2 / 64] else t.pois }) }
  | none => s.storeHome p.1.1 p.1.2 p.2

def State.putBytes (s : State) (h : Holder) (at_ : List (Nat × Nat)) (n v : Nat) : State :=
  (List.zip at_ (leBytes n v)).foldl (fun s p => s.putByte h p) s

/-- An atomic that a host node does not take (R346). -/
def State.hostRefuses (s : State) (at_ : List (Nat × Nat)) (n : Nat) (op : AccOp) : Bool :=
  let wide := decide (n = 4) || decide (n = 8)
  let taken := match op with
    | .amo .add _ _ | .amo .swap _ _ | .cas _ _ => wide
    | .amo _ _ _ => false
    | _ => true
  !taken && at_.any (fun p => s.maps.isHost p.1)

/-- An access at the bytes of a label node, as a holder's thread. `label` and `off` name them. An atomic that meets both a
refusing tenure and poison traps for the tenure (R84, R146, R359; DESIGN CHOICE, log entry 74). -/
def State.atHome (s : State) (h : Holder) (at_ : List (Nat × Nat)) (label off : Word) (n : Nat) (op : AccOp) : Perform :=
  let refused := at_.any (fun p => s.storeRefused h p.1 p.2)
  let forum := at_.any (fun p => s.forumRefuses p.1 p.2)
  let stale := at_.any (fun p => s.unpublished h p.1 p.2)
  let pois := at_.any (fun p => s.bytePoisoned h p.1 p.2)
  let old := leNat (at_.map (fun p => s.seenByte h p.1 p.2))
  match op with
  | .load sx =>
    if stale then .later .order
    else if pois then .trap 0x13 (Config.poisonValue off)
    else .done s (some (extendBytes old n sx)) 0
  | .store v =>
    if forum then .trap 0x09 label
    else if refused then .trap 0x0A (Config.tenureValue label off) else .done (s.putBytes h at_ n v) none 0
  | .amo f v md =>
    if forum ∨ s.hostRefuses at_ n op then .trap 0x09 label
    else if refused then .trap 0x0A (Config.tenureValue label off)
    else if stale then .later .order
    else if pois then .trap 0x13 (Config.poisonValue off)
    else
      let (new, fl) := amoNew f old v n md
      .done (s.putBytes h at_ n new) (some (word old)) fl
  | .cas e v =>
    if forum ∨ s.hostRefuses at_ n op then .trap 0x09 label
    else if refused then .trap 0x0A (Config.tenureValue label off)
    else if stale then .later .order
    else if pois then .trap 0x13 (Config.poisonValue off)
    else .done (if old = e then s.putBytes h at_ n v else s) (some (word old)) 0
  | .reply v => .done s v 0
  | .swarm _ | .swadd _ | .waitGen _ | .bwinit _ | .bwarr | .bwfree | .probe | .far _ _ => .done s none 0

/-- An access at its point of coherence. -/
def State.perform (s : State) (a : Access) : Perform :=
  match a.place with
  | .spad key addr => s.atBank key addr a.n a.op
  | .glob node child off label =>
    s.atHome a.holder (s.bytesOf { node := node, child := child } off a.n) label (word off) a.n a.op
  | .remote _ _ _ => .later .order

end Sys2Proof.Machine
end

