-- ==== Sys2Proof/Machine/Memory.lean ====
section
/-! DEFINITION. Loads, stores, atomics, CAS and FENCE (R142 to R149), and the events that perform an access and return its
reply (REMOTE_SCRATCHPAD_ACCESS, HOME_ACCESS, ACCESS_REPLY). An access to the issuing tile takes effect in the slot; any
other, and one that must wait there, becomes an `Access` and its thread leaves the rotation (Table 2.1). -/

namespace Sys2Proof.Machine

/-! ## Program order within a thread (R247) -/

/-- The ORDER kind of a place where no descriptor gives it: scratchpad orders as release-consistent (R246), and a node homed
on another module, whose kind is not known here, as a strong one. DEDUCED, log entry 12. -/
def Place.order : Place → Nat
  | .remote _ _ _ => 0
  | .spad _ _ | .glob _ _ _ _ => 1

/-- The storage bytes an access touches, for overlap. -/
def State.placeBytes (s : State) (p : Place) (n : Nat) : List (Nat × Nat) :=
  match p with
  | .spad _ _ => []
  | .remote _ _ _ => []
  | .glob node child off _ => s.bytesOf { node := node, child := child } off n

/-- Stores of a thread that have been acknowledged and not yet performed. -/
def State.buffered (s : State) (tid : Nat) : List Access :=
  (s.accs.filter (fun a => decide (a.2.tid = tid) && decide (a.2.state = .accepted))).map (·.2)

/-- A release must wait for buffered stores to strong and release-consistent nodes (R142). -/
def State.relPending (s : State) (tid : Nat) : Bool := (s.buffered tid).any (fun a => decide (a.order ≠ 2))

/-- An access to a place of ORDER kind `k` must wait behind a buffered store of its thread (R247). -/
def State.mustWait (s : State) (tid : Nat) (p : Place) (n : Nat) (ord : MemOrd) (k : Nat) : Bool :=
  (s.buffered tid).any (fun a =>
    (ord.isRel && decide (k ≠ 2) && decide (a.order ≠ 2))
      || (decide (k = 0) && decide (a.order = 0))
      || (s.placeBytes p n).any (fun b => (s.placeBytes a.place a.n).contains b))

/-! ## Issue -/

/-- Writes a slot's result: a register, when the access returns a value, and flags. -/
def State.finishAccess (s : State) (tid : Nat) (d : Reg) (v : Option Word) (fl : Nat) : State :=
  let s1 := match v with
    | some x => s.updThread tid (·.setReg d x)
    | none => s
  if fl = 0 then s1 else s1.orFlags tid fl

/-- The router where a thread's tile joins the Ring Road: its own, or its die's inner corner tile (R16). -/
def routerOf (tid : Nat) : Nat :=
  if isMgmt tid then (15 + dieOf tid / 2) * 32 + 15 + dieOf tid % 2 else tileOf tid

/-- A packet of one flit for an access to another tile's scratchpad (R337). DEDUCED, log entry 51. -/
def State.inject (s : State) (id : Nat) (a : Access) : State :=
  match a.place, a.state with
  | .spad key _, .sent =>
    let src := routerOf a.tid
    if src = keyTile key then s
    else
      let n := s.mod.net
      let f : Flit := { packet := id, seq := 0, src := src, dst := keyTile key, at_ := src, age := 0, golden := false, again := false
                        part := (s.partOf a.tid).getD 16 }
      { s with mod := { s.mod with net := { n with
        packets := Store.put n.packets id { total := 1, got := [] }, flits := n.flits ++ [f] } } }
  | _, _ => s

/-- How an access ends whose module is lost: with trap 0x06, but for a query that never traps (R159, R167, R343). -/
def AccOp.lost (op : AccOp) (l : Word) : AccState :=
  match op with
  | .far _ (some v) => .performed (some v) 0
  | _ => .failed 0x06 l

/-- An access to a lost module completes at once (R343). -/
def State.lostState (s : State) (place : Place) (op : AccOp) (st : AccState) : AccState :=
  match place with
  | .remote h l _ => if s.mod.link.lost.contains h then op.lost l else st
  | .spad _ _ | .glob _ _ _ _ => st

/-- A thread as its packets name it. -/
def State.agentOf (s : State) (tid : Nat) : Agent :=
  let h := s.holderOf tid
  { tid := tid, level := (s.thread tid).level.toNat, fused := h.fused, launch := h.launch, core := s.coreWord tid }

/-- The hardware of a thread's core asks another module for something (R26, R39, R339). -/
def State.askHome (s : State) (h tid id : Nat) (l : Word) (op : HwOp) : State :=
  ({ s with next := s.next + 1, mod := { s.mod with link := { s.mod.link with
      asks := Store.put s.mod.link.asks s.next { peer := h, tid := tid, id := id, label := l, op := op } } } }).sendLink h
    (s.mapOf tid) (.hw s.next (s.agentOf tid) l op)

/-- What has been asked for a thread or by its core is outstanding. -/
def State.asking (s : State) (p : HwAsk → Bool) : Bool := s.mod.link.asks.any (fun a => p a.2)

/-- A launch may hold tenure, or merge, at another module: that module learns when it ends (R87). -/
def State.noteReach (s : State) (launch h : Nat) : State :=
  let l := s.mod.link
  if l.reach.contains (launch, h) then s else { s with mod := { s.mod with link := { l with reach := (launch, h) :: l.reach } } }

/-- The packet of an access to another module's label, or of an operation on it (R339). -/
def State.request (s : State) (id : Nat) (a : Access) : State :=
  match a.place, a.op, a.state with
  | .remote h _ _, .far f _, .sent =>
    let s1 := match f.op with
      | .tacq .. => s.noteReach a.holder.launch h
      | _ => s
    s1.sendLink h (s.mapOf a.tid) (.call id (s.agentOf a.tid) f)
  | .remote h l off, op, .sent => s.sendLink h (s.mapOf a.tid) (.access id (s.agentOf a.tid) l off a.n op)
  | _, _, _ => s

/-- Puts an access to a place of ORDER kind `k` in flight and takes its thread out of the rotation. -/
def State.sendAccess (s : State) (place : Place) (n : Nat) (op : AccOp) (d : Reg) (ord : MemOrd) (scope : Nat)
    (st : AccState) (k : Nat := place.order) : State :=
  let a : Access := { tid := s.cur, holder := s.holderOf s.cur, place := place, n := n, op := op, dreg := d, ord := ord
                      scope := scope, order := k, state := s.lostState place op st, shoot := none, hold := Held.none, pc := s.me.pc, left := s.me.left }
  (({ s with accs := Store.put s.accs s.next a, next := s.next + 1 }.inject s.next a).request s.next a).block s.cur (.access s.next)

/-- Whether a tenant thread's access names its own tile. -/
def State.ownTile (s : State) (key : Nat) : Bool := !isMgmt s.cur && decide (keyTile key = tileOf s.cur)

/-- An access at a scratchpad key: in the slot for the issuing tile, else in flight, as is a load that waits in a stream
window of the issuing tile (R143) and a release that waits for earlier stores (R142). SWWAIT and BWWAIT leave the
rotation until GEN has passed (R174). -/
def localOp (key : Nat) (addr : Word) (n : Nat) (op : AccOp) (d : Reg) (ord : MemOrd) (scope : Nat) : Op Unit := do
  let s ← opGet
  if ord.isRel && s.relPending s.cur then opMod (·.sendAccess (.spad key addr) n op d ord scope .held)
  else if s.ownTile key then
    match s.atBank key addr n op with
    | .done s1 v fl => opMod (fun _ => s1.finishAccess s1.cur d v fl)
    | .trap c v => opTrap c v
    | .later (.gen k v) => opMod (fun s => s.block s.cur (.gen k v))
    | .later _ => opMod (·.sendAccess (.spad key addr) n op d ord scope .sent)
  else opMod (·.sendAccess (.spad key addr) n op d ord scope .sent)

/-- LDL, STL, AMOL and CASL: LocalAddr, then alignment (R143). -/
def localAccess (d a x : Reg) (sz : Size) (ord : MemOrd) (scope : Scope) (op : State → AccOp) : Op Unit := do
  let s ← opGet
  let addr := s.reg a + s.reg x
  let key ← opOk (s.localAddr s.cur addr)
  opCheck (decide (key % sz.bytes = 0)) 0x04 addr
  localOp key addr sz.bytes (op s) d ord scope.num

/-- Where an access starts: behind earlier stores of its thread, or on its way (R247). -/
def State.startState (s : State) (tid : Nat) (p : Place) (n : Nat) (ord : MemOrd) (k : Nat) : AccState :=
  if s.mustWait tid p n ord k then .held else .sent

/-- LDG, STG, AMOG and CASG: R59, the page causes, then tenure where the access is performed (R144). -/
def globalAccess (d a x : Reg) (sz : Size) (ord : MemOrd) (scope : Scope) (kind : AccKind) (op : State → AccOp) :
    Op Unit := do
  let s ← opGet
  let l := s.reg a
  let off := s.reg x
  let home := s.homeOf (s.mapOf s.cur) l
  if lblValid l ∧ home ≠ 0 ∧ home ≠ s.self then
    let place : Place := .remote home l off
    opMod (·.sendAccess place sz.bytes (op s) d ord scope.num (s.startState s.cur place sz.bytes ord place.order))
  else do
    let (s1, r) := s.translate s.cur kind l off sz.bytes
    opMod (fun _ => s1)
    let t ← opOk r
    let place : Place := .glob t.node t.child off.toNat l
    let k := s.orderFound s.cur l off t.node
    opMod (·.sendAccess place sz.bytes (op s) d ord scope.num (s1.startState s.cur place sz.bytes ord k) k)

/-- The bytes a store or an atomic takes from its register. -/
def State.regBytes (s : State) (d : Reg) (sz : Size) : Nat := lowBytes (s.reg d) sz.bytes

/-- The register D + 1 of a CAS pair. -/
def pairReg (d : Reg) : Reg := d + 1

def execLdl (d a x : Reg) (sz : Size) (o : MemOrd) (p : Scope) (sx : Bool) (s : State) :
    Host.Outcome State Fault Refusal :=
  runOp (localAccess d a x sz o p (fun _ => .load sx)) s

def execStl (d a x : Reg) (sz : Size) (o : MemOrd) (p : Scope) (s : State) : Host.Outcome State Fault Refusal :=
  runOp (localAccess d a x sz o p (fun s => .store (s.regBytes d sz))) s

def execLdg (d a x : Reg) (sz : Size) (o : MemOrd) (p : Scope) (sx : Bool) (s : State) :
    Host.Outcome State Fault Refusal :=
  runOp (globalAccess d a x sz o p .load (fun _ => .load sx)) s

def execStg (d a x : Reg) (sz : Size) (o : MemOrd) (p : Scope) (s : State) : Host.Outcome State Fault Refusal :=
  runOp (globalAccess d a x sz o p .store (fun s => .store (s.regBytes d sz))) s

def execAmol (d a x : Reg) (sz : Size) (o : MemOrd) (p : Scope) (f : Aop) (s : State) :
    Host.Outcome State Fault Refusal :=
  runOp (localAccess d a x sz o p (fun s => .amo f (s.regBytes d sz) (frmMode s.me.frm))) s

def execAmog (d a x : Reg) (sz : Size) (o : MemOrd) (p : Scope) (f : Aop) (s : State) :
    Host.Outcome State Fault Refusal :=
  runOp (globalAccess d a x sz o p .store (fun s => .amo f (s.regBytes d sz) (frmMode s.me.frm))) s

def execCasl (d a x : Reg) (sz : Size) (o : MemOrd) (p : Scope) (s : State) : Host.Outcome State Fault Refusal :=
  runOp (localAccess d a x sz o p (fun s => .cas (s.regBytes d sz) (s.regBytes (pairReg d) sz))) s

def execCasg (d a x : Reg) (sz : Size) (o : MemOrd) (p : Scope) (s : State) : Host.Outcome State Fault Refusal :=
  runOp (globalAccess d a x sz o p .store (fun s => .cas (s.regBytes d sz) (s.regBytes (pairReg d) sz))) s

/-- FENCE: the release forms wait until the thread's acknowledged stores have been performed; the one access a thread
may have outstanding has its value before the thread issues again, so the acquire form holds at once (R148). -/
def execFence (o : MemOrd) (_p : Scope) (s : State) : Host.Outcome State Fault Refusal :=
  .next (if o.isRel ∧ s.buffered s.cur ≠ [] then s.stall .fence else s)

/-! ## Events -/

def State.acc (s : State) (id : Nat) : Option Access := Store.find s.accs id

def State.setAccState (s : State) (id : Nat) (st : AccState) : State :=
  { s with accs := Store.upd s.accs id (fun a => { a with state := st }) }

/-- The operations of an access that write. -/
def AccOp.writes (op : AccOp) : Bool :=
  match op with
  | .store _ | .amo _ _ _ | .cas _ _ => true
  | _ => false

/-- The energy of an access that has been performed (R329): one scratchpad access, or one part at a home. -/
def State.chargeAccess (s : State) (a : Access) : State :=
  match a.place with
  | .spad _ _ => s.charge (s.mapOf a.tid) 6000
  | .glob node child off _ => s.chargeHome a.tid (s.bytesOf { node := node, child := child } off a.n) a.op.writes
  | .remote _ _ _ => s.chargeFar a.tid

/-- What a bundle holds back takes effect: nothing can trap it any more (R112, R135). -/
def State.settleHeld (s : State) (tid : Nat) (h : Held) : State :=
  let s1 := s.updThread tid (fun t => { t with pres := t.pres &&& ~~~ h.used })
  let s2 := match h.reg with
    | some (d, v) => s1.updThread tid (·.setReg d v)
    | none => s1
  { s2 with spad := h.bytes.foldl (fun (m : Memory) p => m.write p.1 p.2) s2.spad }

/-- The jobs and sweeps of a bundle no longer depend on its answer. -/
def State.freeDep (s : State) (id : Nat) : State :=
  { s with eng := { s.eng with
      jobs := s.eng.jobs.map (fun (j : Nat × Job) => if j.2.dep = some id then (j.1, { j.2 with dep := none }) else j)
      sweeps := s.eng.sweeps.map (fun (q : Nat × List Sweep) => (q.1, q.2.map (fun (w : Sweep) =>
        if w.dep = some id then { w with dep := none } else w))) } }

/-- The vector slot of a bundle takes effect while its scalar slot waits; only the scalar slot is issued again, if it is
(R170, R188). Gives what the bundle still holds back. -/
def State.freeVector (s : State) (tid id : Nat) (h : Held) : State × Held :=
  ((s.freeDep id).settleHeld tid { h with used := h.usedV },
   { Held.none with used := h.used &&& ~~~ h.usedV, vec := h.vec, sonly := h.sonly || h.vec })

/-- The storage bytes that an access writes. -/
def State.writtenBytes (s : State) (a : Access) : List (Nat × Nat) :=
  match a.op.writes, a.place with
  | true, .glob node child off _ => s.bytesOf { node := node, child := child } off a.n
  | _, _ => []

/-- A write to block bytes of a mirrored set is forwarded to the partner (R277). -/
def State.forwardAccess (s : State) (a : Access) : State × Option Nat := s.forwardWrite (s.writtenBytes a)

/-! ### ACTION of a fault record (R313, R314) -/

/-- The label of the fault ring. -/
def ringLabel : Word := 0xFFF0100000000001

/-- The node of a map's fault ring and its capacity, where it is mapped here as a plain node with room for a record.
DEDUCED, log entry 34. -/
def State.ringNode (s : State) (map : Nat) : Option (Nat × Nat) :=
  match canonAt s.maps map ringLabel with
  | some (_, { node := id, child := none }) => match s.node id with
    | some n =>
      let h := s.homeOf map ringLabel
      if n.kind = 0 ∧ 128 ≤ n.extent ∧ h = s.self then some (id, (n.extent - 64) / 64) else none
    | none => none
  | _ => none

/-- The newest posted record in a slot of a virtual function's ring, by its key. -/
def EngState.postedIn (e : EngState) (vf cap slot : Nat) : Option Nat :=
  (Store.keys e.posted).foldl (fun r k => if k / 2 ^ 64 = vf ∧ k % 2 ^ 64 % cap = slot then some (Nat.max k (r.getD 0)) else r) none

/-- The ring's home forwards the first store of SIZE 8 with ORD release that writes 1 or 2 to ACTION of a record (R314).
DEDUCED, log entry 34. -/
def State.noteAction (s : State) (a : Access) : State :=
  match a.op, a.place with
  | .store v, .glob id none off _ =>
    if a.n = 8 ∧ a.ord = .rel ∧ (v = 1 ∨ v = 2) ∧ 64 ≤ off ∧ off % 64 = 56 then
      match (s.node id).bind (fun n => (s.ringNode n.vf).bind (fun r =>
          if r.1 = id then s.eng.postedIn n.vf r.2 (off / 64 - 1) else none)) with
      | some k => { s with eng := { s.eng with posted := Store.upd s.eng.posted k (fun p => if p.2 = 0 then (p.1, v) else p) } }
      | none => s
    else s
  | _, _ => s

/-- A thread's access that need wait behind its earlier stores no longer leaves its core (R247). -/
def State.unhold (s : State) (tid : Nat) : State :=
  s.accs.foldl (fun s x =>
    if x.2.tid = tid ∧ x.2.state = .held ∧ s.mustWait tid x.2.place x.2.n x.2.ord x.2.order = false then
      let a := { x.2 with state := s.lostState x.2.place x.2.op .sent }
      (({ s with accs := Store.put s.accs x.1 a }.inject x.1 a).request x.1 a)
    else s) s

/-- A store that has been acknowledged is performed, whatever has happened since (R144). -/
def State.performStore (s : State) (id : Nat) (a : Access) : State :=
  let s1 := s.chargeAccess a
  let s2 := match a.op, a.place with
    | .store v, .glob node child off _ =>
      ((s1.putBytes a.holder (s1.bytesOf { node := node, child := child } off a.n) a.n v).forwardAccess a).1
    | _, _ => s1
  { s2 with accs := Store.del s2.accs id }.unhold a.tid

/-- The acknowledged stores whose bytes a test picks are performed. -/
def State.performStores (s : State) (hit : Nat × Nat → Bool) : State :=
  s.accs.foldl (fun s a =>
    if a.2.state = .accepted ∧ (s.placeBytes a.2.place a.2.n).any hit then s.performStore a.1 a.2 else s) s

/-- An access is performed at its point of coherence; a buffered store leaves its buffer; SWWAIT and BWWAIT that pass
their checks wait there for GEN. -/
def State.performAccess (s : State) (id : Nat) (a : Access) : State :=
  match a.state with
  | .sent => match s.perform a with
    | .done s1 v fl =>
      let (s2, k) := (s1.chargeAccess a).forwardAccess a
      ({ s2 with accs := Store.upd s2.accs id (fun a => { a with state := .performed v fl, shoot := a.shoot.or k }) }).noteAction a
    | .trap c v => s.setAccState id (.failed c v)
    | .later (.gen _ _) =>
      let (s1, h) := (s.chargeAccess a).freeVector a.tid id a.hold
      { s1 with accs := Store.upd s1.accs id (fun a => { a with state := .waiting, hold := h }) }
    | .later _ => s
  | .accepted => s.performStore id a
  | .held | .waiting | .performed _ _ | .failed _ _ => s

/-- REMOTE_SCRATCHPAD_ACCESS: an access from another tile has reached its bank, or one that waits at a bank of its own tile is
performed there. -/
def execRemoteScratchpadAccess (id : Nat) (s : State) : Host.Outcome State Fault Refusal :=
  .next (match s.acc id with
    | some a => match a.place with
      | .spad _ _ => if (Store.find s.mod.net.packets id).isSome then s else s.performAccess id a
      | .glob _ _ _ _ | .remote _ _ _ => s
    | none => s)

/-- HOME_ACCESS: an access to a label node reaches its home, or the holder's L1 (R84, R144). -/
def execHomeAccess (id : Nat) (s : State) : Host.Outcome State Fault Refusal :=
  .next (match s.acc id with
    | some a => match a.place with
      | .glob _ _ _ _ => s.performAccess id a
      | .spad _ _ | .remote _ _ _ => s
    | none => s)

/-- The acknowledgement of a plain store to a node homed here may return before the store is performed (R144), but for a
write to a parameter set, which the Forum judges and a mirror partner may perform too (R270, R277). -/
def State.early (s : State) (a : Access) : Bool :=
  match a.op, a.ord, a.place with
  | .store _, .plain, .glob _ _ _ _ => !(s.writtenBytes a).any (fun p => match s.node p.1 with
    | some n => decide (n.kind = 4)
    | none => false)
  | _, _, _ => false

/-- The shoot-down, the halo push or the forwarded operation that an access's reply waits for has completed, if it has one. -/
def State.shootDone (s : State) (a : Access) : Bool :=
  match a.shoot with
  | some k => (Store.find s.shoots k).isNone && (Store.find s.pushes k).isNone && !s.mirrorOpen [k]
  | none => true

/-- A reply's trap cancels what the vector slot of the same bundle had queued (R135). -/
def State.cancelDep (s : State) (tid id : Nat) : State :=
  let hit := s.eng.jobs.filter (fun j => decide (j.2.dep = some id))
  let sweeps := s.eng.sweeps.map (fun q => (q.1, q.2.filter (fun w => decide (w.dep ≠ some id))))
  let lost := s.eng.sweeps.any (fun q => q.2.any (fun w => decide (w.dep = some id)))
  if hit = [] ∧ ¬ lost then s
  else
    let s1 := { s with eng := { s.eng with
      sweeps := sweeps.filter (fun q => decide (q.2 ≠ []))
      jobs := s.eng.jobs.filter (fun j => decide (j.2.dep ≠ some id)) } }
    (hit.foldl (fun s j => s.unblock tid (.matrix j.1)) s1).unblock tid (.sweep 0)

/-- A trap that an answer carries: the bundle had no effect, or none but that of its vector slot (R135, R143, R156). -/
def State.answerTrap (s : State) (tid id : Nat) (h : Held) (pc : Word) (left : Nat) (c : Nat) (v : Word) : State :=
  ((s.cancelDep tid id).updThread tid (fun t => { t with pc := pc, left := left, sonly := h.sonly })).trapLater tid c v pc left

def State.replyTrap (s : State) (id : Nat) (a : Access) (c : Nat) (v : Word) : State :=
  ({ s with accs := Store.del s.accs id }.unblock a.tid (.access id)).answerTrap a.tid id a.hold a.pc a.left c v

/-- A MIGR that waits for its checks on another module learns that they have passed, and is issued again (R185). -/
def State.noteProbe (s : State) (a : Access) : State :=
  match a.op, a.place with
  | .probe, .remote _ l off => s.updThread a.tid (fun t => { t with far := some (l, off) })
  | _, _ => s

/-- ACCESS_REPLY: a reply or an acknowledgement reaches the thread (R144, R155). A trap waits for the sweep of the same bundle
where that has started (R188). -/
def execAccessReply (id : Nat) (s : State) : Host.Outcome State Fault Refusal :=
  .next (match s.acc id with
    | none => s
    | some a => match a.state with
      | .performed v fl =>
        if s.shootDone a then
          (((({ s with accs := Store.del s.accs id }.unblock a.tid (.access id)).settleHeld a.tid a.hold).finishAccess
            a.tid a.dreg v fl).noteProbe a)
        else s
      | .failed c v => if a.hold.sonly ∧ (s.thread a.tid).waits.contains (.sweep 0) then s else s.replyTrap id a c v
      | .sent =>
        if s.early a then
          match s.perform a with
          | .trap c v => s.replyTrap id a c v
          | .done _ _ _ | .later _ =>
            (((s.setAccState id .accepted).unblock a.tid (.access id)).settleHeld a.tid a.hold)
        else s
      | .held | .accepted | .waiting => s)

end Sys2Proof.Machine
end

