-- ==== Sys2Proof/Machine/Control.lean ====
section
/-! DEFINITION. Compare and skip (R139), branches (R141), control registers (R150, R151), TRAP (R152), ERET (R154, R291)
and HVC (R292). -/

namespace Sys2Proof.Machine

/-- Annuls the next bundles of the block: issue goes on at the first bundle that is not annulled, or at the next header
(R25, R140). -/
def State.annul (s : State) (n : Nat) : State :=
  let t := s.me
  let k := Nat.min n (t.left - 1)
  s.goTo (t.pc + word (8 * (k + 1))) (t.left - 1 - k)

def execCmp (c : Cond) (k : BitVec 2) (a b : Reg) (s : State) : Host.Outcome State Fault Refusal :=
  .next (if condHolds c (s.reg a) (s.reg b) then s else s.annul k.toNat)

def execCmpi (c : Cond) (k : BitVec 2) (a : Reg) (i : BitVec 16) (s : State) : Host.Outcome State Fault Refusal :=
  .next (if condHolds c (s.reg a) (cmpImm c i) then s else s.annul k.toNat)

/-- A branch: its target's check fails as a trap at the branch, else the link is written and control passes (R141). -/
def State.branch (s : State) (t : Word) (link : Option Reg) : State :=
  match s.targetCheck s.cur s.me.code t with
  | some (c, v) => s.trap c v
  | none =>
    (match link with
      | some r => s.setReg r s.me.link
      | none => s).goTo t 0

def execB (off : BitVec 26) (s : State) : Host.Outcome State Fault Refusal :=
  .next (s.branch (offTarget s.me.pc off) none)

def execBal (off : BitVec 26) (s : State) : Host.Outcome State Fault Refusal :=
  .next (s.branch (offTarget s.me.pc off) (some 30))

def execBrx (d a : Reg) (s : State) : Host.Outcome State Fault Refusal :=
  .next (s.branch (s.reg a) (some d))

/-! ## User control registers -/

/-- The bits of a writable user control register that are not reserved (Tables 5.6, 8.5). -/
def userCrMask (n : Nat) : Word :=
  match n with
  | 6 => 0x7F
  | 7 => 0x3
  | 8 => 0x000000FFFFFFFFF9
  | 9 => 0x80000000000000FF
  | 10 => 0x0000FFFFFFFFFFF8
  | _ => Word.ones

/-- The lowest bank that a partition's threads see, 0 for none (R286, R319). -/
def Part.lbase (p : Part) : Nat := (posOf p.vbanks 0).getD 0

/-- What MFS of a user control register reads in a thread (Table 8.5). -/
def State.userCr (s : State) (tid n : Nat) : Word :=
  let t := s.thread tid
  match n with
  | 0 => (s.coreWord tid).setWidth 64
  | 1 => match s.partOf tid with
    | some p => word ((s.part p).viewSlot (slotOf tid))
    | none => word (slotOf tid)
  | 2 => match s.partOf tid with
    | some p => word p
    | none => Config.mgmtIdentity 2 &&& 0xF
  | 3 => match s.partOf tid with
    | some p => word (s.part p).vf
    | none => Config.mgmtIdentity 3 &&& 0xFF
  | 4 => word s.cycle
  | 5 => word s.time
  | 6 => t.fst
  | 7 => t.frm
  | 8 => t.uvec
  | 9 => t.ucause
  | 10 => t.uepc
  | 11 => t.uval
  | 12 => match s.partOf tid with
    | some p => word (s.part p).lbase
    | none => 0
  | 13 => t.task
  | 14 => t.slice.setWidth 64
  | 15 => t.code
  | _ => 0

/-- A write of a user control register. -/
def Thread.setUserCr (t : Thread) (n : Nat) (v : Word) : Thread :=
  match n with
  | 6 => { t with fst := v }
  | 7 => { t with frm := v }
  | 8 => { t with uvec := v }
  | 9 => { t with ucause := v }
  | 10 => { t with uepc := v }
  | 11 => { t with uval := v }
  | 13 => { t with task := v }
  | _ => t

def execMfs (d : Reg) (crn : BitVec 16) (s : State) : Host.Outcome State Fault Refusal :=
  .next (s.setReg d (s.userCr s.cur crn.toNat))

/-- MTS: a non-zero reserved bit traps with cause 0x01 and the value written (R113). -/
def execMts (d : Reg) (crn : BitVec 16) (s : State) : Host.Outcome State Fault Refusal :=
  .next (if s.reg d &&& ~~~ userCrMask crn.toNat = 0 then s.updMe (·.setUserCr crn.toNat (s.reg d))
    else s.trap 0x01 (s.reg d))

/-! ## Traps and returns -/

/-- TRAP: cause 0x14 after the bundle, which takes effect; a vector slot that takes its thread out of the rotation has
ended before (R152). -/
def execTrap (imm : BitVec 16) (s : State) : Host.Outcome State Fault Refusal :=
  .next (s.trapAt 0x14 (immZ imm) s.me.after.1 s.me.after.2)

/-- The check of a saved resumption word (R154): a header is checked as a branch target, a bundle by rows 1 and 2. -/
def State.resumeCheck (s : State) (code w : Word) : Option (Nat × Word) :=
  if epcLeft w = 0 then s.targetCheck s.cur code (epcPc w) else s.offsetCheck s.cur code (epcPc w)

/-- Return from a user handler (R154). -/
def State.eretUser (s : State) : State :=
  let t := s.me
  if ¬ inhOf t.ucause then s.trap 0x02 0
  else match s.resumeCheck t.code t.uepc with
    | some (c, v) => s.trap c v
    | none =>
      (s.updMe (fun t => { t with
        ucause := withInh t.ucause false, live := none, sonly := decide (t.uonly = some t.uepc), uonly := none
        sys := { t.sys with noMatch := true } })).goTo (epcPc t.uepc) (epcLeft t.uepc)

/-- FROM of cr.scause (Table 18.3). -/
def fromOf (scause : Word) : BitVec 2 := scause.extractLsb' 60 2

/-- Return through the supervisor frame (R291). -/
def State.eretFrame (s : State) : State :=
  let t := s.me
  if ¬ inhOf t.sys.scause then s.trap 0x02 0
  else if t.level.toNat < (fromOf t.sys.scause).toNat then s.trap 0x02 0
  else match s.resumeCheck t.sys.sxcode t.sys.sepc with
    | some (c, v) => s.trap c v
    | none =>
      (s.updMe (fun t => { t with
        code := t.sys.sxcode, level := fromOf t.sys.scause, live := none
        sonly := decide (t.sys.sonly = some t.sys.sepc)
        sys := { t.sys with scause := withInh t.sys.scause false, noMatch := true, sonly := none } })).goTo
          (epcPc t.sys.sepc) (epcLeft t.sys.sepc)

def execEret (s : State) : Host.Outcome State Fault Refusal :=
  .next (if s.me.level = 0 then s.eretUser else s.eretFrame)

/-- The arguments of an HVC: g1 to g4 at its issue, which is before the sweep that it has waited for (R292). -/
def State.callArgs (s : State) : List Word := s.me.sys.hargs.getD [s.reg 1, s.reg 2, s.reg 3, s.reg 4]

/-- HVC: after the thread's earlier stores, posts a call record of KIND 0 and leaves the rotation; the caller resumes
after the bundle (R292, R294). -/
def execHvc (imm : BitVec 16) (s : State) : Host.Outcome State Fault Refusal :=
  let t := s.me
  .next (if s.relPending s.cur then s.stall .order
    else
      ((((s.postCall s.cur (s.callWord s.cur imm.toNat 0) s.callArgs).updMe (fun t => { t with
        sys := { t.sys with hargs := none } })).block s.cur .call).goTo t.after.1 t.after.2))

end Sys2Proof.Machine
end

