-- ==== Sys2Proof/Machine/Labels.lean ====
section
/-! DEFINITION. Label queries on bits (R158), and the replies of operations that are performed at a map or a directory:
LCAN (R159) and LSTAT (R167). -/

namespace Sys2Proof.Machine

def execLanc (d a b : Reg) (s : State) : Host.Outcome State Fault Refusal :=
  .next (s.setReg d (if lblValid (s.reg a) && lblValid (s.reg b) && lblAnc (s.reg a) (s.reg b) then 1 else 0))

def execLrng (d a : Reg) (s : State) : Host.Outcome State Fault Refusal :=
  .next (s.setReg d (if lblValid (s.reg a) then lblSubEnd (s.reg a) else 0))

def execLdep (d a : Reg) (s : State) : Host.Outcome State Fault Refusal :=
  .next (s.setReg d (if lblValid (s.reg a) then word (lblDepth (s.reg a)) else Word.ones))

def execLpar (d a : Reg) (s : State) : Host.Outcome State Fault Refusal :=
  .next (s.setReg d (lblParent (s.reg a)))

def execLchd (d a b : Reg) (s : State) : Host.Outcome State Fault Refusal :=
  .next (s.setReg d (lblChild (s.reg a) (s.reg b).toNat))

/-- LDIG (Table 9.1). -/
def lblDig (l : Word) (j : Nat) : Word :=
  if !lblValid l || decide (6 < j) then Word.ones
  else if j = 0 then word (lblRoot l) else word (lblDigit l j)

def execLdig (d a b : Reg) (s : State) : Host.Outcome State Fault Refusal :=
  .next (s.setReg d (lblDig (s.reg a) (s.reg b).toNat))

/-- An operation performed at its home whose reply writes a register, and which may wait for a shoot-down. -/
def State.sendReply (s : State) (l : Word) (d : Reg) (v : Option Word) (shoot : Option Nat) : State :=
  let id := s.next
  let s1 := s.sendAccess (.glob 0 none 0 l) 0 (.reply none) d .plain 3 (.performed v 0)
  { s1 with accs := Store.upd s1.accs id (fun a => { a with shoot := shoot }) }

/-- The home of a label when it is another module. -/
def State.remoteHome (s : State) (l : Word) : Option Nat := s.farHome (s.mapOf s.cur) l

/-- An operation performed on another module: its reply comes over the scale-up fabric. `v` is the answer of a query that
never traps, should that module be lost (R159, R167). -/
def State.sendRemote (s : State) (home : Nat) (d : Reg) (f : FarCall) (v : Option Word) : State :=
  s.sendAccess (.remote home (f.args.getD 0 0) 0) 0 (.far f v) d .plain 3 .sent

/-- An operation that names no record. -/
def farCall (i : Instr) (args : List Word) : FarCall := { op := i, args := args, words := [], fail := none }

def execLcan (d a : Reg) (s : State) : Host.Outcome State Fault Refusal :=
  .next (match s.remoteHome (s.reg a) with
    | some h => s.sendRemote h d (farCall (.lcan d a) [s.reg a]) (some 0)
    | none => s.sendReply (s.reg a) d (some (canon s.maps (s.mapOf s.cur) (s.reg a))) none)

/-! ## Slots -/

/-- Where a slot lies: a root-table entry, or a digit of a node's table. -/
inductive SlotRef where
  | root (r : Nat)
  | kid (parent digit : Nat)
  deriving DecidableEq, Repr

/-- What a slot reference holds now. -/
def State.slotAt (s : State) (map : Nat) : SlotRef → Slot
  | .root r => match rootNode s.maps map r with
    | some id => match s.node id with
      | some n => if n.kind = 6 then .stub id else .node { node := id, child := none }
      | none => .empty
    | none => .empty
  | .kid p d => match s.node p with
    | some n =>
      if n.kind = 2 ∨ n.kind = 4 then
        (if 1 ≤ d ∧ d ≤ n.implicit then .node { node := p, child := some (d - 1) } else .empty)
      else match Store.find n.kids d with
        | some id => match s.node id with
          | some c => if c.kind = 6 then .stub id else .node { node := id, child := none }
          | none => .empty
        | none => .empty
    | none => .empty

/-- The digit of a label's last level. -/
def lblLast (l : Word) : Nat := lblDigit l (lblDepth l)

/-- The slot of a label: the path above it follows redirect stubs (R160 checks 2 and 3), and no slot lies below level 6
(R62). Gives the reference and the label of its parent (0 for a root), or the trap, and the stubs passed. -/
def slotOfLabel (m : Maps) (map : Nat) (l : Word) : Except (Nat × Word) (SlotRef × Option (Word × Target)) × List Nat :=
  if !lblValid l then (.error (0x07, l), [])
  else if lblDepth l = 0 then (.ok (.root (lblRoot l), none), [])
  else
    let r := resolve m map (lblParent l)
    match r.result with
    | .ok (lc, t) =>
      if 6 ≤ lblDepth lc then (.error (0x06, l), r.stubs) else (.ok (.kid t.node (lblLast l), some (lc, t)), r.stubs)
    | .error (c, v) => (.error (c, if c = 0x06 then l else if c = 0x16 ∧ v ≠ 0 then canon m map l else v), r.stubs)

/-- The label of the first `i` digits. -/
def lblPrefix (l : Word) (i : Nat) : Word := lblMake (lblRoot l) ((lblDigits l).take i)

/-- The label of the implicit child that a label lies below, if any (R364). -/
def implicitAbove (m : Maps) (map : Nat) (l : Word) : Option Word :=
  if lblValid l then ((List.range (lblDepth l)).map (lblPrefix l)).find? (fun p => match canonAt m map p with
    | some (_, t) => t.child.isSome
    | none => false)
  else none

/-- A label lies below an implicit child (R364). -/
def belowImplicit (m : Maps) (map : Nat) (l : Word) : Bool := (implicitAbove m map l).isSome

/-- All descriptors of a subtree, the node's own first, by fuel on depth. -/
def subtree (m : Maps) : Nat → Nat → List Nat
  | 0, id => [id]
  | f + 1, id => match Store.find m.nodes id with
    | some n => id :: (n.kids.flatMap (fun k => subtree m f k.2))
    | none => []

/-- All descriptors at or below a node; a forest is at most seven levels deep. -/
def subtreeOf (m : Maps) (id : Nat) : List Nat := subtree m 7 id

/-- A tile is tenured: any tenure in force overlaps it. DEDUCED, log entry 15. -/
def State.tileTenured (s : State) (t : Target) : Bool :=
  let root := storageRoot s.maps t.node
  let r := rectOf s.maps t
  s.tens.any (fun x => x.2.live && decide (x.2.root = root) && x.2.rect.meets r)

/-- Some tile in a node's subtree is tenured (Table 3.5, BUSY). -/
def State.tenuredBelow (s : State) (id : Nat) : Bool :=
  (subtreeOf s.maps id).any (fun i => (match s.node i with
    | some n => decide (n.kind = 1) || decide (n.kind = 2)
    | none => false) && s.tileTenured { node := i, child := none })

/-- The LSTAT word of a slot (Table 9.2). -/
def State.statWord (s : State) (map : Nat) (ref : SlotRef) : Word :=
  match s.slotAt map ref with
  | .empty => 0
  | .stub id => match s.node id with
    | some n => word (6 * 2 ^ 60 + 2 ^ 54 + Nat.min n.hits.toNat (2 ^ 41 - 1))
    | none => 0
  | .node t => match s.node t.node with
    | some n =>
      let kind := match t.child with
        | some _ => if n.kind = 2 then 1 else 0
        | none => n.kind
      let ten := match t.child with
        | some _ => n.kind = 2 && s.tileTenured t
        | none => s.tenuredBelow t.node
      let bit (b : Bool) (i : Nat) : Nat := if b then 2 ^ i else 0
      word (kind * 2 ^ 60 + n.order * 2 ^ 58 + bit n.enc 57 + bit n.ro 56 + bit n.sup 55 + 2 ^ 54 + bit ten 53
        + n.targetExtent t.child)
    | none => 0

/-- LSTAT (R167): the path above the slot follows stubs of either policy without counting, and no slot lies below level
6 (R62); nothing traps. -/
def State.lstat (s : State) (map : Nat) (l : Word) : Word :=
  if !lblValid l then 0
  else if lblDepth l = 0 then s.statWord map (.root (lblRoot l))
  else match canonAt s.maps map (lblParent l) with
    | some (lc, t) => if t.child.isSome ∨ 6 ≤ lblDepth lc then 0 else s.statWord map (.kid t.node (lblLast l))
    | none => 0

def execLstat (d a : Reg) (s : State) : Host.Outcome State Fault Refusal :=
  .next (match s.remoteHome (s.reg a) with
    | some h => s.sendRemote h d (farCall (.lstat d a) [s.reg a]) (some 0)
    | none => s.sendReply (s.reg a) d (some (s.lstat (s.mapOf s.cur) (s.reg a))) none)

end Sys2Proof.Machine
end

