-- ==== Sys2Proof/Machine/Sources.lean ====
section
/-! DEFINITION. The registers a slot reads (R112, R136): a source that is an absent channel register holds the bundle
back, and a read of a present one consumes its presence. Fields that hold a channel number are no sources. -/

namespace Sys2Proof

/-- The register after. -/
def Reg.succ (r : Reg) : Reg := r + 1

/-- The registers an instruction reads as sources. -/
def Instr.sources : Instr → List Reg
  | .add _ ra rb | .sub _ ra rb | .mul _ ra rb | .mulh _ ra rb | .mulhn _ ra rb | .div _ ra rb | .divn _ ra rb | .rem _ ra rb
  | .remn _ ra rb | .and _ ra rb | .or _ ra rb | .xor _ ra rb | .andn _ ra rb | .shl _ ra rb | .shr _ ra rb | .sra _ ra rb
  | .rol _ ra rb | .min _ ra rb | .max _ ra rb | .minn _ ra rb | .maxn _ ra rb => [ra, rb]
  | .clz _ ra | .ctz _ ra | .popc _ ra | .sext8 _ ra | .sext16 _ ra | .sext32 _ ra | .zext8 _ ra | .zext16 _ ra
  | .zext32 _ ra => [ra]
  | .addi _ ra _ | .andi _ ra _ | .ori _ ra _ | .xori _ ra _ | .shli _ ra _ | .shri _ ra _ | .srai _ ra _ | .movh _ ra _ => [ra]
  | .cmp _ _ ra rb => [ra, rb]
  | .cmpi _ _ ra _ => [ra]
  | .brx _ ra => [ra]
  | .ldl _ ra rx _ _ _ _ | .ldg _ ra rx _ _ _ _ => [ra, rx]
  | .stl rd ra rx _ _ _ | .stg rd ra rx _ _ _ | .amol rd ra rx _ _ _ _ | .amog rd ra rx _ _ _ _ => [rd, ra, rx]
  | .casl rd ra rx _ _ _ | .casg rd ra rx _ _ _ => [rd, Reg.succ rd, ra, rx]
  | .lanc _ ra rb | .lchd _ ra rb | .ldig _ ra rb | .lins _ ra rb | .lmov _ ra rb _ | .lreb _ ra rb _ | .lmap _ ra rb
  | .lunf _ ra rb => [ra, rb]
  | .lrng _ ra | .ldep _ ra | .lpar _ ra | .lcan _ ra | .lfre _ ra | .lstat _ ra => [ra]
  | .tacq _ ra _ _ _ | .trel _ ra _ | .tspl _ ra | .tdsc _ ra _ | .tqry _ ra | .tfls _ ra _ => [ra]
  | .send _ ra rb => [ra, rb]
  | .swarm ra rb | .swadd ra rb _ | .swwait ra rb | .bwinit ra rb | .bwwait ra rb => [ra, rb]
  | .bwarr _ ra _ | .bwfree ra => [ra]
  | .semp ra _ | .semv ra _ | .semt _ ra _ => [ra]
  | .cpyq ra | .cpyqt _ ra => [ra, Reg.succ ra, Reg.succ (Reg.succ ra), Reg.succ (Reg.succ (Reg.succ ra))]
  | .dqpush _ ra => [ra]
  | .qlaunch _ ra rb => [ra, rb]
  | .migr ra rb _ _ => [ra, rb]
  | .migrc ra _ _ => [ra]
  | .mts rd _ => [rd]
  | .pclose _ ra rb => [ra, rb]
  | .pqry _ ra => [ra]
  | .dtwait ra | .dtqry _ ra => [ra]
  | .swin ra rb => [ra, rb]
  | .mtp rd _ => [rd]
  | .lminv ra rb => [ra, rb]
  | .sstop ra | .sstopCancel ra | .qstop _ ra | .qstart _ ra | .qdrain _ ra | .qreset _ ra => [ra]
  | .partxSave _ ra rb | .partxRestore _ ra rb => [ra, rb]
  | .vadd rd ra rb _ _ | .vsub rd ra rb _ _ | .vmul rd ra rb _ _ | .vdiv rd ra rb _ _ | .vfma rd ra rb _ _ | .vfms rd ra rb _ _ => [rd, ra, rb]
  | .vmin rd ra rb _ | .vmax rd ra rb _ | .vand rd ra rb _ | .vor rd ra rb _ | .vxor rd ra rb _ | .vshl rd ra rb _ | .vshr rd ra rb _
  | .vsra rd ra rb _ | .vcmp rd ra rb _ _ | .vgath rd ra rb _ | .vscat rd ra rb _ => [rd, ra, rb]
  | .vabs rd ra _ | .vneg rd ra _ | .vcpy rd ra _ | .vbcast rd ra _ => [rd, ra]
  | .vsqrt rd ra _ _ | .vrcp rd ra _ _ | .vrsq rd ra _ _ | .vexp rd ra _ _ | .vexp2 rd ra _ _ | .vlog2 rd ra _ _ | .vtanh rd ra _ _
  | .vsigm rd ra _ _ | .vscan rd ra _ _ _ | .vcvt rd ra _ _ | .vunpk rd ra _ _ => [rd, ra]
  | .vpack rd ra _ => [rd, ra]
  | .vred _ ra _ _ _ => [ra]
  | .vsel ra rb rc _ => [ra, rb, rc]
  | .viota rd _ => [rd]
  | .vpart ra rb rc => [ra, rb, rc]
  | .mldb ra rb _ => [ra, rb]
  | .mma ra rb rc _ _ | .mdrn ra rb rc _ _ | .mdrnOm ra rb rc _ _ => [ra, rb, rc]
  | .mzero ra => [ra]
  | .cvj ra rb | .cvjt ra rb => [ra, rb]
  | _ => []

end Sys2Proof
end

