-- ==== Sys2Proof/Machine/Map.lean ====
section
/-! DEFINITION. The label map operations LINS, LMAP, LMOV, LREB, LFRE and LUNF (R60 to R66, R160 to R168, R364, R368), each
one step at the map of its home, and the shoot-downs that complete them (R61, R311). -/

namespace Sys2Proof.Machine

/-! ## Status codes (Table 3.5) -/

inductive MapStatus where
  | done | noGap | occupied | stubbed | busy | tooDeep | cycle | noKids | splitView | remote | noStub
  deriving DecidableEq, Repr

def MapStatus.code : MapStatus → Word
  | .done => 0
  | .noGap => 1
  | .occupied => 2
  | .stubbed => 3
  | .busy => 4
  | .tooDeep => 5
  | .cycle => 6
  | .noKids => 7
  | .splitView => 8
  | .remote => 9
  | .noStub => 10

/-! ## Shared pieces -/

/-- Resolves a label operand of a map operation, counting the stubs passed (R160 checks 1 to 3). -/
def resolveOp (l : Word) : Op (Word × Target) := do
  let s ← opGet
  let r := resolve s.maps (s.mapOf s.cur) l
  opMod (fun s => { s with maps := s.maps.countHits r.stubs })
  opOk r.result

/-- Resolves a path, counting the stubs passed: what it leads to, or the trap that is due. -/
def countOp {α : Type} (r : Except (Nat × Word) α × List Nat) : Op (Except (Nat × Word) α) := do
  opMod (fun s => { s with maps := s.maps.countHits r.2 })
  pure r.1

/-- The path of a label that lies below an implicit child `p`, down to it; a trap of it names the label, whose Canon is 0
(R62, R364). DEDUCED, log entry 62. -/
def State.belowPath (s : State) (p l : Word) : Except (Nat × Word) (Word × Target) × List Nat :=
  let r := resolve s.maps (s.mapOf s.cur) p
  (match r.result with
    | .ok x => .ok x
    | .error (c, _) => .error (c, if c = 0x16 then 0 else l), r.stubs)

/-- The path of a label operand to the node that it touches: where it lies below an implicit child, that child's array or set
(R364). DEDUCED, log entry 62. -/
def State.pathOf (s : State) (l : Word) : Except (Nat × Word) (Word × Target) × List Nat :=
  match implicitAbove s.maps (s.mapOf s.cur) l with
  | none => let r := resolve s.maps (s.mapOf s.cur) l; (r.result, r.stubs)
  | some p => s.belowPath p l

def pathOp (l : Word) : Op (Word × Target) := do
  let s ← opGet
  opOk (← countOp (s.pathOf l))

/-- Resolves the path above a label's slot, counting. -/
def slotOp (l : Word) : Op (SlotRef × Option (Word × Target)) := do
  let s ← opGet
  opOk (← countOp (slotOfLabel s.maps (s.mapOf s.cur) l))

/-- At user level, a node with SUP refuses (R160 check 4). -/
def State.supRefuses (s : State) (id : Nat) : Bool :=
  decide (s.me.level = 0) && (match s.node id with
    | some n => n.sup
    | none => false)

def supCheck (id : Nat) (l : Word) : Op Unit := do
  let s ← opGet
  opCheck (!s.supRefuses id) 0x09 l

/-- At user level no root is mapped, freed or moved (R160 check 4). -/
def rootCheck (ref : SlotRef) (l : Word) : Op Unit := do
  let s ← opGet
  opCheck (!(decide (s.me.level = 0) && (match ref with
    | .root _ => true
    | .kid _ _ => false))) 0x09 l

/-- The label of a slot with its parent's canonical label. -/
def slotLabel (ref : SlotRef) (parent : Option (Word × Target)) : Word :=
  match ref, parent with
  | .root r, _ => lblMake r []
  | .kid _ d, some (lc, _) => lblChild lc d
  | .kid _ _, none => 0

/-- Writes a slot: a descriptor, or empty. A root's entry keeps its HOME (R368). -/
def Maps.setSlot (m : Maps) (map : Nat) (ref : SlotRef) (id : Option Nat) (home : Nat) : Maps :=
  match ref with
  | .root r => { m with roots := Store.put m.roots (map * 4096 + r) (home, id.getD 0) }
  | .kid p d => { m with nodes := Store.upd m.nodes p (fun n => { n with kids := match id with
      | some i => Store.put n.kids d i
      | none => Store.del n.kids d }) }

/-- A new descriptor from the map pool. -/
def Maps.addNode (m : Maps) (n : Node) : Maps × Nat :=
  ({ m with nodes := Store.put m.nodes m.nextDesc n, nextDesc := m.nextDesc + 64 }, m.nextDesc)

/-- A stub with NEWLABEL and HITS 0 (R60). -/
def stubNode (vf home : Nat) (new : Word) (fault : Bool) : Node :=
  { vf := vf, kind := 6, order := 0, enc := false, ro := false, sup := false, extent := 0, home := home
    words := (((Vector.replicate 5 0).set 0 (if fault then 1 else 0)).set 1 new), kids := [], pages := [] }

/-- Accesses in flight to the storage of a list of nodes (R165, R312): the pages return only after them. -/
def State.inFlight (s : State) (ids : List Nat) : Bool :=
  s.accs.any (fun a => match a.2.place, a.2.state with
    | .glob n _ _ _, .held | .glob n _ _ _, .sent | .glob n _ _ _, .accepted => ids.contains n || ids.contains (storageRoot s.maps n)
    | _, _ => false)

/-- Starts a shoot-down of a label range, and of what was translated through some nodes or stubs; gives its number. -/
def State.startShoot (s : State) (map : Nat) (lo hi : Word) (all : Bool) (via : List Nat) (tid : Option Nat) : State × Nat :=
  ({ s with shoots := Store.put s.shoots s.next
              { vf := map, lo := lo, hi := hi, all := all, via := via, seen := [], acks := 0, tid := tid }
            next := s.next + 1 }, s.next)

/-- What a map operation does to the maps, unless the pages that its descriptors and digit tables take from the map's
pool meet the quota or the end of the module's pool: trap 0x11, with a value that no rule states (R327; log entries 4
and 26). -/
def growOp (l : Word) (next : State → State) : Op Unit := do
  let s ← opGet
  opCheck (!s.noRoom (s.mapOf s.cur) 0 (next s).maps) 0x11 (Config.trapValue 5 l 0)
  opMod next

/-- Ends a map operation that changed nothing, or needs no shoot-down. -/
def mapReply (l : Word) (d : Reg) (v : Word) : Op Unit := opMod (·.sendReply l d (some v) none)

/-- Ends a map operation whose completion drops the translations of a subtree, under whatever labels they are cached
(R61). `via` names its nodes, or the stub that has gone. -/
def mapReplyShoot (l : Word) (d : Reg) (v : Word) (lo : Word) (via : List Nat) : Op Unit :=
  opMod (fun s =>
    let (s1, k) := s.startShoot (s.mapOf s.cur) lo (lblSubEnd lo) false via none
    s1.sendReply l d (some v) (some k))

/-- A set whose MIRROR an LMAP has just set brings its new partner the committed state; the reply waits for the answer under
the shoot-down's number (R277). DEDUCED, log entry 33. -/
def State.joinPartner (s : State) (id key : Nat) (old : Word) : State :=
  match s.node id with
  | some n => match if n.kind = 4 ∧ n.mirror ≠ old then s.partner n else none with
    | some h => let f := s.forum id; s.forward id n h key (.join n.mirror f.closed f.committed f.cpois)
    | none => s
  | none => s

/-- Ends an LMAP that has changed a node: as `mapReplyShoot` ends it, with what a new mirror partner is sent. -/
def mapReplyJoin (l : Word) (d : Reg) (lc : Word) (id : Nat) (old : Word) : Op Unit :=
  opMod (fun s =>
    let (s1, k) := s.startShoot (s.mapOf s.cur) lc (lblSubEnd lc) false [id] none
    (s1.joinPartner id k old).sendReply l d (some lc) (some k))

/-- Ends an LMAP that has made a node; a set that it gives a partner is sent there (R277). -/
def mapReplyNew (l : Word) (d : Reg) (lc : Word) (map : Nat) (ref : SlotRef) : Op Unit :=
  opMod (fun s => match s.slotAt map ref with
    | .node t => match s.node t.node with
      | some n =>
        if n.kind = 4 ∧ (s.partner n).isSome then
          (({ s with next := s.next + 1 } : State).joinPartner t.node s.next 0).sendReply l d (some lc) (some s.next)
        else s.sendReply l d (some lc) none
      | none => s.sendReply l d (some lc) none
    | .stub _ | .empty => s.sendReply l d (some lc) none)

/-- Pages leave a node: the frames of those that stand in the package return to the pool and the use count falls by them; a
demoted page was taken off the count when it left (R55, R66, R327). -/
def State.freePages (s : State) (map id : Nat) (keep : Nat → Bool) : State :=
  match s.node id with
  | none => s
  | some n =>
    let gone := n.pages.filter (fun p => !keep p.1)
    let frames := gone.filterMap (fun p => match p.2 with
      | .present f => some f
      | .poisoned _ f => some f
      | .demoted _ => none)
    let host := s.maps.isHost id
    let s1 := { s with
      maps := { s.maps with
        nodes := Store.put s.maps.nodes id { n with pages := n.pages.filter (fun p => keep p.1) }
        frames := s.maps.frames.filter (fun f => !frames.contains f) }
      dramPois := s.dramPois.filter (fun u => !frames.contains (u / 1024)) }
    let f := s.forum id
    let copies := f.pages.filter (fun p => !keep p)
    let s2 := if copies = [] then s1 else s1.setForum id { f with pages := f.pages.filter keep }
    if host then s2 else s2.addPages map (- BitVec.ofNat 32 (frames.length + copies.length))

/-- Runs a map operation on the map of its HOME: another module's is performed there. Its label is its first operand. -/
def atMap (f : FarCall) (d : Reg) (m : Op Unit) (s : State) : Host.Outcome State Fault Refusal :=
  match s.remoteHome (f.args.getD 0 0) with
  | some h => .next (s.sendRemote h d f none)
  | none => runOp m s

/-- The same for an operation that is a release: it waits for the thread's stores wherever it is performed (R142). -/
def atMapRel (f : FarCall) (d : Reg) (m : Op Unit) (s : State) : Host.Outcome State Fault Refusal :=
  if s.relPending s.cur then .next (s.stall .order) else atMap f d m s

/-! ## LINS -/

/-- The free digit strictly between `lo` and `hi` nearest ⌊(lo + hi) ÷ 2⌋, the lower on a tie (R64). -/
def insDigit (kids : Store Nat) (lo hi : Nat) : Option Nat :=
  let mid := (lo + hi) / 2
  let free (x : Nat) : Bool := decide (lo < x) && decide (x < hi) && (Store.find kids x).isNone
  (List.range 257).findSome? (fun k =>
    if k ≤ mid ∧ free (mid - k) then some (mid - k) else if free (mid + k) then some (mid + k) else none)

/-- LO and HI of LINS's operand (R161). -/
def insOperand (v : Word) : Option (Nat × Nat) :=
  let lo := (v.extractLsb' 0 9).toNat
  let hi := (v.extractLsb' 16 9).toNat
  if v &&& ~~~ 0x1FF01FF = 0 ∧ lo ≤ 255 ∧ 1 ≤ hi ∧ hi ≤ 256 then some (lo, hi) else none

def linsOp (d : Reg) (l v : Word) : Op Unit := do
  let s ← opGet
  let map := s.mapOf s.cur
  if belowImplicit s.maps map l then do
    let (_, t) ← pathOp l
    supCheck t.node l
    opCheck (insOperand v).isSome 0x0C v
    mapReply l d MapStatus.noKids.code
  else do
    let (lc, t) ← resolveOp l
    supCheck t.node l
    match insOperand v with
    | none => opTrap 0x0C v
    | some (lo, hi) =>
      let s ← opGet
      match s.node t.node with
      | none => opTrap 0x06 l
      | some p =>
        if t.child.isSome || !p.hasKids then mapReply l d MapStatus.noKids.code
        else if lblDepth lc = 6 then mapReply l d MapStatus.tooDeep.code
        else match insDigit p.kids lo hi with
          | none => mapReply l d MapStatus.noGap.code
          | some x => do
            let n : Node := { vf := map, kind := 0, order := p.order, enc := p.enc, ro := false, sup := false, extent := 0
                              home := p.home, words := Vector.replicate 5 0, kids := [], pages := [] }
            growOp l (fun s =>
              let (m, id) := s.maps.addNode n
              { s with maps := m.setSlot map (.kid t.node x) (some id) p.home })
            mapReply l d (lblChild lc x)

def execLins (d a b : Reg) (s : State) : Host.Outcome State Fault Refusal := atMap (farCall (.lins d a b) [s.reg a, s.reg b]) d (linsOp d (s.reg a) (s.reg b)) s

/-! ## LMAP -/

/-- Words of an image that must be zero for its kind. -/
def imageZeroFrom (kind : Nat) : Nat :=
  match kind with
  | 0 | 5 => 3
  | 1 | 2 => 7
  | 3 => 4
  | _ => 8

/-- A node as an image of eight words describes it. -/
def imageNode (map home : Nat) (w : Vector Word 8) : Node :=
  { vf := map, kind := (w[0].extractLsb' 60 4).toNat, order := (w[0].extractLsb' 58 2).toNat, enc := w[0].getLsbD 57
    ro := w[0].getLsbD 56, sup := w[0].getLsbD 55, extent := (w[0].extractLsb' 0 41).toNat, home := home
    words := #v[w[3], w[4], w[5], w[6], w[7]], kids := [], pages := [] }

/-- Adds two index vectors. -/
def vecAdd (a b : List Nat) : List Nat := List.zipWith (· + ·) a b

/-- A view's ancestor is a node with own storage, the same type and rank, whose index space contains it (R162). -/
def viewOk (n : Node) (anc : Option Node) : Bool :=
  match anc with
  | some r => (r.kind = 1 || r.kind = 2) && r.suplv = 0 && r.tyCode = n.tyCode && r.rank = n.rank
      && (List.zip (vecAdd (indexOf r.dims n.vorg) n.dims) r.dims).all (fun p => decide (p.1 ≤ p.2))
      && decide (n.vorg < Nat.max 1 (prod r.dims))
  | none => false

/-- A slot lies under the host root. -/
def Maps.hostSlot (m : Maps) : SlotRef → Bool
  | .root r => decide (r = 4093)
  | .kid p _ => m.isHost p

/-- A tensor's or tile array's fields above its rank do not read 1 as Table 3.4 asks, from dimension `lo` to `hi`. -/
def aboveRank (n : Node) (ds : List Nat) (lo hi : Nat) : Bool :=
  (List.range 4).any (fun j => decide (lo ≤ j) && decide (j ≤ hi) && decide (n.rank ≤ j) && decide (ds.getD j 1 ≠ 1))

/-- The first image word that holds a failing field (R160 check 6, R162). `anc` is the ancestor SUPLV levels up. The fixed
values that Table 3.4 gives (HALO 0 in a tensor, VORG 0 with own storage, dimensions 1 above the rank, TDIM at least 1)
are held to be part of the layout (DEDUCED, log entry 16). -/
def imageBad (w : Vector Word 8) (n : Node) (anc : Option Node) : Option Nat :=
  let zeroAt (i : Nat) (h : i < 8) : Bool := decide (w[i] ≠ 0)
  let w0 := w[0].extractLsb' 41 14 ≠ 0 ∨ 6 ≤ n.kind ∨ n.order = 3 ∨ 2 ^ 40 < n.extent
  let tensor := n.kind = 1 ∨ n.kind = 2
  let w3 : Bool :=
    if tensor then
      decide (w[3].extractLsb' 40 9 ≠ 0) || decide (12 < n.tyCode)
        || (if n.suplv = 0 then decide (n.vorg ≠ 0) else !viewOk n anc) || (decide (n.kind = 1) && decide (n.halo ≠ 0))
    else if n.kind = 3 then
      decide (w[3].extractLsb' 32 32 ≠ 0) || decide (n.field 0 0 32 < 8) || decide (65536 < n.field 0 0 32)
        || decide (n.field 0 0 32 % 8 ≠ 0)
    else if n.kind = 4 then false
    else decide (w[3] ≠ 0)
  let count := prod (List.zipWith (fun d t => ceilDiv d (Nat.max t 1)) n.dims n.tdims)
  let w4 : Bool :=
    if n.kind = 2 then decide (count < 1) || decide (255 < count) || aboveRank n n.dims 0 1
      || (n.tyCode = 12 && decide (n.dims.headD 0 % 32 ≠ 0))
    else if n.kind = 1 then aboveRank n n.dims 0 1
    else if n.kind = 4 then false
    else decide (w[4] ≠ 0)
  let w5 : Bool := if tensor then aboveRank n n.dims 2 3 else if n.kind = 4 then false else decide (w[5] ≠ 0)
  let w6 : Bool :=
    if n.kind = 2 then (n.tyCode = 12 && decide (n.tdims.headD 0 % 32 ≠ 0)) || aboveRank n n.tdims 0 3
      || n.tdims.any (fun t => decide (t = 0))
    else if n.kind = 1 then decide (n.tdims ≠ n.dims)
    else if n.kind = 4 then false
    else decide (w[6] ≠ 0)
  if w0 then some 0
  else if zeroAt 1 (by decide) then some 1
  else if zeroAt 2 (by decide) then some 2
  else if w3 then some 3
  else if w4 then some 4
  else if w5 then some 5
  else if w6 then some 6
  else if n.kind ≠ 4 && zeroAt 7 (by decide) then some 7
  else none

/-- The first word in which an image makes a change that R162 forbids to an existing node. -/
def changeBad (old new : Node) : Option Nat :=
  let held := old.pages ≠ []
  if old.kind ≠ new.kind ∨ (held ∧ old.enc ≠ new.enc) then some 0
  else if old.kind = 4 then
    if old.words[0] ≠ new.words[0] then some 3 else if old.words[1] ≠ new.words[1] then some 4 else none
  else if held ∧ (old.kind = 1 ∨ old.kind = 2) then
    if old.words[0] ≠ new.words[0] then some 3
    else if old.words[1] ≠ new.words[1] then some 4
    else if old.words[2] ≠ new.words[2] then some 5
    else if old.words[3] ≠ new.words[3] then some 6
    else none
  else none

/-- The eight words of a scratchpad record. -/
def State.spadWords (s : State) (key : Nat) : Vector Word 8 := Vector.ofFn (fun i => word (s.spadRead (key + 8 * i.val) 8))

/-- A record operand of `n` bytes on the issuing tile with an alignment (R160 check 5, R180, R182): its key, or the trap. The
instruction consumes it, so a poisoned unit traps (R359), after its address has been checked (DESIGN CHOICE, log entry 74). -/
def State.recordCheck (s : State) (addr : Word) (align n : Nat) : Except (Nat × Word) Nat :=
  match s.localAddr s.cur addr with
  | .error e => .error e
  | .ok key =>
    if !s.ownTile key then .error (0x05, addr)
    else if key % align ≠ 0 then .error (0x04, addr)
    else if s.spadPoisoned key n then .error (0x13, Config.poisonValue addr)
    else .ok key

def recordOp (addr : Word) (align n : Nat) : Op Nat := do
  let s ← opGet
  opOk (s.recordCheck addr align n)

/-- The record that an operation names, as its packet brings it to another module. -/
def State.farRecord (s : State) (addr : Word) (f : FarCall) : FarCall :=
  match s.recordCheck addr 64 64 with
  | .ok key => { f with words := (s.spadWords key).toList }
  | .error e => { f with fail := some e }

/-- The words of a 64-byte record operand: of the issuing tile, or of the packet that brought the operation here. -/
def recordWordsOp (addr : Word) : Op (Vector Word 8) := do
  let s ← opGet
  match s.guest s.cur with
  | some g => match g.f.fail with
    | some (c, v) => opTrap c v
    | none => pure (Vector.ofFn (fun i => g.f.words.getD i.val 0))
  | none => do
    let key ← recordOp addr 64 64
    let s ← opGet
    pure (s.spadWords key)

/-- The home a new node takes: its parent's, or the root entry's, or this module. -/
def State.slotHome (s : State) (map : Nat) : SlotRef → Nat
  | .root r => let h := rootHome s.maps map r; if h = 0 then s.self else h
  | .kid p _ => match s.node p with
    | some n => n.home
    | none => s.self

/-- The lowest image word that some check refuses. -/
def firstBad (bs : List (Option Nat)) : Option Nat :=
  bs.foldl (fun r b => match r, b with
    | some i, some j => some (Nat.min i j)
    | none, x | x, none => x) none

def lmapOp (paramBad : Vector Word 8 → Node → Option Nat) (d : Reg) (l addr : Word) : Op Unit := do
  let s ← opGet
  let map := s.mapOf s.cur
  opCheck (lblValid l) 0x07 l
  if belowImplicit s.maps map l then do
    -- no node stands between the label and the array or set, which is one level above the implicit child
    let top := ((implicitAbove s.maps map l).map lblDepth).getD 0
    let (_, t) ← pathOp l
    supCheck t.node l
    let w ← recordWordsOp addr
    let s ← opGet
    let new := imageNode map s.self w
    let anc := if new.suplv + top ≤ lblDepth l ∨ lblDepth l < new.suplv then none
               else (ancestor s.maps t.node (new.suplv + top - lblDepth l - 1)).bind s.node
    match firstBad [imageBad w new anc, paramBad w new] with
    | some i => opTrap 0x0C (addr + word (8 * i))
    | none => mapReply l d MapStatus.noKids.code
  else do
    let (ref, par) ← slotOp l
    match par with
    | some (_, t) => supCheck t.node l
    | none => pure ()
    rootCheck ref l
    let s ← opGet
    let slot := s.slotAt map ref
    match slot with
    | .node t => supCheck t.node l
    | .stub _ | .empty => pure ()
    let w ← recordWordsOp addr
    let s ← opGet
    let new := imageNode map (s.slotHome map ref) w
    let anc := match ref with
      | .root _ => none
      | .kid p _ => if new.suplv = 0 then none else (ancestor s.maps p (new.suplv - 1)).bind s.node
    let own := match slot with
      | .node t => (s.node t.node).bind (fun o => if t.child.isSome then none else changeBad o new)
      | .stub _ | .empty => none
    -- a host node's ORDER is 1 or 2 (R346)
    let own := if s.maps.hostSlot ref && decide (new.order = 0) then some 0 else own
    match firstBad [imageBad w new anc, paramBad w new, own] with
    | some i => opTrap 0x0C (addr + word (8 * i))
    | none =>
      let parentNode := match ref with
        | .root _ => none
        | .kid p _ => s.node p
      match slot with
      | .empty =>
        let kidsOk := match ref, parentNode, par with
          | .root _, _, _ => true
          | .kid _ _, some p, some (_, t) => p.hasKids && t.child.isNone
          | .kid _ _, _, _ => false
        let lc := slotLabel ref par
        if !kidsOk then mapReply l d MapStatus.noKids.code
        else if lc = 0 then mapReply l d MapStatus.tooDeep.code
        else do
          growOp l (fun s =>
            let (m, id) := s.maps.addNode new
            { s with maps := m.setSlot map ref (some id) new.home })
          mapReplyNew l d lc map ref
      | .stub _ => mapReply l d MapStatus.stubbed.code
      | .node t =>
        if t.child.isSome then mapReply l d MapStatus.noKids.code
        else if s.tenuredBelow t.node then mapReply l d MapStatus.busy.code
        else if s.inFlight [t.node] then opWait .order
        else do
          let old := match s.node t.node with
            | some o => o.mirror
            | none => 0
          opMod (fun s => { s with maps := { s.maps with nodes := Store.upd s.maps.nodes t.node (fun o =>
            { new with kids := o.kids, pages := o.pages, home := o.home }) } })
          opMod (fun s => s.freePages map t.node (fun p => decide (p * 65536 < new.extent)))
          mapReplyJoin l d (slotLabel ref par) t.node old

/-! ## LMOV -/

/-- The height of a subtree: the levels below the node, an implicit child counting as one. DEDUCED, log entry 62. -/
def heightGo (m : Maps) : Nat → Nat → Nat
  | 0, _ => 0
  | f + 1, id => match Store.find m.nodes id with
    | some n =>
      if n.implicit ≠ 0 then 1
      else n.kids.foldl (fun h k => Nat.max h (heightGo m f k.2 + 1)) 0
    | none => 0

/-- A view of a moved subtree would lose its storage root: the ancestor at its distance would be another node (R56). So
also where a view stays below its root at another depth, since SUPLV is no part of what a move writes (DESIGN CHOICE,
log entry 74). -/
def splitsView (m : Maps) (s p : Nat) : Bool :=
  let ns := subtreeOf m s
  ns.any (fun id => match Store.find m.nodes id with
    | some n =>
      if (n.kind = 1 ∨ n.kind = 2) ∧ n.suplv ≠ 0 then
        -- levels from the view up to the moved node
        let k := ((List.range 8).find? (fun k => decide (ancestor m id k = some s))).getD 0
        if n.suplv ≤ k then false
        else decide (ancestor m p (n.suplv - k - 1) ≠ ancestor m id n.suplv)
      else false
    | none => false)

/-- The refusals of R60, in its order, for moving a node, or its implicit child, to be child `digit` of `p`. `lcp` is the
canonical label of the new parent. An implicit child has no slot (R364), so none is occupied below a tile array or a set; its
subtree is itself, and `below` says that the label moved or the new parent lies below one, where there is no node. -/
def State.moveStatus (s : State) (map sid : Nat) (p : Target) (lcp : Word) (digit : Nat) (child : Option Nat) (below : Bool) :
    MapStatus :=
  let kids := p.child.isNone && (match s.node p.node with
    | some n => n.hasKids
    | none => false)
  match if kids then s.slotAt map (.kid p.node digit) else .empty with
  | .node _ => .occupied
  | .stub _ => .stubbed
  | .empty =>
    if (match child with
      | some _ => decide (p.node = sid) && decide (p.child = child) && !below
      | none => (subtreeOf s.maps sid).contains p.node) then .cycle
    else if child.isSome || !kids then .noKids
    else if 6 < lblDepth lcp + 1 + heightGo s.maps 7 sid then .tooDeep
    else if splitsView s.maps sid p.node then .splitView
    else if s.tenuredBelow sid then .busy
    else .done

/-- Moves a node from one slot to another, leaving a stub or nothing (R60). -/
def State.moveNode (s : State) (map sid : Nat) (old new : SlotRef) (home : Nat) (label : Word) (stub : Stub) : State :=
  let m1 := s.maps.setSlot map new (some sid) home
  let m2 := match stub with
    | .noStub => m1.setSlot map old none home
    | .redirect => let (m, id) := m1.addNode (stubNode map home label false); m.setSlot map old (some id) home
    | .fault => let (m, id) := m1.addNode (stubNode map home label true); m.setSlot map old (some id) home
  { s with maps := m2 }

/-- The slot of a canonical label. -/
def slotOfCanon (m : Maps) (map : Nat) (lc : Word) : SlotRef :=
  if lblDepth lc = 0 then .root (lblRoot lc)
  else match canonAt m map (lblParent lc) with
    | some (_, t) => .kid t.node (lblLast lc)
    | none => .root (lblRoot lc)

/-- The path to the parent of a slot that a label names and that another node is to take; none for a root label (R160, R163).
DEDUCED, log entry 62. -/
def State.parentPath (s : State) (new : Word) : Except (Nat × Word) (Option (Word × Target)) × List Nat :=
  if lblDepth new = 0 then (.ok none, [])
  else match implicitAbove s.maps (s.mapOf s.cur) (lblParent new) with
    | some p => let r := s.belowPath p new; (r.1.map some, r.2)
    | none => let r := slotOfLabel s.maps (s.mapOf s.cur) new; (r.1.map (·.2), r.2)

/-- The trap of a path that one of R160's checks makes. -/
def pathCheck {α : Type} (r : Except (Nat × Word) α) (cause : Nat) : Op Unit :=
  match r with
  | .error (c, v) => if c = cause then opTrap c v else pure ()
  | .ok _ => pure ()

/-- LMOV: the checks of R160, each of both operands before the next, then REMOTE, then the refusals of R60 (R163). The nodes
that a move touches, for check 4, are the one moved and its new parent, not the old one; a node with ORDER 0 cannot come below
the host root (R346), which the trap of a bad operand says (DESIGN CHOICE, log entry 74). -/
def lmovOp (d : Reg) (l new : Word) (stub : Stub) : Op Unit := do
  let s ← opGet
  let map := s.mapOf s.cur
  let below := belowImplicit s.maps map l || belowImplicit s.maps map (lblParent new)
  opCheck (lblValid l) 0x07 l
  opCheck (lblValid new) 0x07 new
  let src ← countOp (s.pathOf l)
  pathCheck src 0x06
  let dst ← countOp (if (s.remoteHome new).isSome then (.ok none, []) else s.parentPath new)
  pathCheck dst 0x06
  let (lc, t) ← opOk src
  let par ← opOk dst
  supCheck t.node l
  match par with
  | some (_, p) => supCheck p.node new
  | none => pure ()
  rootCheck (if lblDepth lc = 0 then .root (lblRoot lc) else .kid 0 0) l
  opCheck (decide (lblDepth new ≠ 0)) 0x0C new
  match par with
  | none => mapReply l d MapStatus.remote.code
  | some (lcp, p) => do
    let s ← opGet
    if rootHome s.maps map (lblRoot lc) ≠ rootHome s.maps map (lblRoot lcp) then mapReply l d MapStatus.remote.code
    else
      let digit := lblLast new
      opCheck (!(s.maps.isHost p.node && (subtreeOf s.maps t.node).any (fun i => (s.node i).any (fun n => decide (n.order = 0)))))
        0x0C new
      match s.moveStatus map t.node p lcp digit t.child below with
      | .done => do
        let label := lblChild lcp digit
        let home := rootHome s.maps map (lblRoot lc)
        let via := subtreeOf s.maps t.node
        growOp l (fun s => s.moveNode map t.node (slotOfCanon s.maps map lc) (.kid p.node digit) home label stub)
        mapReplyShoot l d label lc via
      | st => mapReply l d st.code

def execLmov (d a b : Reg) (t : Stub) (s : State) : Host.Outcome State Fault Refusal :=
  atMap (farCall (.lmov d a b t) [s.reg a, s.reg b]) d (lmovOp d (s.reg a) (s.reg b) t) s

/-! ## LREB -/

/-- The digits of the children in a range, ascending. -/
def kidsIn (kids : Store Nat) (lo hi : Nat) : Store Nat := kids.filter (fun k => decide (lo ≤ k.1) && decide (k.1 ≤ hi))

/-- The target digit of child `j` of `k` (R65). -/
def respaced (lo n k j : Nat) : Nat := lo + j * n / k + n / (2 * k)

/-- The moves of a respacing: (old digit, descriptor, new digit) of each child whose digit changes. -/
def respaceMoves (kids : Store Nat) (lo hi : Nat) : List (Nat × Nat × Nat) :=
  let l := kidsIn kids lo hi
  let n := hi - lo + 1
  (l.zipIdx.map (fun p => (p.1.1, p.1.2, respaced lo n l.length p.2))).filter (fun p => decide (p.1 ≠ p.2.2))

/-- The outcome of LREB's whole check (R63, R65). -/
def State.respaceStatus (s : State) (map : Nat) (p : Target) (lcp : Word) (lo hi : Nat) : MapStatus :=
  match s.node p.node with
  | none => .noKids
  | some n =>
    let l := kidsIn n.kids lo hi
    if p.child.isSome || !n.hasKids then .noKids
    else if l.any (fun k => match s.node k.2 with
      | some c => decide (c.kind = 6)
      | none => false) then .stubbed
    else if hi - lo + 1 < l.length then .noGap
    else
      let mv := respaceMoves n.kids lo hi
      if mv.any (fun a => l.any (fun k => decide (k.1 = a.2.2) && decide (k.2 ≠ a.2.1))) then .occupied
      else match (mv.map (fun a => s.moveStatus map a.2.1 p lcp a.2.2 none false)).find? (fun x => decide (x ≠ .done)) with
        | some x => x
        | none => .done

def lrebOp (d : Reg) (l v : Word) (stub : Stub) : Op Unit := do
  let s ← opGet
  let map := s.mapOf s.cur
  let lo := (v.extractLsb' 0 8).toNat
  let hi := (v.extractLsb' 8 8).toNat
  let operand := decide (v.toNat < 2 ^ 16) && decide (1 ≤ lo) && decide (lo ≤ hi)
  opCheck (lblValid l) 0x07 l
  if belowImplicit s.maps map l then do
    let (_, t) ← pathOp l
    supCheck t.node l
    opCheck operand 0x0C v
    mapReply l d MapStatus.noKids.code
  else do
    let (lc, t) ← resolveOp l
    supCheck t.node l
    let s ← opGet
    opCheck (match s.node t.node with
      | some n => (kidsIn n.kids lo hi).all (fun k => !s.supRefuses k.2)
      | none => true) 0x09 l
    opCheck operand 0x0C v
    match s.respaceStatus map t lc lo hi with
    | .done =>
      let mv := match s.node t.node with
        | some n => respaceMoves n.kids lo hi
        | none => []
      growOp l (fun s => mv.foldl (fun s a =>
        s.moveNode map a.2.1 (.kid t.node a.1) (.kid t.node a.2.2) (s.slotHome map (.kid t.node a.1))
          (lblChild lc a.2.2) stub) s)
      mapReplyShoot l d MapStatus.done.code lc (mv.flatMap (fun a => subtreeOf s.maps a.2.1))
    | st => mapReply l d st.code

def execLreb (d a b : Reg) (t : Stub) (s : State) : Host.Outcome State Fault Refusal :=
  atMap (farCall (.lreb d a b t) [s.reg a, s.reg b]) d (lrebOp d (s.reg a) (s.reg b) t) s

/-! ## Parameter sets -/

/-- The first word of a parameter-set image that R268 refuses. A MIRROR must be a label of another module; whether its
node is a set with equal fields is that module's state, a free value here (DESIGN CHOICE, log entry 10). `busy` says
that the set's open step has blocks. -/
def paramBad (remote : Word → Bool) (busy : Word → Bool) (w : Vector Word 8) (n : Node) : Option Nat :=
  if n.kind ≠ 4 then none
  else if n.extent ≠ 256 + n.blockCount * n.blockBytes then some 0
  else if w[3].extractLsb' 32 26 ≠ 0 ∨ w[3].extractLsb' 8 8 ≠ 0 ∨ n.gtype < 8 ∨ 10 < n.gtype ∨ 2 < n.nmom
      ∨ n.elems % 16 ≠ 0 ∨ n.elems < 16 ∨ 16384 < n.elems ∨ n.blockCount = 0 then some 3
  else if w[4].extractLsb' 32 32 ≠ 0 then some 4
  else if (n.mirror ≠ 0 ∧ ¬ (remote n.mirror && Config.mirrorFits n.mirror [n.gtype, n.nmom, n.elems, n.blockCount])) ∨ busy n.mirror then some 5
  else if w[6] ≠ 0 then some 6
  else if w[7] ≠ 0 then some 7
  else none

/-- A set that the label names now has blocks of its open step, and another MIRROR than the new one. -/
def State.stepBusy (s : State) (map : Nat) (l mirror : Word) : Bool :=
  match canonAt s.maps map l with
  | some (_, t) => decide ((s.forum t.node).applied ≠ []) && (match s.node t.node with
    | some n => decide (n.mirror ≠ mirror)
    | none => false)
  | none => false

def execLmap (d a b : Reg) (s : State) : Host.Outcome State Fault Refusal :=
  atMap (s.farRecord (s.reg b) (farCall (.lmap d a b) [s.reg a, s.reg b])) d
    (lmapOp (paramBad (fun l => (s.remoteHome l).isSome) (s.stepBusy (s.mapOf s.cur) (s.reg a))) d (s.reg a) (s.reg b)) s

/-! ## LFRE and LUNF -/

/-- The jobs parked at sets that are freed start again, to fault there with 0x06; their old records act no more (R278). -/
def EngState.dropForums (e : EngState) (gone : Nat → Bool) : EngState :=
  let hit (j : Job) : Bool := match j.forum, j.state with
    | some (n, _), .parked _ _ true => gone n
    | _, _ => false
  { e with
    jobs := e.jobs.map (fun (j : Nat × Job) => if hit j.2 then (j.1, { j.2 with state := .started }) else j)
    posted := e.posted.filter (fun p => match Store.find e.jobs p.2.1 with
      | some j => !hit j
      | none => true) }

/-- The subtree's descriptors leave the map and its pages return to the pool (R66). DEDUCED, log entry 49. -/
def State.freeSubtree (s : State) (map id : Nat) : State :=
  let ns := subtreeOf s.maps id
  let s1 := ns.foldl (fun s n => s.freePages map n (fun _ => false)) s
  { s1 with maps := { s1.maps with nodes := s1.maps.nodes.filter (fun n => !ns.contains n.1) }
            tens := s1.tens.filter (fun t => !ns.contains t.2.root)
            eng := { s1.eng.dropForums (fun n => ns.contains n) with
              forums := s1.eng.forums.filter (fun f => !ns.contains f.1) } }

def lfreOp (d : Reg) (l : Word) : Op Unit := do
  let s ← opGet
  let map := s.mapOf s.cur
  opCheck (lblValid l) 0x07 l
  if belowImplicit s.maps map l then do
    let (_, t) ← pathOp l
    supCheck t.node l
    mapReply l d MapStatus.noKids.code
  else do
    let (lc, t) ← resolveOp l
    supCheck t.node l
    let s ← opGet
    opCheck ((subtreeOf s.maps t.node).all (fun n => !s.supRefuses n)) 0x09 l
    let ref := slotOfCanon s.maps map lc
    rootCheck ref l
    if t.child.isSome then mapReply l d MapStatus.noKids.code
    else if s.tenuredBelow t.node then mapReply l d MapStatus.busy.code
    else if s.inFlight (subtreeOf s.maps t.node) then opWait .order
    else do
      opMod (fun s =>
        let s1 := s.freeSubtree map t.node
        { s1 with maps := s1.maps.setSlot map ref none (s.slotHome map ref) })
      mapReplyShoot l d MapStatus.done.code lc (subtreeOf s.maps t.node)

def execLfre (d a : Reg) (s : State) : Host.Outcome State Fault Refusal := atMap (farCall (.lfre d a) [s.reg a]) d (lfreOp d (s.reg a)) s

def lunfOp (d : Reg) (l want : Word) : Op Unit := do
  let s ← opGet
  let map := s.mapOf s.cur
  opCheck (lblValid l) 0x07 l
  if belowImplicit s.maps map l then do
    let (_, t) ← pathOp l
    supCheck t.node l
    mapReply l d MapStatus.noKids.code
  else do
    let (ref, par) ← slotOp l
    match par with
    | some (_, t) => supCheck t.node l
    | none => pure ()
    let s ← opGet
    match s.slotAt map ref with
    | .stub id =>
      let ok := match s.node id with
        | some n => decide (want = 0) || decide (n.newLabel = want)
        | none => false
      if ok then do
        opMod (fun s =>
          let m := s.maps.setSlot map ref none (s.slotHome map ref)
          { s with maps := { m with nodes := Store.del m.nodes id } })
        mapReplyShoot l d MapStatus.done.code l [id]
      else mapReply l d MapStatus.noStub.code
    | .node t =>
      if t.child.isSome then mapReply l d MapStatus.noKids.code else mapReply l d MapStatus.noStub.code
    | .empty =>
      match par with
      | some (_, t) =>
        if t.child.isSome then mapReply l d MapStatus.noKids.code else mapReply l d MapStatus.noStub.code
      | none => mapReply l d MapStatus.noStub.code

def execLunf (d a b : Reg) (s : State) : Host.Outcome State Fault Refusal :=
  atMap (farCall (.lunf d a b) [s.reg a, s.reg b]) d (lunfOp d (s.reg a) (s.reg b)) s

/-! ## Shoot-downs -/

/-- A cached translation that a shoot-down drops: its map, and its label in the range, compared by bits [63:4] (R297), or
the node it leads to or a stub it passed (R61, R63). -/
def Shoot.drops (k : Shoot) (c : Cached) : Bool :=
  decide (c.vf = k.vf) && (k.all || k.via.contains c.node || c.stubs.any (fun i => k.via.contains i) ||
    (decide (k.lo.toNat / 16 ≤ c.label.toNat / 16) && decide (c.label.toNat / 16 ≤ k.hi.toNat / 16)))

/-- A line of an instruction cache that a shoot-down drops with the translations of its label or its node (DESIGN CHOICE, log
entry 25). -/
def Shoot.dropsLine (k : Shoot) (l : CodeLine) : Bool :=
  decide (l.vf = k.vf) && (k.all || k.via.contains l.node ||
    (decide (k.lo.toNat / 16 ≤ l.label.toNat / 16) && decide (l.label.toNat / 16 ≤ k.hi.toNat / 16)))

/-- The tier belongs to a tile: its tile tier or a core tier of one of its cores. -/
def tierTile (tier : Nat) : Nat := if 3072 ≤ tier then tier - 3072 else tier / 3

/-- SHOOTDOWN_INVALIDATE: a tile drops its matching translations, and its cores the lines of code found through them
(R311). -/
def execShootdownInvalidate (id tile : Nat) (s : State) : Host.Outcome State Fault Refusal :=
  .next (match Store.find s.shoots id with
    | some k =>
      if 1024 ≤ tile ∨ k.seen.contains tile then s
      else { s with
        tlb := s.tlb.filter (fun c => !(decide (tierTile c.tier = tile) && k.drops c))
        icache := s.icache.filter (fun l => !(decide (l.core / 3 = tile) && k.dropsLine l))
        shoots := Store.put s.shoots id { k with seen := tile :: k.seen } }
    | none => s)

/-- SHOOTDOWN_ACK: an acknowledgement is counted; at 1,024 the shoot-down completes (R311). -/
def execShootdownAck (id : Nat) (s : State) : Host.Outcome State Fault Refusal :=
  .next (match Store.find s.shoots id with
    | some k =>
      if k.seen.length ≤ k.acks then s
      else if k.acks + 1 = 1024 then
        let s1 := { s with shoots := Store.del s.shoots id }
        match k.tid with
        | some t => s1.unblock t (.shootdown id)
        | none => s1
      else { s with shoots := Store.put s.shoots id { k with acks := k.acks + 1 } }
    | none => s)

end Sys2Proof.Machine
end

