-- ==== Sys2Proof/Machine/Sync.lean ====
section
/-! DEFINITION. SEND and channel registers (R171 to R173), sync and barrier words (R174 to R176), counting semaphores
(R30, R31, R177, R178), and the event SEND_LANDING. -/

namespace Sys2Proof.Machine

/-- The first execution check of an instruction that a management thread may not issue (R366). -/
def tenantOnly : Op Unit := do
  let s ← opGet
  opCheck (!isMgmt s.cur) 0x02 0

/-- A release waits for the thread's buffered stores (R142). -/
def releaseWait : Op Unit := do
  let s ← opGet
  if s.relPending s.cur then opWait .order else pure ()

/-- The index of a core in its launch, from tile and role (R35). -/
def Launch.coreIndex (l : Launch) (tile role : Nat) : Nat :=
  (((tileRow tile + 32 - l.row0) % 32) * l.cols + (tileCol tile + 32 - l.col0) % 32) * 3 + role

/-- The tile and role of a core index. -/
def Launch.coreOfIndex (l : Launch) (j : Nat) : Nat × Nat :=
  let t := j / 3
  (((l.row0 + t / l.cols) % 32) * 32 + (l.col0 + t % l.cols) % 32, j % 3)

/-- Number of cores of a launch, N of R35. -/
def Launch.cores (l : Launch) : Nat := 3 * (l.rows * l.cols)

/-- Sets a core's Circus mark for its launch (R43). -/
def State.setMark (s : State) (tid : Nat) : State :=
  match s.launchOf tid with
  | some id => s.updLaunch id (fun l =>
      let j := l.coreIndex (tileOf tid) (roleOf tid)
      if l.work.marks.contains j then l else { l with work := { l.work with marks := j :: l.work.marks } })
  | none => s

/-! ## SEND and channels -/

/-- The thread a core number names for a SEND of a thread (R171, R319). -/
def State.sendTargetOf (s : State) (tid : Nat) (v : Word) : Option Nat :=
  match parseCore v, s.partOf tid with
  | some (tile, role, slot), some p => ((s.part p).physSlot slot).map (tidOf tile role)
  | _, _ => none

def State.sendTarget (s : State) (v : Word) : Option Nat := s.sendTargetOf s.cur v

def sendOp (d : Reg) (dst v : Word) : Op Unit := do
  tenantOnly
  let s ← opGet
  match s.sendTarget dst with
  | none => opTrap 0x0E dst
  | some t =>
    if (Store.find s.sync.sends s.cur).isSome then opWait .sendEntry
    else opMod (fun s => { s with sync := { s.sync with
      sends := Store.put s.sync.sends s.cur { target := t, chan := d, value := v, pois := false } } }.setMark s.cur)

def execSend (d a b : Reg) (s : State) : Host.Outcome State Fault Refusal := runOp (sendOp d (s.reg a) (s.reg b)) s

/-- SEND_LANDING: a delivery lands while the target's presence is clear, and drains the sender's entry (R172). -/
def execSendLanding (sender : Nat) (s : State) : Host.Outcome State Fault Refusal :=
  .next (match Store.find s.sync.sends sender with
    | some x =>
      if (s.thread x.target).present x.chan.toNat then s
      else ({ s with sync := { s.sync with sends := Store.del s.sync.sends sender } }).updThread x.target
        (fun t => { t.setReg x.chan x.value with
          pois := if x.pois then t.pois ||| ((1 : BitVec 32) <<< x.chan.toNat) else (t.setReg x.chan x.value).pois })
    | none => s)

def execClrp (a : Reg) (s : State) : Host.Outcome State Fault Refusal := .next (s.updMe (·.setPresent a.toNat false))

def execWaitp (a : Reg) (s : State) : Host.Outcome State Fault Refusal :=
  .next (if s.me.present a.toNat then s else s.stall (.chan a.toNat))

def execTestp (d a : Reg) (s : State) : Host.Outcome State Fault Refusal :=
  .next (s.setReg d (if s.me.present a.toNat then 1 else 0))

/-! ## Sync and barrier words -/

/-- A member of the sync group: LocalAddr, alignment to 16, then the checks of Table 9.7 at the word's bank. -/
def syncOp (addr : Word) (d : Reg) (ord : MemOrd) (scope : Nat) (op : AccOp) : Op Unit := do
  let s ← opGet
  let key ← opOk (s.localAddr s.cur addr)
  opCheck (decide (key % 16 = 0)) 0x04 addr
  localOp key addr 16 op d ord scope

def execSwarm (a b : Reg) (s : State) : Host.Outcome State Fault Refusal :=
  runOp (syncOp (s.reg a) 0 .plain 0 (.swarm (s.reg b).toNat)) s

def execSwadd (a b : Reg) (p : Scope) (s : State) : Host.Outcome State Fault Refusal :=
  runOp (syncOp (s.reg a) 0 .rel p.num (.swadd (s.reg b).toNat)) s

def execSwwait (a b : Reg) (s : State) : Host.Outcome State Fault Refusal :=
  runOp (syncOp (s.reg a) 0 .plain 0 (.waitGen (s.reg b).toNat)) s

def execBwinit (a b : Reg) (s : State) : Host.Outcome State Fault Refusal :=
  runOp (syncOp (s.reg a) 0 .plain 0 (.bwinit (s.reg b).toNat)) s

def execBwarr (d a : Reg) (p : Scope) (s : State) : Host.Outcome State Fault Refusal :=
  runOp (syncOp (s.reg a) d .rel p.num .bwarr) s

def execBwwait (a b : Reg) (s : State) : Host.Outcome State Fault Refusal :=
  runOp (syncOp (s.reg a) 0 .plain 0 (.waitGen (s.reg b).toNat)) s

def execBwfree (a : Reg) (s : State) : Host.Outcome State Fault Refusal :=
  runOp (syncOp (s.reg a) 0 .plain 0 .bwfree) s

/-! ## Semaphores -/

/-- The physical number of the i-th of two resources per slot of a slot set (R28, R29). -/
def ordinalPair (slots : BitVec 16) (i : Nat) : Option Nat := (posOf slots (i / 2)).map (fun s => 2 * s + i % 2)

/-- The slot set of the launch in issue. -/
def State.mySlots (s : State) : BitVec 16 :=
  match (s.launchOf s.cur).bind s.launch with
  | some l => l.slots
  | none => 0

/-- The semaphore that an ordinal names, as its key; 0x05 for one the launch does not own (R177). -/
def semKey (v : Word) : Op Nat := do
  tenantOnly
  let s ← opGet
  match (if v.toNat < 2 * popOf s.mySlots then ordinalPair s.mySlots v.toNat else none) with
  | some n => pure (tileOf s.cur * 32 + n)
  | none => opTrap 0x05 v

def State.semCount (s : State) (key : Nat) : Nat := (Store.find s.sync.sems key).getD 0
def State.setSem (s : State) (key n : Nat) : State := { s with sync := { s.sync with sems := Store.put s.sync.sems key n } }
def State.semWaiters (s : State) (key : Nat) : List Nat := (Store.find s.sync.waiters key).getD []
def State.setWaiters (s : State) (key : Nat) (l : List Nat) : State :=
  { s with sync := { s.sync with waiters := if l = [] then Store.del s.sync.waiters key else Store.put s.sync.waiters key l } }

/-- What has reached a semaphore in this cycle; earlier cycles are over. -/
def State.semCycle (s : State) (key : Nat) : SemCycle :=
  match Store.find s.sync.recent key with
  | some r => if r.cycle = s.cycle then r else { cycle := s.cycle, taken := 0, missed := [] }
  | none => { cycle := s.cycle, taken := 0, missed := [] }

def State.setSemCycle (s : State) (key : Nat) (r : SemCycle) : State :=
  { s with sync := { s.sync with recent := Store.put s.sync.recent key r } }

/-- A SEMP or a SEMT takes one of a count that is not zero. -/
def State.semTake (s : State) (key : Nat) : State :=
  let r := s.semCycle key
  (s.setSem key (s.semCount key - 1)).setSemCycle key { r with taken := r.taken + 1 }

/-- A SEMP or a SEMT that finds a count of zero is noted for the V's of its cycle. -/
def State.semMiss (s : State) (key : Nat) (d : Option Reg) : State :=
  let r := s.semCycle key
  s.setSemCycle key { r with missed := r.missed ++ [(s.cur, d)] }

/-- One V: the first waiter of earlier cycles is granted, else the first SEMP or SEMT of this cycle that found nothing,
else the count rises to at most 65,535. Every V of a cycle comes before its SEMPs and SEMTs (R31, R178, Table 9.8). -/
def State.semV (s : State) (key : Nat) : State :=
  let r := s.semCycle key
  let ws := s.semWaiters key
  match ws.find? (fun t => !r.missed.contains (t, none)), r.missed with
  | some t, _ => (s.setWaiters key (ws.erase t)).unblock t (.semp (key / 32) (key % 32))
  | none, (t, some d) :: l =>
    (s.updThread t (·.setReg d 1)).setSemCycle key { r with taken := r.taken + 1, missed := l }
  | none, (t, none) :: l =>
    ((s.setWaiters key (ws.erase t)).unblock t (.semp (key / 32) (key % 32))).setSemCycle key
      { r with taken := r.taken + 1, missed := l }
  | none, [] => s.setSem key (Nat.min (s.semCount key + r.taken + 1) 65535 - r.taken)

def sempOp (v : Word) : Op Unit := do
  let key ← semKey v
  opMod (fun s =>
    if 0 < s.semCount key then s.semTake key
    else ((s.setWaiters key (s.semWaiters key ++ [s.cur])).semMiss key none).block s.cur (.semp (key / 32) (key % 32)))

def execSemp (a : Reg) (k : BitVec 5) (s : State) : Host.Outcome State Fault Refusal :=
  runOp (sempOp (s.reg a + k.setWidth 64)) s

def semvOp (v : Word) : Op Unit := do
  let key ← semKey v
  releaseWait
  opMod (·.semV key)

def execSemv (a : Reg) (k : BitVec 5) (s : State) : Host.Outcome State Fault Refusal :=
  runOp (semvOp (s.reg a + k.setWidth 64)) s

def semtOp (d : Reg) (v : Word) : Op Unit := do
  let key ← semKey v
  opMod (fun s =>
    if 0 < s.semCount key then (s.semTake key).setReg d 1 else (s.semMiss key (some d)).setReg d 0)

def execSemt (d a : Reg) (k : BitVec 5) (s : State) : Host.Outcome State Fault Refusal :=
  runOp (semtOp d (s.reg a + k.setWidth 64)) s

end Sys2Proof.Machine
end

