-- ==== Sys2Proof/Machine/Tenure.lean ====
section
/-! DEFINITION. Tenure: TACQ, TREL, TSPL, TDSC, TQRY and TFLS (R71 to R87, R169, R170) and the events of a home:
TENURE_REQUEST, TENURE_GRANT, RECALL, CONFLICT_REPORT, FORCED_PUBLISH and HALO_PUSH. -/

namespace Sys2Proof.Machine

/-! ## Result codes (Table 4.2) -/

inductive TenStatus where
  | done | held | notHeld | notWrite | noCover | noTile | busy
  deriving DecidableEq, Repr

def TenStatus.code : TenStatus → Word
  | .done => 0
  | .held => 1
  | .notHeld => 2
  | .notWrite => 3
  | .noCover => 4
  | .noTile => 5
  | .busy => 6

/-! ## Handles -/

/-- The tile number of a handle: 0 for the node itself, k + 1 for its implicit tile k. -/
def Target.tile (t : Target) : Nat :=
  match t.child with
  | some k => k + 1
  | none => 0

/-- A tenurable node (R71): a tensor, a tile array, or an implicit tile of one, and no host node (R346). -/
def State.tenurable (s : State) (t : Target) : Bool :=
  match s.node t.node with
  | some n => (n.kind = 2 || (n.kind = 1 && t.child.isNone)) && !s.maps.isHost t.node
  | none => false

/-- The handle checks: R59 for one byte at offset 0 (R71), then SUP at user level, which row 6 holds (R169). They come before
NOTILE, of a node that is not tenurable too (DESIGN CHOICE, log entry 74). -/
def handleOp (l : Word) : Op Target := do
  let (_, t) ← resolveOp l
  let s ← opGet
  match s.node t.node with
  | none => opTrap 0x06 l
  | some n => match accessCheck n t.child .load s.me.level.toNat l 0 1 with
    | some (c, v) => opTrap c v
    | none => pure t

/-- A holder's live record of a tile: of the same storage root and rectangle, whichever handle was acquired (R72, R77). -/
def State.ownTen (s : State) (h : Holder) (t : Target) : Option (Nat × Ten) :=
  s.tens.find? (fun x => x.2.live && decide (x.2.holder = h) && decide (x.2.root = storageRoot s.maps t.node)
    && decide (x.2.rect = rectOf s.maps t))

/-! ## Publishing (R81, R82) -/

/-- The scope at which a holder's release is performed: in a fused launch, core scope is tile scope (R11). -/
def Holder.scope (h : Holder) (scope : Nat) : Nat := if h.fused then Nat.max scope 1 else scope

/-- A scope at which a release leaves data in the holder's L1. -/
def narrowScope (h : Holder) (scope : Nat) : Bool := decide (scope = 0) || (h.fused && decide (scope = 1))

/-- Merges bytes over bytes. -/
def overlay (base top : Store Byte) : Store Byte := top.foldl (fun b p => Store.put b p.1 p.2) base

/-- Bytes go from an L1 to their home, which is charged to the root's virtual function (R82, R329). -/
def State.sendBack (s : State) (root : Nat) (l : List (Nat × Byte)) (pois : List Nat) : State :=
  let vf := match s.node root with
    | some n => n.vf
    | none => 256
  (s.writeBack root l pois).chargeBytes vf (l.map (fun p => (root, p.1))) true

/-- Publishes the data of a write record at a scope: it stays in the L1 as released data, or goes to the home. What lies in
a demoted page stays in the L1 until the page is back (DESIGN CHOICE, log entry 73). -/
def State.publish (s : State) (id : Nat) (t : Ten) (scope : Nat) : State :=
  let all := overlay t.held t.dirty
  let s0 := s.supersede t.root (fun o => (Store.find all o).isSome)
  let stays : Store Byte := if narrowScope t.holder scope then all else all.filter (fun p => s.demotedAt t.root p.1)
  let goes : Store Byte := if narrowScope t.holder scope then [] else all.filter (fun p => !s.demotedAt t.root p.1)
  let s1 := s0.sendBack t.root goes t.pois
  { s1 with tens := Store.put s1.tens id { t with dirty := [], held := stays, nscope := if stays = [] then none else
      match t.nscope with
      | some k => some (Nat.min k scope)
      | none => some scope } }

/-- Queues the halo push of a release: the bytes that it published, and their poisoned units (R81). Gives its number. -/
def State.queuePush (s : State) (root : Nat) (l : List (Nat × Byte)) (pois : List Nat) : State × Option Nat :=
  if l = [] then (s, none)
  else
    let s1 := s.dropPushes root (fun o => (Store.find l o).isSome)
    ({ s1 with pushes := Store.put s1.pushes s.next (root, l, pois), next := s.next + 1 }, some s.next)

/-- A record ends; released data that stayed in the L1 keeps it as a released record. -/
def State.endTen (s : State) (id scope : Nat) : State :=
  match Store.find s.tens id with
  | some t => if t.held = [] then { s with tens := Store.del s.tens id }
    else { s with tens := Store.put s.tens id { t with mode := .released scope, replica := [], recalled := false } }
  | none => s

/-- Data that a release or a discard must write to its home, at the offsets given, needs its pages there: a demoted one
raises 0x10 (DESIGN CHOICE, log entry 73). -/
def homeReadyOp (root : Nat) (offs : List Nat) : Op Unit := do
  let s ← opGet
  match offs.find? (s.demotedAt root) with
  | some o => opTrap 0x10 (word o)
  | none => pure ()

/-- The data that a release at a scope writes to the home. -/
def Ten.goingHome (x : Ten) (scope : Nat) : List Nat :=
  if x.mode = .write ∧ ¬ narrowScope x.holder scope then Store.keys (overlay x.held x.dirty) else []

/-! ## Members -/

def tacqOp (d : Reg) (l : Word) (scope : Scope) (write nowait : Bool) : Op Unit := do
  let s0 ← opGet
  let stubs := (resolve s0.maps (s0.mapOf s0.cur) l).stubs
  let t ← handleOp l
  let s ← opGet
  if s.tenurable t then
    let r : TenReq :=
      { tid := s.cur, label := l, root := storageRoot s.maps t.node, node := t.node, tile := t.tile
        rect := rectOf s.maps t, holder := s.holderOf s.cur, write := write, nowait := nowait, scope := scope.num
        dreg := d, stamp := s.me.restamp.getD s.cycle, queued := none, stubs := stubs, hold := Held.none, pc := s.me.pc
        left := s.me.left }
    opMod (fun s => ({ s with treqs := Store.put s.treqs s.next r, next := s.next + 1 }.block s.cur (.tenure s.next)).updMe
      (fun t => { t with restamp := none }))
  else mapReply l d TenStatus.noTile.code

def execTacq (d a : Reg) (p : Scope) (w nw : Bool) (s : State) : Host.Outcome State Fault Refusal :=
  atMap (farCall (.tacq d a p w nw) [s.reg a]) d (tacqOp d (s.reg a) p w nw) s

/-- TREL (R82). -/
def trelOp (d : Reg) (l : Word) (scope : Scope) : Op Unit := do
  releaseWait
  let t ← handleOp l
  let s ← opGet
  if !s.tenurable t then mapReply l d TenStatus.noTile.code
  else match s.ownTen (s.holderOf s.cur) t with
    | none => mapReply l d TenStatus.notHeld.code
    | some (id, x) => do
      let sc := x.holder.scope scope.num
      homeReadyOp x.root (x.goingHome sc)
      opMod (fun s =>
        let s1 := if x.mode = .write then s.publish id x sc else s
        let (s2, k) := s1.queuePush x.root (if x.mode = .write then overlay x.held x.dirty else []) x.pois
        (s2.endTen id sc).sendReply l d (some TenStatus.done.code) k)

def execTrel (d a : Reg) (p : Scope) (s : State) : Host.Outcome State Fault Refusal :=
  atMapRel (farCall (.trel d a p) [s.reg a]) d (trelOp d (s.reg a) p) s

/-- TFLS (R82): publishes and keeps the tenure. -/
def tflsOp (d : Reg) (l : Word) (scope : Scope) : Op Unit := do
  releaseWait
  let t ← handleOp l
  let s ← opGet
  if !s.tenurable t then mapReply l d TenStatus.noTile.code
  else match s.ownTen (s.holderOf s.cur) t with
    | none => mapReply l d TenStatus.notHeld.code
    | some (id, x) =>
      if x.mode = .write then do
        let sc := x.holder.scope scope.num
        homeReadyOp x.root (x.goingHome sc)
        opMod (fun s =>
          let (s1, k) := (s.publish id x sc).queuePush x.root (overlay x.held x.dirty) x.pois
          s1.sendReply l d (some TenStatus.done.code) k)
      else mapReply l d TenStatus.notWrite.code

def execTfls (d a : Reg) (p : Scope) (s : State) : Host.Outcome State Fault Refusal :=
  atMapRel (farCall (.tfls d a p) [s.reg a]) d (tflsOp d (s.reg a) p) s

/-- The children of a split (R79): implicit tiles, or the KIND 1 children on the parent's storage root. -/
def State.splitKids (s : State) (t : Target) : List Target :=
  match s.node t.node, t.child with
  | some n, none =>
    if n.kind = 2 then (List.range n.implicit).map (fun k => { node := t.node, child := some k })
    else (n.kids.filter (fun k => match s.node k.2 with
      | some c => decide (c.kind = 1) && decide (storageRoot s.maps k.2 = storageRoot s.maps t.node)
      | none => false)).map (fun k => { node := k.2, child := none })
  | _, _ => []

/-- Rectangles are pairwise disjoint. -/
def disjoint : List Rect → Bool
  | [] => true
  | r :: rs => rs.all (fun x => !r.meets x) && disjoint rs

/-- A rectangle lies in another. -/
def Rect.within (a b : Rect) : Bool :=
  (List.zip (List.zip a.org a.ext) (List.zip b.org b.ext)).all
    (fun p => decide (p.2.1 ≤ p.1.1) && decide (p.1.1 + p.1.2 ≤ p.2.1 + p.2.2))

/-- Disjoint rectangles within another and with its number of elements tile it (R79). -/
def covers (r : Rect) (ks : List Rect) : Bool :=
  disjoint ks && ks.all (·.within r) && decide (ks.foldl (fun n k => n + k.size) 0 = r.size)

/-- The bytes of a record's data that lie in a rectangle. -/
def State.bytesIn (s : State) (root : Nat) (r : Rect) (b : Store Byte) : Store Byte :=
  b.filter (fun p => s.rectHasByte root r p.1)

/-- The halo of an implicit tile as index vectors: the array's elements outside its rectangle and within HALO of it along
every dimension (R80). -/
def Node.haloRect (n : Node) (base : List Nat) (r : Rect) : Rect :=
  let w := n.halo
  let lo := List.zipWith (fun o b => Nat.max b (o - w)) r.org base
  let hi := (List.zip (List.zip r.org r.ext) (List.zip base n.dims)).map (fun p => Nat.min (p.2.1 + p.2.2) (p.1.1 + p.1.2 + w))
  { org := lo, ext := List.zipWith (· - ·) hi lo }

/-- The replica bytes that tenure on a tile of a node carries: its halo as of each neighbour's last release or publish
(R81). A byte of a demoted page is no part of it: a load of it goes to the home, and traps with 0x10 until the page is back
(DESIGN CHOICE, log entry 73). -/
def State.haloBytes (s : State) (root node tile : Nat) (r : Rect) : Store Byte :=
  match s.node node with
  | some n =>
    if n.kind = 2 ∧ tile ≠ 0 ∧ n.halo ≠ 0 then
      let whole := rectOf s.maps { node := node, child := none }
      let outer := n.haloRect whole.org r
      let at_ (o : Nat) : Option Byte := (s.tensAt root o).findSome? (fun x => Store.find x.2.held o)
      let bytes := (s.rectBytes root outer).filter (fun o => !s.rectHasByte root r o && ((at_ o).isSome || !s.demotedAt root o))
      bytes.foldl (fun b o => Store.put b o ((at_ o).getD (s.homeByte root o))) []
    else []
  | none => []

/-- The poisoned units of a replica (R359). -/
def State.haloPois (s : State) (root : Nat) (bytes : Store Byte) : List Nat :=
  addUnits [] ((bytes.filter (fun p => match (s.tensAt root p.1).find? (fun x => (Store.find x.2.held p.1).isSome) with
    | some x => x.2.bad p.1
    | none => s.homePoisoned root p.1)).map (fun p => p.1 / 64))

/-- A live record of a tile: of its storage root and its rectangle, whichever handle it was acquired by (R72, R79). -/
def State.tileHeld (s : State) (k : Target) : Bool :=
  s.tens.any (fun x => x.2.live && decide (x.2.root = storageRoot s.maps k.node) && decide (x.2.rect = rectOf s.maps k))

/-- A child record of a split node is left: one of its children is held, or is itself split and has one left (R79); by fuel,
one for each level of the tree. -/
def State.childLeft (s : State) (node : Nat) : Nat → Bool
  | 0 => false
  | f + 1 => (s.splitKids { node := node, child := none }).any (fun k =>
      s.tileHeld k || (k.child.isNone && s.splits.contains k.node && s.childLeft k.node f))

/-- The split marks whose last child record has ended go (R79). -/
def State.pruneSplits (s : State) : State := { s with splits := s.splits.filter (fun n => s.childLeft n 8) }

/-- The write record that a split gives its holder on a child. The child's halo is as of the neighbours' last release or
publish, the parent's own among them (R79, R81); NSCOPE is the parent's where released data of its own is left, else 7
(DEDUCED, log entry 15). -/
def State.splitTen (s : State) (x : Ten) (k : Target) : Ten :=
  let r := rectOf s.maps k
  let replica := s.haloBytes x.root k.node k.tile r
  { x with
    node := k.node, tile := k.tile, rect := r
    dirty := s.bytesIn x.root r x.dirty, held := s.bytesIn x.root r x.held
    nscope := if s.bytesIn x.root r x.held = [] then none else x.nscope
    replica := replica, pois := addUnits x.pois (s.haloPois x.root replica)
    slice := s.homeSlice x.root r, resv := s.reservations x.root r }

/-- TSPL (R79). -/
def tsplOp (d : Reg) (l : Word) : Op Unit := do
  let t ← handleOp l
  let s ← opGet
  if !s.tenurable t then mapReply l d TenStatus.noTile.code
  else match s.ownTen (s.holderOf s.cur) t with
    | none => mapReply l d TenStatus.notHeld.code
    | some (id, x) =>
      if x.mode ≠ .write then mapReply l d TenStatus.notWrite.code
      else
        let kids := s.splitKids t
        if !covers x.rect (kids.map (rectOf s.maps)) then mapReply l d TenStatus.noCover.code
        else do
          opMod (fun s =>
            let s1 := { s with tens := Store.del s.tens id, splits := t.node :: s.splits.filter (fun n => decide (n ≠ t.node)) }
            (kids.foldl (fun u k => { u with tens := Store.put u.tens u.next (s.splitTen x k), next := u.next + 1 }) s1).pruneSplits)
          mapReply l d TenStatus.done.code

def execTspl (d a : Reg) (s : State) : Host.Outcome State Fault Refusal := atMap (farCall (.tspl d a) [s.reg a]) d (tsplOp d (s.reg a)) s

/-- Step 1 and 2 of a discard on one record: other holders' read tenures are revoked, data and replicas in the
rectangle are dropped (R85). A release none of whose data is left has nothing unpublished, so NSCOPE reads 7 (DEDUCED,
log entry 15). -/
def State.discardTen (s : State) (h : Holder) (root : Nat) (r : Rect) (x : Ten) : Ten :=
  if x.root ≠ root then x
  else
    let out (b : Store Byte) : Store Byte := b.filter (fun p => !s.rectHasByte root r p.1)
    let x1 := { x with dirty := out x.dirty, held := out x.held
                       nscope := if out x.held = [] then none else x.nscope
                       replica := if x.holder = h then x.replica else out x.replica
                       pois := x.pois.filter (fun u => !(List.range 64).all (fun i => s.rectHasByte root r (u * 64 + i))) }
    if x.mode = .read ∧ x.holder ≠ h ∧ x.rect.meets r then { x1 with mode := .revoked, replica := [] } else x1

/-- TDSC (R85). -/
def tdscOp (d : Reg) (l : Word) : Op Unit := do
  releaseWait
  let t ← handleOp l
  let s ← opGet
  let h := s.holderOf s.cur
  let root := storageRoot s.maps t.node
  let r := rectOf s.maps t
  if !s.tenurable t then mapReply l d TenStatus.noTile.code
  else if s.tens.any (fun x => decide (x.2.mode = .write) && decide (x.2.root = root) && decide (x.2.holder ≠ h)
      && x.2.rect.meets r) then opTrap 0x0A (Config.tenureValue l 0)
  else do
    homeReadyOp root (s.rectBytes root r)
    opMod (fun s =>
      let ts := (s.tens.map (fun (x : Nat × Ten) => (x.1, s.discardTen h root r x.2))).filter (fun x => x.2.keeps)
      let s1 := ({ s with tens := ts }).dropPushes root (fun o => s.rectHasByte root r o)
      s1.sendBack root ((s.rectBytes root r).map (fun o => (o, 0))) [])
    mapReply l d TenStatus.done.code

def execTdsc (d a : Reg) (p : Scope) (s : State) : Host.Outcome State Fault Refusal :=
  atMapRel (farCall (.tdsc d a p) [s.reg a]) d (tdscOp d (s.reg a)) s

/-- The number of different holders among some records. -/
def holderCount (xs : List Ten) : Nat :=
  (xs.foldl (fun (l : List Holder) x => if l.contains x.holder then l else x.holder :: l) []).length

/-- The word of TQRY (Table 4.1). A tile reports every tenure of its storage root that overlaps it, whichever handle that
was acquired by. DESIGN CHOICE, log entry 68. -/
def State.tenWord (s : State) (h : Holder) (t : Target) : Word :=
  let root := storageRoot s.maps t.node
  let r := rectOf s.maps t
  let cover := (s.tens.filter (fun x => decide (x.2.root = root) && x.2.rect.meets r)).map (·.2)
  let readers := holderCount (cover.filter (fun x => decide (x.mode = .read)))
  let writer := cover.find? (fun x => decide (x.mode = .write))
  let own := cover.filter (fun x => decide (x.holder = h))
  let revoked := own.any (fun x => decide (x.mode = .revoked)) && !own.any Ten.live
  let split := t.child.isNone && s.splits.contains t.node && s.childLeft t.node 8
  let state := if revoked then 4 else if split then 3 else if writer.isSome then 2 else if readers ≠ 0 then 1 else 0
  let nsc := cover.foldl (fun k x => match x.nscope with
    | some q => Nat.min k q
    | none => k) 7
  let who := match state, writer with
    | 2, some w => w.who.toNat
    | _, _ => 0
  let rec' := if own.any (fun x => x.live && x.recalled) then 16 else 0
  word (who * 2 ^ 32 + Nat.min readers 255 * 2 ^ 8 + nsc * 2 ^ 5 + rec' + state)

def tqryOp (d : Reg) (l : Word) : Op Unit := do
  let t ← handleOp l
  let s ← opGet
  mapReply l d (if s.tenurable t then s.tenWord (s.holderOf s.cur) t else TenStatus.noTile.code)

def execTqry (d a : Reg) (s : State) : Host.Outcome State Fault Refusal := atMap (farCall (.tqry d a) [s.reg a]) d (tqryOp d (s.reg a)) s

/-! ## The home -/

/-- A record that a request conflicts with (R76, R78): any overlapping tenure when either is for write, but not the
requester's own tenure of the same tile, which an upgrade or HELD acts on. -/
def TenReq.conflicts (q : TenReq) (x : Ten) : Bool :=
  x.live && decide (x.root = q.root) && x.rect.meets q.rect && (q.write || decide (x.mode = .write))
    && !(decide (x.holder = q.holder) && decide (x.rect = q.rect))

/-- Two requests conflict. -/
def TenReq.clashes (q p : TenReq) : Bool :=
  decide (q.root = p.root) && q.rect.meets p.rect && (q.write || p.write)

/-- Released data of another holder must reach the home before the grant (R83). -/
def State.stalePeers (s : State) (q : TenReq) : Bool :=
  s.tens.any (fun x => decide (x.2.root = q.root) && x.2.rect.meets q.rect && decide (x.2.holder ≠ q.holder)
    && s.owes x.2)

/-- The acknowledged stores that lie in a request's rectangle are performed before it is granted (R76, R84). -/
def State.storesFirst (s : State) (q : TenReq) : State :=
  s.performStores (fun b => decide (b.1 = q.root) && s.rectHasByte q.root q.rect b.2)

/-- Nothing conflicts with a request, given its place in the queue (R76). -/
def State.unopposed (s : State) (id : Nat) (q : TenReq) : Bool :=
  !s.tens.any (fun x => q.conflicts x.2)
    && !s.treqs.any (fun p => decide (p.1 ≠ id) && p.2.clashes q && (match p.2.queued, q.queued with
        | some a, some b => decide (a < b)
        | some _, none => true
        | none, _ => false))

/-- A release of data in a request's rectangle is not over: its halo push still travels (R81). -/
def State.pushOpen (s : State) (q : TenReq) : Bool :=
  s.pushes.any (fun p => decide (p.2.1 = q.root) && p.2.2.1.any (fun b => s.rectHasByte q.root q.rect b.1))

/-- A grant waits for a forced publish or for a halo push (R81, R83). -/
def State.grantHeld (s : State) (q : TenReq) : Bool := s.stalePeers q || s.pushOpen q

/-- A request can be granted now (R76, R81, R83). -/
def State.grantable (s : State) (id : Nat) (q : TenReq) : Bool := s.unopposed id q && !s.grantHeld q

/-- Ends a request with a status: the reply writes the register and returns the thread. -/
def State.tenReply (s : State) (id : Nat) (q : TenReq) (st : TenStatus) : State :=
  (({ s with treqs := Store.del s.treqs id }.unblock q.tid (.tenure id)).settleHeld q.tid q.hold).updThread q.tid
    (·.setReg q.dreg st.code)

/-- Ends a request with a trap: no tenure is granted. -/
def State.tenTrap (s : State) (id : Nat) (q : TenReq) (c : Nat) (v : Word) : State :=
  ({ s with treqs := Store.del s.treqs id }.unblock q.tid (.tenure id)).answerTrap q.tid id q.hold q.pc q.left c v

/-- The holder already holds this tile in this mode, or for write (R77, R78). -/
def State.alreadyHeld (s : State) (q : TenReq) : Bool :=
  s.tens.any (fun x => decide (x.2.holder = q.holder) && decide (x.2.root = q.root) && decide (x.2.rect = q.rect)
    && (decide (x.2.mode = .write) || (decide (x.2.mode = .read) && !q.write)))

/-- The narrowest scope that some records note, for a holder that has released data again in hand (R77, Table 4.1). -/
def noteScope (xs : List Ten) : Option Nat :=
  xs.foldl (fun r x => match r, x.nscope with
    | some a, some b => some (Nat.min a b)
    | none, y | y, none => y) none

/-- Grants a request: HELD where another thread of the holder was granted the tile meanwhile; an upgrade turns the read
record into the write record; otherwise a new record, which takes over data the holder itself released and still has
(R77, R78, R81). DEDUCED, log entry 60. -/
def State.grant (s0 : State) (id : Nat) (q : TenReq) : State :=
  let s := (s0.storesFirst q).pruneSplits
  if s.alreadyHeld q then s.tenReply id q .held else
  let who := s.coreWord q.tid
  let same := s.tens.filter (fun x => decide (x.2.root = q.root) && decide (x.2.holder = q.holder) && decide (x.2.rect = q.rect))
  match same.find? (fun x => decide (x.2.mode = .read)) with
  | some (k, x) =>
    ({ s with tens := Store.put s.tens k { x with mode := .write, who := who, recalled := false } }).tenReply id q .done
  | none =>
    let old := same.foldl (fun h x => overlay h x.2.held) []
    let replica := s.haloBytes q.root q.node q.tile q.rect
    let t : Ten :=
      { root := q.root, node := q.node, tile := q.tile, rect := q.rect, holder := q.holder
        mode := if q.write then .write else .read, who := who, recalled := false, dirty := [], held := old
        nscope := if old = [] then none else noteScope (same.map (·.2)), replica := replica
        pois := addUnits (s.haloPois q.root replica) (same.flatMap (fun x => x.2.pois))
        slice := s.homeSlice q.root q.rect, resv := s.reservations q.root q.rect }
    let tens := s.tens.filter (fun x => !same.any (fun y => decide (y.1 = x.1)))
    ({ s with tens := Store.put tens s.next t, next := s.next + 1 }).tenReply id q .done

/-- A request's handle is resolved again where it arrives, and where it is granted, and meets R71's checks there (R71, R87,
R168): the request for the tile that it names now, none for a node that is no tile, or the trap; stubs not counted yet are. -/
def State.requestResolve (s : State) (q : TenReq) : State × Except (Nat × Word) (Option TenReq) :=
  let r := resolve s.maps (s.mapOf q.tid) q.label
  let new := r.stubs.filter (fun i => !q.stubs.contains i)
  let s1 := { s with maps := s.maps.countHits new }
  (s1, match r.result with
    | .error e => .error e
    | .ok (_, t) => match (s1.node t.node).bind (fun n => accessCheck n t.child .load (s.thread q.tid).level.toNat q.label 0 1) with
      | some e => .error e
      | none => .ok (if s1.tenurable t then
          some { q with node := t.node, tile := t.tile, root := storageRoot s1.maps t.node, rect := rectOf s1.maps t
                        stubs := q.stubs ++ new }
        else none))

/-- TENURE_REQUEST: a request arrives at its home and is answered, or queued in order of arrival (R76, R77); its bundle's
vector slot waits no longer (R188). A no-wait request waits for a forced publish or a halo push only (R81, R83). -/
def execTenureRequest (id : Nat) (s : State) : Host.Outcome State Fault Refusal :=
  .next (match Store.find s.treqs id with
    | none => s
    | some q =>
      if q.queued.isSome then s
      else match s.requestResolve q with
        | (s1, .error (c, v)) => s1.tenTrap id q c v
        | (s1, .ok none) => s1.tenReply id q .noTile
        | (s1, .ok (some q1)) =>
          if s1.alreadyHeld q1 then s1.tenReply id q1 .held
          else if q.nowait then
            (if ¬ s1.unopposed id q1 then s1.tenReply id q1 .busy
             else if s1.grantHeld q1 then { s1 with treqs := Store.put s1.treqs id q1 }
             else s1.grant id q1)
          else
            let (s2, h) := s1.freeVector q.tid id q.hold
            { s2 with treqs := Store.put s2.treqs id { q1 with queued := some s2.next, hold := h }, next := s2.next + 1 })

/-- TENURE_GRANT: a queued request that has become grantable is granted, if its handle still leads to a tile (R76, R168). -/
def execTenureGrant (id : Nat) (s : State) : Host.Outcome State Fault Refusal :=
  .next (match Store.find s.treqs id with
    | some q =>
      if q.queued.isNone then s
      else match s.requestResolve q with
        | (s1, .error (c, v)) => s1.tenTrap id q c v
        | (s1, .ok none) => s1.tenReply id q .noTile
        | (s1, .ok (some q1)) => if s1.grantable id q1 then s1.grant id q1 else { s1 with treqs := Store.put s1.treqs id q1 }
    | none => s)

/-- A queued write request overlaps a read tenure that it must not wait beside (R76). -/
def State.recallDue (s : State) (x : Ten) : Bool :=
  decide (x.mode = .read) && !x.recalled
    && s.treqs.any (fun q => q.2.queued.isSome && q.2.write && q.2.conflicts x)

/-- RECALL: a recall reaches a read holder and sets RECALLED (R76). -/
def execRecall (id : Nat) (s : State) : Host.Outcome State Fault Refusal :=
  .next (match Store.find s.tens id with
    | some x => if s.recallDue x then { s with tens := Store.put s.tens id { x with recalled := true } } else s
    | none => s)

/-- A request that a recalled read tenure of another request's holder blocks, while the two requests conflict (R86); the two
may be of one holder, on tiles that overlap. -/
def State.blocksWith (s : State) (q p : TenReq) : Bool :=
  p.write && q.clashes p && s.tens.any (fun x => decide (x.2.mode = .read) && x.2.recalled && decide (x.2.holder = q.holder)
    && p.conflicts x.2)

/-- The earlier of two requests by stamp, then by core number (R86). -/
def TenReq.wins (a b : TenReq) (ca cb : Nat) : Bool := decide (a.stamp < b.stamp) || (decide (a.stamp = b.stamp) && decide (ca < cb))

/-- A tenure that the settlement of a conflict takes from its loser; not the one that the winner upgrades. -/
def Ten.loses (x : Ten) (w l : TenReq) : Bool :=
  decide (x.mode = .read) && decide (x.holder = l.holder) && decide (x.root = w.root) && x.rect.meets w.rect
    && !(decide (x.holder = w.holder) && decide (x.rect = w.rect))

/-- The loser's tenures that overlap the winner's request are revoked; its request goes to the tail with its stamp. A
conflict that has been settled stays so: nothing of the loser stands before the winner any more. -/
def State.settle (s : State) (w : TenReq) (lid : Nat) (l : TenReq) : State :=
  if ¬ s.tens.any (fun x => x.2.loses w l) ∧ w.queued.getD 0 < l.queued.getD 0 then s
  else
    { s with
      tens := s.tens.map (fun (x : Nat × Ten) =>
        if x.2.loses w l then (x.1, { x.2 with mode := .revoked, replica := [] }) else x)
      treqs := Store.put s.treqs lid { l with queued := some s.next }
      next := s.next + 1 }

/-- CONFLICT_REPORT: a holder whose read tenure is recalled by a request that conflicts with its own pending one reports,
and the home settles the two (R86). -/
def execConflictReport (ia ib : Nat) (s : State) : Host.Outcome State Fault Refusal :=
  .next (match Store.find s.treqs ia, Store.find s.treqs ib with
    | some a, some b =>
      if ia ≠ ib ∧ a.queued.isSome ∧ b.queued.isSome ∧ (s.blocksWith a b ∨ s.blocksWith b a) then
        (if a.wins b (s.coreWord a.tid).toNat (s.coreWord b.tid).toNat then s.settle a ib b else s.settle b ia a)
      else s
    | _, _ => s)

/-- The operations of an access that read the bytes that they name. -/
def AccOp.reads (op : AccOp) : Bool :=
  match op with
  | .load _ | .amo _ _ _ | .cas _ _ => true
  | _ => false

/-- A thread's acquire asks for data that a record of another holder released narrowly: a queued TACQ, a no-wait one, or a
read that has been sent and is served at the home (R83, R84). -/
def State.publishDue (s : State) (x : Ten) : Bool :=
  s.treqs.any (fun q => (q.2.queued.isSome || q.2.nowait) && decide (q.2.root = x.root) && q.2.rect.meets x.rect
      && decide (q.2.holder ≠ x.holder))
    || s.accs.any (fun a => decide (a.2.state = .sent) && a.2.op.reads && decide (a.2.holder ≠ x.holder)
      && (s.placeBytes a.2.place a.2.n).any (fun b => decide (b.1 = x.root) && s.rectHasByte x.root x.rect b.2
        && s.readsHome a.2.holder b.1 b.2))

/-- The holder writes its released data to the home, but for what lies in a demoted page; a record that only held such data
is cleared. -/
def State.forcePublish (s : State) (id : Nat) (x : Ten) : State :=
  let stays : Store Byte := x.held.filter (fun p => s.demotedAt x.root p.1)
  let s1 := s.sendBack x.root (x.held.filter (fun p => !s.demotedAt x.root p.1)) x.pois
  let x1 := { x with held := stays, nscope := if stays = [] then none else x.nscope }
  if x1.keeps then { s1 with tens := Store.put s1.tens id x1 } else { s1 with tens := Store.del s1.tens id }

/-- HALO_PUSH: refreshed strips reach the replicas that carry them; a replica that has ended drops them (R81). -/
def execHaloPush (id : Nat) (s : State) : Host.Outcome State Fault Refusal :=
  .next (match Store.find s.pushes id with
    | some (root, l, pois) => { s.pushBytes root l pois with pushes := Store.del s.pushes id }
    | none => s)

end Sys2Proof.Machine
end

