-- ==== Sys2Proof/Machine/Tasks.lean ====
section
/-! DEFINITION. Tasks, migration and phases (R34 to R41, R179 to R186), and their events: TAKE_WORK, CONTEXT_ARRIVAL,
CONTEXT_ANSWER and PHASE_COUNT_MESSAGE. -/

namespace Sys2Proof.Machine

/-! ## The hardware's own accesses to label memory -/

/-- The holder of no tenure: the hardware's own accesses are untenured. -/
def noHolder : Holder := { fused := false, unit := 0, launch := 0 }

/-- The value of a failed hardware access (R40): the label for the causes of R59, a redirect that fails among them, and the
byte offset for the page causes, poison among them; for any other cause its own. -/
def spillValue (c : Nat) (l off v : Word) : Word :=
  if 0x10 ≤ c ∧ c ≤ 0x13 then off else if c = 0x0A ∨ c = 0x0D then v else l

/-- Records whose released data lies at some bytes publish it: an access of the hardware itself asks for it (R83). -/
def State.publishAt (s : State) (at_ : List (Nat × Nat)) : State :=
  s.tens.foldl (fun s x => if at_.any (fun p => decide (p.1 = x.2.root) && s.rectHasByte x.2.root x.2.rect p.2) && s.owes x.2 then
    s.forcePublish x.1 x.2 else s) s

/-- Reads `n` bytes of a label node for the hardware, with whether they are poisoned, on behalf of a thread: in its virtual
function's map and at its privilege level, which the spec leaves open for the spill area (DESIGN CHOICE, log entry 68). -/
def State.readLabelCell (s : State) (tid : Nat) (l : Word) (off n : Nat) : State × Except (Nat × Word) (Nat × Bool) :=
  match s.translate tid .load l (word off) n with
  | (s1, .error (c, v)) => (s1, .error (c, spillValue c l (word off) v))
  | (s1, .ok t) =>
    let at_ := s1.bytesOf t off n
    let s2 := (s1.publishAt at_).chargeHome tid at_ false
    (s2, .ok (leNat (at_.map (fun p => s2.seenByte noHolder p.1 p.2)), at_.any (fun p => s2.bytePoisoned noHolder p.1 p.2)))

/-- The same where poison fails the access (R40). -/
def State.readLabel (s : State) (tid : Nat) (l : Word) (off n : Nat) : State × Except (Nat × Word) Nat :=
  match s.readLabelCell tid l off n with
  | (s1, .ok (v, false)) => (s1, .ok v)
  | (s1, .ok (_, true)) => (s1, .error (0x13, word off))
  | (s1, .error e) => (s1, .error e)

/-- Writes `n` bytes of a label node for the hardware; poisoned data poisons its unit (R359). -/
def State.writeLabel (s : State) (tid : Nat) (l : Word) (off n v : Nat) (bad : Bool) : State × Except (Nat × Word) Unit :=
  match s.translate tid .store l (word off) n with
  | (s1, .error (c, x)) => (s1, .error (c, spillValue c l (word off) x))
  | (s1, .ok t) =>
    let at_ := s1.bytesOf t off n
    match s1.atHome noHolder at_ l (word off) n (.store v) with
    | .done s2 _ _ => ((if bad then s2.homePoison at_ true else s2).chargeHome tid at_ true, .ok ())
    | .trap c x => (s1, .error (c, spillValue c l (word off) x))
    | .later _ => (s1, .ok ())

/-- Writes 64-bit words from an offset up, each with whether it is poisoned. -/
def State.writeLabelWords (s : State) (tid : Nat) (l : Word) (off : Nat) : List (Word × Bool) → State × Except (Nat × Word) Unit
  | [] => (s, .ok ())
  | w :: ws => match s.writeLabel tid l off 8 w.1.toNat w.2 with
    | (s1, .ok _) => s1.writeLabelWords tid l (off + 8) ws
    | (s1, .error e) => (s1, .error e)

/-- Reads `k` 64-bit words from an offset up, each with whether it is poisoned. -/
def State.readLabelCells (s : State) (tid : Nat) (l : Word) (off : Nat) : Nat → State × Except (Nat × Word) (List (Word × Bool))
  | 0 => (s, .ok [])
  | k + 1 => match s.readLabelCell tid l off 8 with
    | (s1, .ok v) => match s1.readLabelCells tid l (off + 8) k with
      | (s2, .ok ws) => (s2, .ok ((word v.1, v.2) :: ws))
      | (s2, .error e) => (s2, .error e)
    | (s1, .error e) => (s1, .error e)

/-- Reads `k` 64-bit words from an offset up, none of them poisoned. -/
def State.readLabelWords (s : State) (tid : Nat) (l : Word) (off : Nat) : Nat → State × Except (Nat × Word) (List Word)
  | 0 => (s, .ok [])
  | k + 1 => match s.readLabel tid l off 8 with
    | (s1, .ok v) => match s1.readLabelWords tid l (off + 8) k with
      | (s2, .ok ws) => (s2, .ok (word v :: ws))
      | (s2, .error e) => (s2, .error e)
    | (s1, .error e) => (s1, .error e)

/-! ## Deques -/

def Launch.deque (l : Launch) (j : Nat) : List TaskRec := (Store.find l.work.deques j).getD []
def Launch.setDeque (l : Launch) (j : Nat) (q : List TaskRec) : Launch :=
  { l with work := { l.work with deques := Store.put l.work.deques j q } }
/-- The launch's deque share on one core: four records a slot (R28). -/
def Launch.dequeCap (l : Launch) : Nat := 4 * popOf l.slots

/-- The record dealt for a slice (R35). -/
def Launch.sliceRec (l : Launch) (j i : Nat) : TaskRec :=
  let (tile, role) := l.coreOfIndex j
  { entry := l.entry, arg0 := l.arg0, arg1 := l.arg1, sync := 0, slice := BitVec.ofNat 32 i, stolen := false
    origin := coreNumber tile role 0 }

/-- The dispatcher fills a deque's free places with the next waiting slices (R35), by fuel. -/
def Launch.refill (l : Launch) (j : Nat) : Nat → Launch
  | 0 => l
  | f + 1 =>
    if l.dequeCap ≤ (l.deque j).length then l
    else match (Store.find l.work.dealt j).getD [] with
      | [] => l
      | i :: is =>
        let l1 := l.setDeque j (l.deque j ++ [l.sliceRec j i])
        ({ l1 with work := { l1.work with dealt := Store.put l1.work.dealt j is } }).refill j f

/-- Takes a record from the bottom or the top of a deque; the dispatcher then refills it. -/
def Launch.takeBottom (l : Launch) (j : Nat) : Option (TaskRec × Launch) :=
  match (l.deque j).getLast? with
  | some r => some (r, (l.setDeque j (l.deque j).dropLast).refill j 64)
  | none => none

def Launch.takeTop (l : Launch) (j : Nat) : Option (TaskRec × Launch) :=
  match l.deque j with
  | r :: rs => some (r, (l.setDeque j rs).refill j 64)
  | [] => none

/-- The launch of the thread in issue with its number. -/
def myLaunch : Op (Nat × Launch) := do
  let s ← opGet
  match s.launchOf s.cur with
  | some id => match s.launch id with
    | some l => pure (id, l)
    | none => opTrap 0x02 0
  | none => opTrap 0x02 0

def myIndex (l : Launch) (tid : Nat) : Nat := l.coreIndex (tileOf tid) (roleOf tid)

def dqpushOp (d : Reg) (addr : Word) : Op Unit := do
  tenantOnly
  let key ← recordOp addr 16 32
  let s ← opGet
  let w (i : Nat) : Word := word (s.spadRead (key + 8 * i) 8)
  opCheck (decide ((w 0).toNat < 2 ^ 40) && decide ((w 0).toNat % 8 = 0)) 0x0C (Config.trapValue 1 addr (w 0))
  releaseWait
  let (id, l) ← myLaunch
  let j := myIndex l s.cur
  if l.dequeCap ≤ (l.deque j).length then opMod (·.setReg d 1)
  else do
    let r : TaskRec := { entry := w 0, arg0 := w 1, arg1 := w 2, sync := w 3, slice := s.me.slice, stolen := false
                         origin := s.coreWord s.cur }
    opMod (fun s => (s.updLaunch id (fun l => l.setDeque j (l.deque j ++ [r]))).setReg d 0)

def execDqpush (d a : Reg) (s : State) : Host.Outcome State Fault Refusal := runOp (dqpushOp d (s.reg a)) s

def dqpopOp (d : Reg) : Op Unit := do
  tenantOnly
  let (id, l) ← myLaunch
  let s ← opGet
  let j := myIndex l s.cur
  match l.takeBottom j with
  | some (r, l1) =>
    if r.slice = s.me.slice then
      opMod (fun s => (((((s.updLaunch id (fun _ => l1)).setReg d 1).setReg 1 r.arg0).setReg 2 r.arg1).setReg 3 r.entry).setReg
        4 r.sync)
    else opMod (·.setReg d 0)
  | none => opMod (·.setReg d 0)

def execDqpop (d : Reg) (s : State) : Host.Outcome State Fault Refusal := runOp (dqpopOp d) s

/-! ## EXIT, YIELD and migration -/

/-- A sweep or a matrix operation of the thread has not finished. -/
def Thread.vectorBusy (t : Thread) : Bool :=
  t.waits.any (fun w => match w with
    | .sweep _ | .matrix _ => true
    | _ => false)

/-- EXIT, YIELD, MIGR and MIGRC first wait until the thread's sweeps and matrix operations have finished (R183, R185). -/
def vectorWait : Op Unit := do
  let s ← opGet
  match s.me.waits.find? (fun w => match w with
    | .sweep _ | .matrix _ => true
    | _ => false) with
  | some w => opWait w
  | none => pure ()

/-- The thread holds no work any more and takes work when TAKE_WORK comes to it (R36). -/
def State.endTask (s : State) (tid : Nat) : State := s.updThread tid (fun t => { t with work := false, waits := [], left := 0 })

def exitOp : Op Unit := do
  tenantOnly
  vectorWait
  let s ← opGet
  let task := s.me.task
  if task = 0 then pure ()
  else do
    let key ← opOk (s.localAddr s.cur task)
    opCheck (decide (key % 16 = 0)) 0x04 task
    opCheck (s.tagged key) 0x0C task
    opCheck (!s.spadPoisoned key 16) 0x13 (Config.poisonValue task)
    opCheck (s.swAddOk key) 0x0C task
    releaseWait
    opMod (fun s => (s.swAdd key 1).chargeSpad s.cur [key])
  opMod (fun s => { s.endTask s.cur with iss := { s.iss with moved := true } })

def execExit (s : State) : Host.Outcome State Fault Refusal := runOp exitOp s

/-- The LIVE field of the block that a bundle lies in, where control entered it past its header: the header is the nearest
word back with the header tag whose block ends where this one does, `k` bundles back (R109). DEDUCED, log entry 24. -/
def State.liveBack (s : State) (tid : Nat) (code pc : Word) (left k : Nat) : Nat → BitVec 16
  | 0 => 0xFFFF
  | f + 1 =>
    match s.peekCode tid code (pc.toNat - 8 * k) with
    | some w =>
      if hdrTag w = 0x3F ∧ (hdrLen w).toNat + 1 = k + left then hdrLive w else s.liveBack tid code pc left (k + 1) f
    | none => 0xFFFF

/-- The LIVE field of the current block's header (R109, R185). -/
def State.liveOf (s : State) (tid : Nat) : BitVec 16 :=
  let t := s.thread tid
  t.live.getD (s.liveBack tid t.code t.pc t.left 1 255)

/-- The bundles from a place to the end of its block, 0 for a header: a spill slot holds no LEFT (Table 2.6), so the
block of a context that comes back is the one whose header is the nearest word back with the header tag, and 0 where
that code cannot be read (R110; DESIGN CHOICE, log entry 74). -/
def State.leftAt (s : State) (tid : Nat) (code pc : Word) (k : Nat) : Nat → Nat
  | 0 => 0
  | f + 1 =>
    match s.peekCode tid code (pc.toNat - 8 * k) with
    | some w =>
      if hdrTag w = 0x3F then (if k = 0 then 0 else (hdrLen w).toNat + 1 - k) else s.leftAt tid code pc (k + 1) f
    | none => 0

/-- Sends the thread's context to a core of its launch and holds the slot until the answer (R37). Its acknowledged stores
are performed first, so that a fence after its arrival orders them (R250, R254). DEDUCED, log entry 24. -/
def sendContext (tile : Nat) (wide live mark : Bool) : Op Unit := do
  vectorWait
  let s ← opGet
  if s.buffered s.cur ≠ [] then opWait .fence else pure ()
  let (id, _) ← myLaunch
  opMod (fun s =>
    let t := s.me
    let mask := if live then s.liveOf s.cur else 0xFFFF
    let n := if wide then 16 else 8
    let regs := (List.range 16).map (fun i =>
      let r := i + 1
      if n < r ∨ (live ∧ r ≤ 15 ∧ ¬ mask.getLsbD r) then (0 : Word) else s.reg (BitVec.ofNat 5 r))
    let bad := (List.range 16).map (fun i =>
      let r := i + 1
      !(decide (n < r) || (live && decide (r ≤ 15) && !mask.getLsbD r)) && t.pois.getLsbD r)
    let c : Ctx := { launch := id, sender := s.cur, core := tile * 3 + roleOf s.cur, pc := t.after.1, left := t.after.2
                     task := t.task, slice := t.slice, wide := wide, regs := regs, bad := bad
                     hold := Held.none }
    let s1 := { s with sync := { s.sync with ctxs := Store.put s.sync.ctxs s.next (c, .travelling) }, next := s.next + 1 }
    let s2 := if mark then s1.setMark s1.cur else s1
    { s2.block s2.cur (.migr s.next) with iss := { s2.iss with moved := true } })

def execYield (s : State) : Host.Outcome State Fault Refusal :=
  runOp (do
    tenantOnly
    let s ← opGet
    sendContext (tileOf s.cur) true false false) s

/-- The tile that MIGR sends to: the one the device designates for the page's channel (R37, DESIGN CHOICE, log entry 9). -/
def State.migrTile (s : State) (l : Launch) (t : Target) (off : Nat) : Nat :=
  let (root, o) := rootByte s.maps t off
  let chan := match s.physOf root o with
    | some p => frameChannel (p / 65536)
    | none => 96
  (l.coreOfIndex (3 * (Config.nearestTile chan (l.rows * l.cols) % (l.rows * l.cols)))).1

def migrOp (lab off : Word) (live wide : Bool) : Op Unit := do
  tenantOnly
  let s ← opGet
  match s.remoteHome lab with
  | some h =>
    -- rows 2 to 4 of R59 are checked where the label is homed, and the context stays on its core (R37)
    if s.me.far = some (lab, off) then do
      opMod (·.updMe (fun t => { t with far := none }))
      sendContext (tileOf s.cur) wide live true
    else do
      opMod (fun s => s.sendAccess (.remote h lab off) 1 .probe 0 .plain 3 .sent)
      opMod (fun s => { s with iss := { s.iss with stalled := true } })
  | none => do
    let (_, t) ← resolveOp lab
    let s ← opGet
    match s.node t.node with
    | none => opTrap 0x06 lab
    | some n => do
      opCheck (decide (off.toNat + 1 ≤ n.targetExtent t.child)) 0x08 lab
      let (_, l) ← myLaunch
      sendContext (s.migrTile l t off.toNat) wide live true

def execMigr (a b : Reg) (live wide : Bool) (s : State) : Host.Outcome State Fault Refusal :=
  runOp (migrOp (s.reg a) (s.reg b) live wide) s

def migrcOp (v : Word) (live wide : Bool) : Op Unit := do
  tenantOnly
  let (_, l) ← myLaunch
  match parseCore v with
  | some (tile, _, _) => if l.hasTile tile then sendContext tile wide live true else opTrap 0x0E v
  | none => opTrap 0x0E v

def execMigrc (a : Reg) (live wide : Bool) (s : State) : Host.Outcome State Fault Refusal :=
  runOp (migrcOp (s.reg a) live wide) s

/-! ## Slots that want work (R36) -/

/-- The threads of a launch on a core. -/
def Launch.threadsOn (l : Launch) (j : Nat) : List Nat :=
  let (tile, role) := l.coreOfIndex j
  ((List.range 16).filter (fun k => l.slots.getLsbD k)).map (tidOf tile role)

/-- A partition's threads may take and issue work: nothing has reached its stop (R315). -/
def State.partRuns (s : State) (p : Nat) : Bool := (s.part p).valid && !(s.part p).stop.due s.cycle

/-- A slot that may take work now: a running launch, no work and no wait; a halt stops issue only (R157, R324). -/
def State.wantsWork (s : State) (l : Launch) (tid : Nat) : Bool :=
  decide (l.phase = .running) && s.partRuns l.part && !(s.thread tid).work
    && decide ((s.thread tid).waits = [])

/-! ## Arrival and spilling (R39, R40) -/

def Launch.arrivals (l : Launch) (j : Nat) : List Ctx := (Store.find l.work.arrivals j).getD []
def Launch.setArrivals (l : Launch) (j : Nat) (q : List Ctx) : Launch :=
  { l with work := { l.work with arrivals := Store.put l.work.arrivals j q } }

/-- The spilled contexts that wait for a core, kept by the hardware beside the spill area (R39). -/
def Launch.spilledFor (l : Launch) (j : Nat) : Nat := (Store.find l.work.spilled j).getD 0
def Launch.setSpilled (l : Launch) (j n : Nat) : Launch :=
  { l with work := { l.work with spilled := if n = 0 then Store.del l.work.spilled j else Store.put l.work.spilled j n } }

/-- The number of a core, slot 0, as spill slots name it. -/
def coreName (core : Nat) : Nat := (coreNumber (core / 3) (core % 3) 0).toNat

/-- The first word of a spill slot (Table 2.6). -/
def Ctx.slotWord (c : Ctx) (valid : Bool) : Word :=
  word ((if valid then 2 ^ 63 else 0) + (if c.wide then 2 ^ 62 else 0) + c.pc.toNat % 2 ^ 40)

/-- The words of a spill slot after the first, with the poison of its registers (Table 2.6, R359). -/
def Ctx.words (c : Ctx) (seq : Nat) : List (Word × Bool) :=
  (c.task, false) :: (word (coreName c.core * 2 ^ 32 + c.slice.toNat), false) :: (word seq, false)
    :: List.zip c.regs (c.bad ++ List.replicate 16 false)

/-- The lowest free spill slot, by fuel. -/
def State.freeSpill (s : State) (tid : Nat) (l : Word) : Nat → Nat → State × Except (Nat × Word) Nat
  | 0, i => (s, .ok i)
  | f + 1, i => match s.readLabel tid l (64 + 160 * i) 8 with
    | (s1, .ok v) => if v < 2 ^ 63 then (s1, .ok i) else s1.freeSpill tid l f (i + 1)
    | (s1, .error e) => (s1, .error e)

/-- The spilled contexts of a core: (slot, SEQ) of the lowest SEQ, over the slots from `i` up, by fuel. Poison of a slot is
that of its registers, and holds up nothing here (DESIGN CHOICE, log entry 74). -/
def State.spilledFor (s : State) (tid : Nat) (l : Word) (core : Nat) :
    Nat → Nat → Option (Nat × Nat) → State × Except (Nat × Word) (Option (Nat × Nat))
  | 0, _, best => (s, .ok best)
  | f + 1, i, best => match s.readLabelCells tid l (64 + 160 * i) 4 with
    | (s1, .ok cells) =>
      let ws := cells.map (·.1)
      let mine := decide (2 ^ 63 ≤ (ws.getD 0 0).toNat) && decide ((ws.getD 2 0).toNat / 2 ^ 32 = coreName core)
      let seq := (ws.getD 3 0).toNat
      let best' := if mine then (match best with
          | some (k, q) => if seq < q then some (i, seq) else some (k, q)
          | none => some (i, seq)) else best
      s1.spilledFor tid l core f (i + 1) best'
    | (s1, .error e) => (s1, .error e)

/-- The spill area's header: CAPACITY, USED, NEXTSEQ; capacity 0 for no area (R39). Its reserved bytes are never read,
whatever they hold (DESIGN CHOICE, log entry 74). -/
def State.spillHeader (s : State) (tid : Nat) (l : Word) : State × Except (Nat × Word) (Nat × Nat × Nat) :=
  if l = 0 then (s, .ok (0, 0, 0))
  else match s.readLabelWords tid l 0 2 with
    | (s1, .ok ws) => (s1, .ok ((ws.getD 0 0).toNat % 2 ^ 32, (ws.getD 0 0).toNat / 2 ^ 32, (ws.getD 1 0).toNat))
    | (s1, .error e) => (s1, .error e)

/-- The extent of a node that a label names, 0 when it names none. -/
def State.extentOf (s : State) (tid : Nat) (l : Word) : Nat :=
  match canonAt s.maps (s.mapOf tid) l with
  | some (_, t) => match s.node t.node with
    | some n => n.targetExtent t.child
    | none => 0
  | none => 0

/-- Writes a context into a spill slot, VALID last, and the header after it; a refused context leaves no slot VALID. -/
def State.fillSlot (s : State) (l : Word) (c : Ctx) (i cap used seq : Nat) : State × Except (Nat × Word) Unit :=
  let at_ := 64 + 160 * i
  match s.writeLabelWords c.sender l (at_ + 8) (c.words seq) with
  | (s1, .error e) => (s1, .error e)
  | (s1, .ok _) => match s1.writeLabelWords c.sender l at_ [(c.slotWord true, false)] with
    | (s2, .error e) => (s2, .error e)
    | (s2, .ok _) => match s2.writeLabelWords c.sender l 0 [(word (cap + (used + 1) * 2 ^ 32), false), (word (seq + 1), false)] with
      | (s3, .error e) => ((s3.writeLabelWords c.sender l at_ [(c.slotWord false, false)]).1, .error e)
      | (s3, .ok u) => (s3, .ok u)

/-- Spills a context to the lowest free slot, or says why not: 0x0F with the target core number when the area is full,
or the access's own cause (R40). -/
def State.spill (s : State) (l : Word) (c : Ctx) : State × Except (Nat × Word) Unit :=
  match s.spillHeader c.sender l with
  | (s1, .error e) => (s1, .error e)
  | (s1, .ok (cap, used, seq)) =>
    if cap ≤ used then (s1, .error (0x0F, word (coreName c.core)))
    else match s1.freeSpill c.sender l used 0 with
      | (s2, .error e) => (s2, .error e)
      | (s2, .ok i) =>
        if s2.extentOf c.sender l < 64 + 160 * (i + 1) then (s2, .error (0x0F, word (coreName c.core)))
        else s2.fillSlot l c i cap used seq

/-- The spilled context of lowest SEQ that waits for a core: its slot and SEQ. -/
def State.spilledAt (s : State) (tid : Nat) (l : Word) (core : Nat) : State × Except (Nat × Word) (Option (Nat × Nat)) :=
  match s.spillHeader tid l with
  | (s1, .error e) => (s1, .error e)
  | (s1, .ok (cap, used, _)) => if used = 0 then (s1, .ok none) else s1.spilledFor tid l core cap 0 none

/-- A context that a core does not queue is spilled, here or where the spill area is homed, or refused (R39, R40, R339). -/
def State.spillCtx (s : State) (id : Nat) (l : Launch) (c : Ctx) : State :=
  let j := l.coreIndex (c.core / 3) (c.core % 3)
  let put (s : State) (st : CtxState) : State := { s with sync := { s.sync with ctxs := Store.put s.sync.ctxs id (c, st) } }
  let count (s : State) : State := s.updLaunch c.launch (fun l => l.setSpilled j (l.spilledFor j + 1))
  match s.farHome (s.mapOf c.sender) l.spill with
  | some h =>
    if s.mod.link.lost.contains h then put s (.refused 0x06 l.spill)
    else put ((count s).askHome h c.sender id l.spill (.spill c)) .spilling
  | none => match s.spill l.spill c with
    | (s1, .ok _) => put (count s1) .accepted
    | (s1, .error (e, v)) => put s1 (.refused e v)

/-- CONTEXT_ARRIVAL: a context reaches its target core and is queued, spilled or refused (R39, R40). A thread of the core that
wants a record of its deque has taken it before (R36, R265). -/
def execContextArrival (id : Nat) (s : State) : Host.Outcome State Fault Refusal :=
  .next (match Store.find s.sync.ctxs id with
    | some (c, .travelling) => match s.launch c.launch with
      | some l =>
        let j := l.coreIndex (c.core / 3) (c.core % 3)
        let put (s : State) (st : CtxState) : State :=
          { s with sync := { s.sync with ctxs := Store.put s.sync.ctxs id (c, st) } }
        if l.deque j ≠ [] ∧ (l.threadsOn j).any (s.wantsWork l) then s
        else if (l.arrivals j).length < l.limit ∧ l.spilledFor j = 0 then
          put (s.updLaunch c.launch (fun l => l.setArrivals j (l.arrivals j ++ [c]))) .accepted
        else s.spillCtx id l c
      | none => s
    | _ => s)

/-- CONTEXT_ANSWER: the target's answer frees the issuing slot, or the context is restored there and traps (R37, R40).
DEDUCED, log entry 24. -/
def execContextAnswer (id : Nat) (s : State) : Host.Outcome State Fault Refusal :=
  .next (match Store.find s.sync.ctxs id with
    | some (c, st) =>
      let s1 := { s with sync := { s.sync with ctxs := Store.del s.sync.ctxs id } }
      match st with
      | .travelling | .spilling => s
      | .accepted => (s1.settleHeld c.sender c.hold).endTask c.sender
      | .refused e v =>
        (s1.unblock c.sender (.migr id)).answerTrap c.sender id c.hold (s.thread c.sender).pc (s.thread c.sender).left e v
    | none => s)

/-! ## Taking work (R36) -/

/-- What the start of a task record and the arrival of a context set alike: user level in the launch's code node, with the
user trap registers, flags and mode zero; channel registers and the supervisor frame stay (R36, R37). -/
def Thread.begin (t : Thread) (code pc : Word) (left : Nat) (task : Word) (slice : BitVec 32) (regs : List Word)
    (bad : List Bool) : Thread :=
  { t with
    g := Vector.ofFn (fun i => if i.val = 0 then 0 else if i.val < 24 then regs.getD (i.val - 1) 0 else t.g[i.val])
    pois := (List.range 16).foldl (fun (p : BitVec 32) i => if bad.getD i false then p ||| ((1 : BitVec 32) <<< (i + 1)) else p)
      (t.pois &&& 0xFF000000)
    pc := pc, left := left, level := 0, work := true, waits := [], sonly := false, uonly := none, far := none
    live := none, fst := 0, frm := 0, uvec := 0, ucause := 0, uepc := 0, uval := 0, task := task, slice := slice, code := code }

/-- Starts a task record in a thread; a bad ENTRY traps there (R36, R180). -/
def State.startRec (s : State) (tid : Nat) (code : Word) (r : TaskRec) : State :=
  let s1 := s.updThread tid (·.begin code r.entry 0 r.sync r.slice [r.arg0, r.arg1] [])
  match s1.targetCheck tid code r.entry with
  | some (c, v) => s1.trapThread tid c v r.entry 0
  | none => s1

def State.startCtx (s : State) (tid : Nat) (code : Word) (c : Ctx) : State :=
  s.updThread tid (·.begin code c.pc c.left c.task c.slice c.regs c.bad)

/-- Takes the spilled context of lowest SEQ that waits for a core out of a spill area: the words of its slot with their
poison. None where there is none or the area cannot be read (DEDUCED, log entry 44). Where it can be read and not
written, the context is taken all the same, with VALID and USED as they were (DESIGN CHOICE, log entry 74). -/
def State.takeSpilled (s : State) (tid : Nat) (l : Word) (core : Nat) : State × Option (List (Word × Bool)) :=
  match s.spilledAt tid l core with
  | (s1, .ok (some (i, _))) => match s1.readLabelCells tid l (64 + 160 * i) 20 with
    | (s2, .ok cells) => match s2.spillHeader tid l with
      | (s3, .ok (cap, used, seq)) =>
        let w0 := (cells.getD 0 (0, false)).1
        let s4 := (s3.writeLabelWords tid l (64 + 160 * i) [(w0 &&& 0x7FFFFFFFFFFFFFFF, false)]).1
        ((s4.writeLabelWords tid l 0 [(word (cap + (used - 1) * 2 ^ 32), false), (word seq, false)]).1, some cells)
      | (_, .error _) => (s, none)
    | (_, .error _) => (s, none)
  | (_, _) => (s, none)

/-- A context that comes back from a spill slot joins its core's arrival queue (R39, Table 2.6). -/
def State.queueSpilled (s : State) (lid tid core : Nat) (cells : List (Word × Bool)) : State :=
  match s.launch lid with
  | none => s
  | some l =>
    let ws := cells.map (·.1)
    let w0 := ws.getD 0 0
    let pc := w0 &&& 0xFFFFFFFFFF
    let c : Ctx := { launch := lid, sender := tid, core := core, pc := pc, left := s.leftAt tid l.code pc 0 257
                     task := ws.getD 1 0, slice := (ws.getD 2 0).setWidth 32, wide := w0.getLsbD 62, regs := ws.drop 4
                     bad := (cells.drop 4).map (·.2), hold := Held.none }
    let j := l.coreIndex (core / 3) (core % 3)
    s.updLaunch lid (fun l => (l.setArrivals j (l.arrivals j ++ [c])).setSpilled j (l.spilledFor j - 1))

/-- The core refills its arrival queue with the spilled context of lowest SEQ (R39), or asks the module that homes the
spill area for it (R339). -/
def State.refillArrivals (s : State) (lid tid core j : Nat) : State :=
  match s.launch lid with
  | none => s
  | some l =>
    if l.spilledFor j = 0 then s
    else match s.farHome (s.mapOf tid) l.spill with
      | some h =>
        if s.mod.link.lost.contains h ∨ s.asking (fun a => decide (a.id = lid) && decide (a.op = .refill core)) then s
        else s.askHome h tid lid l.spill (.refill core)
      | none => match s.takeSpilled tid l.spill core with
        | (s1, some cells) => s1.queueSpilled lid tid core cells
        | (s1, none) => s1

/-- Torus hop distance of two tiles. -/
def hops (a b : Nat) : Nat :=
  let d (x y : Nat) : Nat := Nat.min ((x + 32 - y) % 32) ((y + 32 - x) % 32)
  d (tileRow a) (tileRow b) + d (tileCol a) (tileCol b)

/-- The victims of a thief in order (R38): the other two cores of its tile, then by hop distance and core index. -/
def Launch.victims (l : Launch) (j : Nat) : List Nat :=
  let tile := (l.coreOfIndex j).1
  let own := (List.range 3).map (fun r => j / 3 * 3 + r)
  let others := (List.range l.cores).filter (fun k => decide (k / 3 ≠ j / 3))
  own.filter (fun k => decide (k ≠ j)) ++
    (List.range 33).flatMap (fun d => others.filter (fun k => decide (hops tile (l.coreOfIndex k).1 = d)))

/-- An Alleys message of a launch between two of its cores is charged by its hops (R329). DEDUCED, log entry 35. -/
def State.chargeAlley (s : State) (l : Launch) (a b : Nat) : State :=
  s.charge l.vf (2000 * hops (l.coreOfIndex a).1 (l.coreOfIndex b).1)

/-- The spilled contexts of a launch that wait for a core. -/
def State.spilledCount (s : State) (lid j : Nat) : Nat :=
  match s.launch lid with
  | some l => l.spilledFor j
  | none => 0

/-- One thread takes work: the oldest context, the bottom record, or its core starts a steal (R36, R38). An empty arrival
queue is refilled first when a spilled context still waits. -/
def State.takeFor (s : State) (lid : Nat) (l : Launch) (tid : Nat) : State :=
  let j := myIndex l tid
  match l.arrivals j with
  | c :: cs =>
    let s1 := (s.updLaunch lid (fun l => l.setArrivals j cs)).startCtx tid l.code c
    s1.refillArrivals lid tid (coreOf tid) j
  | [] =>
    let s1 := s.refillArrivals lid tid (coreOf tid) j
    if s1.spilledCount lid j ≠ l.spilledFor j then s1
    else match l.takeBottom j with
    | some (r, l1) => (s1.updLaunch lid (fun _ => l1)).startRec tid l.code r
    | none =>
      if (Store.find l.work.steals j).isSome ∨ (l.threadsOn j).any (fun t => (s.thread t).work) then s1
      else s1.updLaunch lid (fun l => { l with work := { l.work with
        steals := Store.put l.work.steals j (.asking (l.victims j)) } })

/-- Whether TAKE_WORK changes anything for a thread; a spill area that cannot be read holds nothing up (R46). -/
def State.canTake (s : State) (lid : Nat) (l : Launch) (tid : Nat) : Bool :=
  let j := myIndex l tid
  decide (l.arrivals j ≠ []) || (let r := s.refillArrivals lid tid (coreOf tid) j; decide (r.spilledCount lid j ≠ l.spilledFor j) || decide (r.next ≠ s.next))
    || decide (l.deque j ≠ []) ||
    ((Store.find l.work.steals j).isNone && (l.threadsOn j).all (fun t => !(s.thread t).work) && decide (1 < l.cores))

/-- The first thread of a core, in slot order, that can take work, with its launch. -/
def State.takerOn (s : State) (core : Nat) : Option (Nat × Nat × Launch) :=
  if 3072 ≤ core then none
  else (List.range 16).findSome? (fun k =>
    let tid := core * 16 + k
    match s.launchOf tid with
    | some id => match s.launch id with
      | some l => if s.wantsWork l tid && s.canTake id l tid then some (tid, id, l) else none
      | none => none
    | none => none)

/-- TAKE_WORK: one thread of a core takes work, in ascending slot order (R36). -/
def execTakeWork (core : Nat) (s : State) : Host.Outcome State Fault Refusal :=
  .next (match s.takerOn core with
    | some (tid, id, l) => s.takeFor id l tid
    | none => s)

/-- A thief may ask: every thread of the launch on its core holds no work and its deque share is empty (R38). -/
def State.mayAsk (s : State) (l : Launch) (j : Nat) : Bool :=
  (l.threadsOn j).all (fun t => !(s.thread t).work) && decide (l.deque j = [])

/-- A victim that still serves another thief: a record of its deque is on its way there (R38). -/
def Launch.serving (l : Launch) (thief victim : Nat) : Bool :=
  l.work.steals.any (fun q => decide (q.1 ≠ thief) && (match q.2 with
    | .answered _ v (some _) => decide (v = victim)
    | _ => false))

/-- Sets or ends a core's steal. -/
def Launch.setSteal (l : Launch) (j : Nat) (st : Option StealState) : Launch :=
  { l with work := { l.work with steals := match st with
      | some x => Store.put l.work.steals j x
      | none => Store.del l.work.steals j } }

/-! ## Phases (R41, R186) -/

def Launch.count (l : Launch) (tile : Nat) : Nat := (Store.find l.work.counts tile).getD 0
def Launch.heardFrom (l : Launch) (tile nb : Nat) : Nat := (Store.find l.work.heard (tile * 1024 + nb)).getD 0

/-- The tiles of the rectangle adjacent to a tile on the module torus. -/
def Launch.neighbours (l : Launch) (tile : Nat) : List Nat :=
  let r := tileRow tile
  let c := tileCol tile
  let cand := [((r + 31) % 32) * 32 + c, ((r + 1) % 32) * 32 + c, r * 32 + (c + 31) % 32, r * 32 + (c + 1) % 32]
  cand.filter (fun t => l.hasTile t && decide (t ≠ tile))

/-- The least of some counts, which wrap modulo 2^32, against a reference count that none has passed by 2^31. -/
def minCount (ref : Nat) : List Nat → Nat
  | [] => ref
  | [c] => c
  | c :: cs => let m := minCount ref cs; if genPast m c then c else m

/-- m of R41: the smallest count received from the neighbours; the tile's own count when it has none. -/
def Launch.least (l : Launch) (tile : Nat) : Nat :=
  match l.neighbours tile with
  | [] => l.count tile
  | ns => minCount (l.count tile) (ns.map (l.heardFrom tile))

/-- A PHADV may proceed: count + 1 does not lie past m + A, as GenPast compares them (R41, R186). -/
def Launch.mayAdvance (l : Launch) (tile : Nat) : Bool :=
  decide (l.neighbours tile = []) || !genPast (l.count tile + 1) (l.least tile + l.allow)

def Launch.advance (l : Launch) (tile : Nat) : Launch :=
  { l with work := { l.work with counts := Store.put l.work.counts tile ((l.count tile + 1) % 2 ^ 32) } }

/-- Inserts behind every element that may stand before it. -/
def insertBy {α : Type} (le : α → α → Bool) (x : α) : List α → List α
  | [] => [x]
  | y :: ys => if le y x then y :: insertBy le x ys else x :: y :: ys

/-- The threads of a launch on a tile that wait in PHADV, in the order they are served (R41). -/
def State.phaseWaiters (s : State) (l : Launch) (tile : Nat) : List Nat :=
  let ts := ((List.range 3).flatMap (fun r => (List.range 16).map (tidOf tile r))).filter
    (fun t => l.slots.getLsbD (slotOf t) && (s.thread t).waits.contains .phase)
  ts.foldl (fun l t => insertBy (fun a b => decide ((s.thread a).stamp ≤ (s.thread b).stamp)) t l) []

/-- Serves waiting PHADVs while the allowance lasts, by fuel. -/
def State.servePhase (s : State) (lid tile : Nat) : Nat → State
  | 0 => s
  | f + 1 => match s.launch lid with
    | some l => match s.phaseWaiters l tile with
      | t :: _ =>
        if l.mayAdvance tile then ((s.updLaunch lid (·.advance tile)).unblock t .phase).servePhase lid tile f else s
      | [] => s
    | none => s

def phadvOp : Op Unit := do
  tenantOnly
  let (id, _) ← myLaunch
  opMod (fun s => ((s.updMe (fun t => { t with stamp := s.cycle })).block s.cur .phase).servePhase id (tileOf s.cur) 48)

def execPhadv (s : State) : Host.Outcome State Fault Refusal := runOp phadvOp s

def phqryOp (d : Reg) : Op Unit := do
  tenantOnly
  let (_, l) ← myLaunch
  let s ← opGet
  let t := tileOf s.cur
  opMod (·.setReg d (word (l.least t % 2 ^ 32 * 2 ^ 32 + l.count t % 2 ^ 32)))

def execPhqry (d : Reg) (s : State) : Host.Outcome State Fault Refusal := runOp (phqryOp d) s

def execQuiet (s : State) : Host.Outcome State Fault Refusal :=
  runOp (do
    tenantOnly
    opMod (fun s => s.block s.cur .quiet)) s

/-- PHASE_COUNT_MESSAGE: a tile's count reaches a neighbour and may release its waiting PHADVs (R41). -/
def execPhaseCountMessage (lid source target : Nat) (s : State) : Host.Outcome State Fault Refusal :=
  .next (match s.launch lid with
    | some l =>
      if l.hasTile target ∧ l.hasTile source ∧ (l.neighbours target).contains source then
        (s.updLaunch lid (fun l => { l with work := { l.work with
          heard := Store.put l.work.heard (target * 1024 + source) (l.count source) } })).servePhase lid target 48
      else s
    | none => s)

end Sys2Proof.Machine
end

