-- ==== Sys2Proof/Machine/Vector.lean ====
section
/-! DEFINITION. Sweeps (R188 to R214): shape records, the start checks of Table 10.1, the beats of every member, VPART, and
the events SWEEP_START and SWEEP_FINISH. -/

namespace Sys2Proof.Machine

/-! ## Shape records -/

/-- A signed 16-bit or 32-bit field. -/
def signedField (v w : Nat) : Int := if 2 ^ (w - 1) ≤ v then (v : Int) - 2 ^ w else v

/-- The 32 bytes of a record as four words. -/
def State.shapeWords (s : State) (key : Nat) : List Word := (List.range 4).map (fun i => word (s.spadRead (key + 8 * i) 8))

/-- A record from its four words (Table 6.11). -/
def shapeOf (w : List Word) : Shape :=
  let w1 := w.getD 1 0
  let w2 := (w.getD 2 0).toNat
  let w3 := (w.getD 3 0).toNat
  { base := w.getD 0 0, ty := (w1.extractLsb' 0 4).toNat, rank := (w1.extractLsb' 8 8).toNat, chan := w1.getLsbD 16
    ext := (List.range 4).map (fun j => w2 / 2 ^ (16 * j) % 2 ^ 16)
    str := (List.range 4).map (fun j => signedField (w3 / 2 ^ (16 * j) % 2 ^ 16) 16) }

/-- Row 4 of Table 10.1 (R124). -/
def shapeOk (w : List Word) : Bool :=
  let w1 := w.getD 1 0
  let r := shapeOf w
  decide (w1.extractLsb' 17 47 = 0) && decide (w1.extractLsb' 4 4 = 0) && decide (r.ty ≤ 12)
    && decide (1 ≤ r.rank) && decide (r.rank ≤ 4)
    && (List.range 4).all (fun j =>
      if j < r.rank then decide (r.ext.getD j 0 ≠ 0) else decide (r.ext.getD j 0 = 1) && decide (r.str.getD j 0 = 0))

def Shape.count (r : Shape) : Nat := prod r.ext

/-- Width of an element in bytes; of a q4x block, 18. -/
def Shape.width (r : Shape) : Nat := unitBytes r.ty

/-- i0·STRIDE0 + … for an index vector (R190). -/
def strided : List Int → List Nat → Int
  | s :: ss, i :: is => s * i + strided ss is
  | _, _ => 0

/-- The displacement in bytes of an element from BASE (R190, R194). -/
def Shape.disp (r : Shape) (idx : List Nat) : Int :=
  if r.ty = 12 then 18 * (strided r.str idx).ediv 32 else r.width * strided r.str idx

/-- The offset in the tile of an element. -/
def Shape.offset (r : Shape) (idx : List Nat) : Int := ((r.base.toNat % 2 ^ 20 : Nat) : Int) + r.disp idx

/-- The local address of an element, as a trap names it. -/
def Shape.addr (r : Shape) (idx : List Nat) : Word := r.base + BitVec.ofInt 64 (r.disp idx)

/-- The index vectors that a record's checks visit: elements in shape order, or the first element of each q4x block. -/
def Shape.places (r : Shape) : List (List Nat) :=
  if r.ty = 12 then (List.range (r.count / 32)).map (fun b => indexOf r.ext (32 * b))
  else (List.range r.count).map (indexOf r.ext)

/-- The scratchpad key of an offset in a thread's tile, if it lies below 0xC0000 in a bank of its partition. -/
def State.ownKey (s : State) (tid : Nat) (off : Int) : Option Nat :=
  if off < 0 ∨ 0xC0000 ≤ off then none
  else
    let o := off.toNat
    match (s.partOf tid).bind (fun p => (s.part p).physBank (o / 2 ^ 15)) with
    | some b => some (tileOf tid * 2 ^ 20 + b * 2 ^ 15 + o % 2 ^ 15)
    | none => none

/-- The tile that a local address names for a thread, if its other fields are legal (R69, R70). -/
def State.addrTile (tid : Nat) (a : Word) : Option Nat :=
  if a.extractLsb' 58 4 ≠ 0 ∨ a.extractLsb' 20 28 ≠ 0 then none
  else if a.getLsbD 62 then some (tileOf tid)
  else
    let row := (a.extractLsb' 53 5).toNat
    let col := (a.extractLsb' 48 5).toNat
    if a.getLsbD 63 then some (((tileRow (tileOf tid) + row) % 32) * 32 + (tileCol (tileOf tid) + col) % 32)
    else some (row * 32 + col)

/-- Row 7: the first of some elements of a record that does not lie wholly on the issuing tile in the partition's banks.
DEDUCED, log entry 22. -/
def State.outsideOf (s : State) (tid : Nat) (r : Shape) (places : List (List Nat)) : Option Word :=
  let home := State.addrTile tid r.base = some (tileOf tid)
  (places.find? (fun idx => !(decide home && (List.range r.width).all
    (fun (b : Nat) => (s.ownKey tid (r.offset idx + ((b : Nat) : Int))).isSome)))).map r.addr

/-- Row 7 for every element of a record. -/
def State.outside (s : State) (tid : Nat) (r : Shape) : Option Word := s.outsideOf tid r r.places

/-- Row 8: the first element of a destination that lies in a tagged unit. DEDUCED, log entry 22. -/
def State.taggedIn (s : State) (tid : Nat) (r : Shape) : Option Word :=
  (r.places.find? (fun idx => (List.range r.width).any (fun (b : Nat) => match s.ownKey tid (r.offset idx + ((b : Nat) : Int)) with
    | some k => s.tagged k
    | none => false))).map r.addr

/-- Rows 1 to 4 for a list of record addresses (DEDUCED, log entry 27). The instruction consumes its records, so one in a
poisoned unit traps (R359), before row 4 (DESIGN CHOICE, log entry 74). -/
def readShapes (addrs : List Word) : Op (List Shape) := do
  let s ← opGet
  let keys ← addrs.mapM (fun a => if isMgmt s.cur then opTrap 0x05 a else opOk (s.localAddr s.cur a))
  let named := List.zip addrs keys
  for p in named do opCheck (decide (p.2 % 32 = 0)) 0x04 p.1
  for p in named do opCheck (decide (keyTile p.2 = tileOf s.cur)) 0x0C p.1
  for p in named do opCheck (!s.spadPoisoned p.2 32) 0x13 (Config.poisonValue p.1)
  for p in named do opCheck (shapeOk (s.shapeWords p.2)) 0x0C p.1
  pure (keys.map (fun k => shapeOf (s.shapeWords k)))

/-- Rows 6 to 8; each record with whether it is a destination. Of a source at most `few` elements are read, where a number
is given (VBCAST, R209); of VGATH's A every element counts as one that the sweep may read, since its indexes are read later
(R189; DESIGN CHOICE, log entry 74). -/
def placeShapes (recs : List (Shape × Bool)) (few : Option Nat) : Op Unit := do
  let s ← opGet
  for p in recs do
    opCheck (p.1.chan || p.1.ty = 12 || decide (p.1.base.toNat % p.1.width = 0)) 0x04 p.1.base
  for p in recs do
    if !p.1.chan then
      match s.outsideOf s.cur p.1 (match few with
          | some n => if p.2 then p.1.places else p.1.places.take n
          | none => p.1.places) with
      | some a => opTrap 0x05 a
      | none => pure ()
  for p in recs do
    if p.2 && !p.1.chan then
      match s.taggedIn s.cur p.1 with
      | some a => opTrap 0x0D a
      | none => pure ()

/-! ## Row 5 -/

/-- Each extent of a source equals the destination's, or is 1 with stride 0 (R191). -/
def extentsOk (d a : Shape) : Bool :=
  (List.range 4).all (fun j => decide (a.ext.getD j 0 = d.ext.getD j 0)
    || (decide (a.ext.getD j 0 = 1) && decide (a.str.getD j 0 = 0)))

/-- A source is broadcast along some dimension. -/
def broadcasts (d a : Shape) : Bool := (List.range 4).any (fun j => decide (a.ext.getD j 0 ≠ d.ext.getD j 0))

/-- The conditions on a q4x record (R194). -/
def q4xOk (r : Shape) : Bool :=
  decide (r.ty ≠ 12) || (!r.chan && decide (r.str.getD 0 0 = 1) && decide (r.ext.getD 0 0 % 32 = 0)
    && (List.range 4).all (fun j => decide (j = 0) || decide (r.rank ≤ j) || decide ((r.str.getD j 0).emod 32 = 0)))

/-- A channel record's own rules: strides 0, a well-formed designator (R124, R193). -/
def chanOk (r : Shape) : Bool :=
  !r.chan || (r.str.all (fun x => decide (x = 0)) && decide (r.base.extractLsb' 40 24 = 0)
    && decide (24 ≤ (r.base.extractLsb' 32 8).toNat) && decide ((r.base.extractLsb' 32 8).toNat ≤ 31))

def chanNumber (r : Shape) : Nat := (r.base.extractLsb' 32 8).toNat

/-- How a member uses its records: the instruction, its record operands in the order D, A, B, C with their required type
(none: as `extra` says), and which of them it writes. -/
structure Member where
  op    : Instr
  ty    : Ty
  recs  : List (Reg × Option Nat)
  dest  : Option Nat
  rnd   : Rnd
  dreg  : Reg

/-- The record at a place in a member's list. -/
def recAt (recs : List Shape) (i : Nat) : Shape :=
  recs.getD i { base := 0, ty := 0, rank := 1, chan := false, ext := [1, 1, 1, 1], str := [0, 0, 0, 0] }

/-- A record that repeats an element along a dimension by itself: a stride of 0 over an extent above 1. -/
def repeats (r : Shape) : Bool := (List.range 4).any (fun j => decide (1 < r.ext.getD j 0) && decide (r.str.getD j 0 = 0))

/-- Row 5 refuses record `i` of a member with 0x0C: its type, its extents, its own rules (R191 to R194, R204, R207 to R211;
DEDUCED, log entry 21). -/
def recordBad (m : Member) (recs : List Shape) (i : Nat) : Bool :=
  let r := recAt recs i
  let d := recAt recs 0
  let typeBad := match (m.recs.getD i (0, none)).2 with
    | some t => decide (r.ty ≠ t)
    | none => match m.op with
      | .vcvt .. => decide (11 < r.ty)
      | .vpack .. => decide (r.ty < 8) || decide (11 < r.ty)
      | _ => false
  let extBad := match m.op with
    | .vbcast .. | .viota .. | .vred .. => false
    | .vgath .. => decide (i = 2) && !extentsOk d r
    | .vpack .. | .vunpk .. => decide (r.count % 32 ≠ 0) || decide (r.count ≠ d.count) || repeats r
    | _ => decide (i ≠ 0) && (!extentsOk d r || (r.chan && broadcasts d r))
  let chanBad := r.chan && (match m.op with
    | .vgath .. | .vscat .. | .vpack .. | .vunpk .. => true
    | .vfma .. | .vfms .. | .vsel .. => decide (i = 0)
    | _ => false)
  typeBad || extBad || !chanOk r || !q4xOk r || chanBad

/-- The first record that row 5 refuses with 0x0C, if any, its channel's core apart. -/
def memberBad (m : Member) (recs : List Shape) : Option Nat := (List.range recs.length).find? (recordBad m recs)

/-- The thread a channel destination names, or none; and whether a channel source names this core (R193). -/
def State.chanTarget (s : State) (r : Shape) : Option Nat := s.sendTarget (r.base &&& 0xFFFFFFFF)

/-! ## Issue -/

/-- A sweep that has passed its checks joins its core's queue and takes its thread out of the rotation (R188). -/
def State.queueSweep (s : State) (sw : Sweep) : State :=
  let core := coreOf s.cur
  let q := (Store.find s.eng.sweeps core).getD []
  { s with eng := { s.eng with sweeps := Store.put s.eng.sweeps core (q ++ [sw]) } }.block s.cur (.sweep 0)

/-- Issues a sweep: every start check, then the queue. -/
def sweepOp (m : Member) : Op Unit := do
  let s ← opGet
  let addrs := m.recs.map (fun p => s.reg p.1)
  let recs ← readShapes addrs
  for i in List.range recs.length do
    let r := recAt recs i
    opCheck (!recordBad m recs i) 0x0C (addrs.getD i 0)
    if r.chan then
      if m.dest = some i then
        (match s.chanTarget r with
          | some _ => pure ()
          | none => opTrap 0x0E (r.base &&& 0xFFFFFFFF))
      else opCheck (decide (r.base.setWidth 32 = s.coreWord s.cur)) 0x0C (addrs.getD i 0)
  placeShapes ((List.range recs.length).map (fun i => (recAt recs i, decide (m.dest = some i)))) (match m.op with
    | .vbcast .. => some (recAt recs 0).count
    | _ => none)
  opMod (fun s => s.queueSweep
    { tid := s.cur, op := m.op, recs := recs, md := s.slotMode m.rnd, dreg := m.dreg, start := false, beat := 0, run := none
      flags := 0, pois := false, inb := [], out := [], dep := none, pc := s.me.pc, left := s.me.left })

def runSweep (op : Instr) (ty : Ty) (recs : List (Reg × Option Nat)) (dest : Option Nat) (rnd : Rnd) (dreg : Reg)
    (s : State) : Host.Outcome State Fault Refusal :=
  runOp (sweepOp { op := op, ty := ty, recs := recs, dest := dest, rnd := rnd, dreg := dreg }) s

/-- The number of a type. -/
def tyNum (t : Ty) : Nat := t.code.toNat

/-- d, a and b of one type. -/
def sweep3 (op : Instr) (d a b : Reg) (t : Ty) (r : Rnd) (s : State) : Host.Outcome State Fault Refusal :=
  runSweep op t [(d, some (tyNum t)), (a, some (tyNum t)), (b, some (tyNum t))] (some 0) r 0 s

/-- d and a of one type. -/
def sweep2 (op : Instr) (d a : Reg) (t : Ty) (r : Rnd) (s : State) : Host.Outcome State Fault Refusal :=
  runSweep op t [(d, some (tyNum t)), (a, some (tyNum t))] (some 0) r 0 s

def execVnop (s : State) : Host.Outcome State Fault Refusal := .next s

def execVadd (d a b : Reg) (ty : Ty) (rnd : Rnd) (s : State) : Host.Outcome State Fault Refusal :=
  sweep3 (.vadd d a b ty rnd) d a b ty rnd s
def execVsub (d a b : Reg) (ty : Ty) (rnd : Rnd) (s : State) : Host.Outcome State Fault Refusal :=
  sweep3 (.vsub d a b ty rnd) d a b ty rnd s
def execVmul (d a b : Reg) (ty : Ty) (rnd : Rnd) (s : State) : Host.Outcome State Fault Refusal :=
  sweep3 (.vmul d a b ty rnd) d a b ty rnd s
def execVdiv (d a b : Reg) (ty : Ty) (rnd : Rnd) (s : State) : Host.Outcome State Fault Refusal :=
  sweep3 (.vdiv d a b ty rnd) d a b ty rnd s
def execVmin (d a b : Reg) (ty : Ty) (s : State) : Host.Outcome State Fault Refusal :=
  sweep3 (.vmin d a b ty) d a b ty Rnd.none s
def execVmax (d a b : Reg) (ty : Ty) (s : State) : Host.Outcome State Fault Refusal :=
  sweep3 (.vmax d a b ty) d a b ty Rnd.none s
def execVand (d a b : Reg) (ty : Ty) (s : State) : Host.Outcome State Fault Refusal :=
  sweep3 (.vand d a b ty) d a b ty Rnd.none s
def execVor (d a b : Reg) (ty : Ty) (s : State) : Host.Outcome State Fault Refusal :=
  sweep3 (.vor d a b ty) d a b ty Rnd.none s
def execVxor (d a b : Reg) (ty : Ty) (s : State) : Host.Outcome State Fault Refusal :=
  sweep3 (.vxor d a b ty) d a b ty Rnd.none s
def execVshl (d a b : Reg) (ty : Ty) (s : State) : Host.Outcome State Fault Refusal :=
  sweep3 (.vshl d a b ty) d a b ty Rnd.none s
def execVshr (d a b : Reg) (ty : Ty) (s : State) : Host.Outcome State Fault Refusal :=
  sweep3 (.vshr d a b ty) d a b ty Rnd.none s
def execVsra (d a b : Reg) (ty : Ty) (s : State) : Host.Outcome State Fault Refusal :=
  sweep3 (.vsra d a b ty) d a b ty Rnd.none s
def execVfma (d a b : Reg) (ty : Ty) (rnd : Rnd) (s : State) : Host.Outcome State Fault Refusal :=
  sweep3 (.vfma d a b ty rnd) d a b ty rnd s
def execVfms (d a b : Reg) (ty : Ty) (rnd : Rnd) (s : State) : Host.Outcome State Fault Refusal :=
  sweep3 (.vfms d a b ty rnd) d a b ty rnd s
def execVabs (d a : Reg) (ty : Ty) (s : State) : Host.Outcome State Fault Refusal :=
  sweep2 (.vabs d a ty) d a ty Rnd.none s
def execVneg (d a : Reg) (ty : Ty) (s : State) : Host.Outcome State Fault Refusal :=
  sweep2 (.vneg d a ty) d a ty Rnd.none s
def execVsqrt (d a : Reg) (ty : Ty) (rnd : Rnd) (s : State) : Host.Outcome State Fault Refusal :=
  sweep2 (.vsqrt d a ty rnd) d a ty rnd s
def execVrcp (d a : Reg) (ty : Ty) (rnd : Rnd) (s : State) : Host.Outcome State Fault Refusal :=
  sweep2 (.vrcp d a ty rnd) d a ty rnd s
def execVrsq (d a : Reg) (ty : Ty) (rnd : Rnd) (s : State) : Host.Outcome State Fault Refusal :=
  sweep2 (.vrsq d a ty rnd) d a ty rnd s
def execVexp (d a : Reg) (ty : Ty) (rnd : Rnd) (s : State) : Host.Outcome State Fault Refusal :=
  sweep2 (.vexp d a ty rnd) d a ty rnd s
def execVexp2 (d a : Reg) (ty : Ty) (rnd : Rnd) (s : State) : Host.Outcome State Fault Refusal :=
  sweep2 (.vexp2 d a ty rnd) d a ty rnd s
def execVlog2 (d a : Reg) (ty : Ty) (rnd : Rnd) (s : State) : Host.Outcome State Fault Refusal :=
  sweep2 (.vlog2 d a ty rnd) d a ty rnd s
def execVtanh (d a : Reg) (ty : Ty) (rnd : Rnd) (s : State) : Host.Outcome State Fault Refusal :=
  sweep2 (.vtanh d a ty rnd) d a ty rnd s
def execVsigm (d a : Reg) (ty : Ty) (rnd : Rnd) (s : State) : Host.Outcome State Fault Refusal :=
  sweep2 (.vsigm d a ty rnd) d a ty rnd s
def execVcmp (d a b : Reg) (ty : Ty) (pred : VPred) (s : State) : Host.Outcome State Fault Refusal :=
  runSweep (.vcmp d a b ty pred) ty [(d, some 4), (a, some (tyNum ty)), (b, some (tyNum ty))] (some 0) Rnd.none 0 s
def execVsel (a b c : Reg) (ty : Ty) (s : State) : Host.Outcome State Fault Refusal :=
  runSweep (.vsel a b c ty) ty [(a, some (tyNum ty)), (b, some 4), (c, some (tyNum ty))] (some 0) Rnd.none 0 s
def execVred (d a : Reg) (ty : Ty) (rnd : Rnd) (op : RedOp) (s : State) : Host.Outcome State Fault Refusal :=
  runSweep (.vred d a ty rnd op) ty [(a, some (tyNum ty))] none rnd d s
def execVscan (d a : Reg) (ty : Ty) (rnd : Rnd) (op : ScanOp) (s : State) : Host.Outcome State Fault Refusal :=
  sweep2 (.vscan d a ty rnd op) d a ty rnd s
def execVcvt (d a : Reg) (ty : Ty) (rnd : Rnd) (s : State) : Host.Outcome State Fault Refusal :=
  runSweep (.vcvt d a ty rnd) ty [(d, some (tyNum ty)), (a, none)] (some 0) rnd 0 s
def execVpack (d a : Reg) (rnd : Rnd) (s : State) : Host.Outcome State Fault Refusal :=
  runSweep (.vpack d a rnd) .q4x [(d, some 12), (a, none)] (some 0) rnd 0 s
def execVunpk (d a : Reg) (ty : Ty) (rnd : Rnd) (s : State) : Host.Outcome State Fault Refusal :=
  runSweep (.vunpk d a ty rnd) ty [(d, some (tyNum ty)), (a, some 12)] (some 0) rnd 0 s
def execVcpy (d a : Reg) (ty : Ty) (s : State) : Host.Outcome State Fault Refusal :=
  sweep2 (.vcpy d a ty) d a ty Rnd.none s
def execVbcast (d a : Reg) (ty : Ty) (s : State) : Host.Outcome State Fault Refusal :=
  sweep2 (.vbcast d a ty) d a ty Rnd.none s
def execVgath (d a b : Reg) (ty : Ty) (s : State) : Host.Outcome State Fault Refusal :=
  runSweep (.vgath d a b ty) ty [(d, some (tyNum ty)), (a, some (tyNum ty)), (b, some 6)] (some 0) Rnd.none 0 s
def execVscat (d a b : Reg) (ty : Ty) (s : State) : Host.Outcome State Fault Refusal :=
  runSweep (.vscat d a b ty) ty [(d, some (tyNum ty)), (a, some (tyNum ty)), (b, some 6)] (some 0) Rnd.none 0 s
def execViota (d : Reg) (ty : Ty) (s : State) : Host.Outcome State Fault Refusal :=
  runSweep (.viota d ty) ty [(d, some (tyNum ty))] (some 0) Rnd.none 0 s

/-! ## Arithmetic of one element -/

/-- The greater or smaller of two floating codes: −0 below +0, a NaN gives canonical NaN (Table 10.4, R103). -/
def pickFloat (t : Ty) (max : Bool) (x y : Nat) : Nat :=
  let a := t.value x
  let b := t.value y
  if a.isNan || b.isNan then t.fmt.nanCode
  else
    let c := a.cmp b
    let neg (v : Nat) : Bool := decide (2 ^ (t.fmt.bits - 1) ≤ v)
    let xGreater := decide (0 < c) || (decide (c = 0) && neg y)
    if xGreater = max then x else y

/-- The greater or smaller of two codes of a type. -/
def pick (t : Ty) (max : Bool) (x y : Nat) : Nat :=
  if t.isFloat then pickFloat t max x y
  else if decide (t.intOf y ≤ t.intOf x) = max then x else y

/-- DIV or DIVN at the width of a type (R89). -/
def divInt (t : Ty) (x y : Nat) : Nat :=
  if y = 0 then 2 ^ (8 * t.bytes) - 1 else t.codeInt ((t.intOf x).tdiv (t.intOf y))

/-- A shift right that fills with the top bit, at a width in bits (Table 10.4). -/
def sraBits (w x k : Nat) : Nat :=
  if 2 ^ (w - 1) ≤ x then (x / 2 ^ k + (2 ^ w - 2 ^ (w - k))) % 2 ^ w else x / 2 ^ k

/-- |x| and −x: the sign bit alone for floats; the most negative integer saturates (R200). -/
def signOp (t : Ty) (neg : Bool) (x : Nat) : Flagged Nat :=
  if t.isFloat then
    let w := t.fmt.bits
    if (t.value x).isNan then (t.fmt.nanCode, 0)
    else (if neg then (x + 2 ^ (w - 1)) % 2 ^ w else x % 2 ^ (w - 1), 0)
  else
    let v := t.intOf x
    clampInt t (if neg then -v else (v.natAbs : Int))

/-- A predicate on two codes (R202). -/
def vpredHolds (p : VPred) (t : Ty) (x y : Nat) : Bool :=
  let a := t.value x
  let b := t.value y
  if a.isNan || b.isNan then decide (p = .ne)
  else
    let c := a.cmp b
    match p with
    | .eq => decide (c = 0)
    | .ne => decide (c ≠ 0)
    | .lt => decide (c < 0)
    | .ge => decide (0 ≤ c)
    | .gt => decide (0 < c)
    | .le => decide (c ≤ 0)

/-- A float operation of two values, or of one, rounded once (R105). -/
def round2 (t : Ty) (md : RMode) (f : Val → Val → Flagged Val) (x y : Nat) : Flagged Nat :=
  roundFlagged t md (f (t.value x) (t.value y))
def round1 (t : Ty) (md : RMode) (f : Val → Flagged Val) (x : Nat) : Flagged Nat := roundFlagged t md (f (t.value x))

/-- a·b + c or a·b − c, exact then rounded once (R199). -/
def fmaCode (t : Ty) (md : RMode) (sub : Bool) (x y z : Nat) : Flagged Nat :=
  let p := (t.value x).mul (t.value y)
  let c := if sub then (t.value z).neg else t.value z
  let r := exactSum md [p.1, c]
  if c.isNan then (t.fmt.nanCode, 0)
  else
    let q := roundFlagged t md r
    (q.1, q.2 ||| p.2)

/-- One destination element of a member that works element by element, from its source codes in record order. -/
def elemOp (op : Instr) (md : RMode) (x : List Nat) : Flagged Nat :=
  let s (i : Nat) : Nat := x.getD i 0
  match op with
  | .vadd _ _ _ t _ =>
    if t.isFloat then round2 t md (fun u v => exactSum md [u, v]) (s 1) (s 2) else ((s 1 + s 2) % 2 ^ (8 * t.bytes), 0)
  | .vsub _ _ _ t _ =>
    if t.isFloat then round2 t md (fun u v => exactSum md [u, v.neg]) (s 1) (s 2)
    else ((s 1 + 2 ^ (8 * t.bytes) - s 2) % 2 ^ (8 * t.bytes), 0)
  | .vmul _ _ _ t _ => if t.isFloat then round2 t md Val.mul (s 1) (s 2) else (s 1 * s 2 % 2 ^ (8 * t.bytes), 0)
  | .vdiv _ _ _ t _ => if t.isFloat then round2 t md Val.div (s 1) (s 2) else (divInt t (s 1) (s 2), 0)
  | .vmin _ _ _ t => (pick t false (s 1) (s 2), 0)
  | .vmax _ _ _ t => (pick t true (s 1) (s 2), 0)
  | .vand _ _ _ _ => (s 1 &&& s 2, 0)
  | .vor _ _ _ _ => (s 1 ||| s 2, 0)
  | .vxor _ _ _ _ => (s 1 ^^^ s 2, 0)
  | .vshl _ _ _ t => (s 1 * 2 ^ (s 2 % (8 * t.bytes)) % 2 ^ (8 * t.bytes), 0)
  | .vshr _ _ _ t => (s 1 / 2 ^ (s 2 % (8 * t.bytes)), 0)
  | .vsra _ _ _ t => (sraBits (8 * t.bytes) (s 1) (s 2 % (8 * t.bytes)), 0)
  | .vfma _ _ _ t _ => fmaCode t md false (s 1) (s 2) (s 0)
  | .vfms _ _ _ t _ => fmaCode t md true (s 1) (s 2) (s 0)
  | .vabs _ _ t => signOp t false (s 1)
  | .vneg _ _ t => signOp t true (s 1)
  | .vsqrt _ _ t _ => round1 t md Val.sqrt (s 1)
  | .vrcp _ _ t _ => round1 t md (fun v => Val.div (.num false 1 0) v) (s 1)
  | .vrsq _ _ t _ => round1 t md Val.rsqrt (s 1)
  | .vexp _ _ t _ => round1 t md Val.exp (s 1)
  | .vexp2 _ _ t _ => round1 t md Val.exp2 (s 1)
  | .vlog2 _ _ t _ => round1 t md Val.log2 (s 1)
  | .vtanh _ _ t _ => round1 t md Val.tanh (s 1)
  | .vsigm _ _ t _ => round1 t md Val.sigm (s 1)
  | .vcmp _ _ _ t p => (if vpredHolds p t (s 1) (s 2) then 1 else 0, 0)
  | .vsel _ _ _ _ => (if s 1 ≠ 0 then s 2 else s 0, 0)
  | _ => (s 1, 0)

/-! ## Reductions and scans (R103, R104) -/

/-- A source element as a reduction takes it: f32 for a floating sum, 64 bits for an integer sum, its own code else. -/
def redIn (sum : Bool) (t : Ty) (x : Nat) : Nat :=
  if sum then (if t.isFloat then (roundTo .f32 .rne (t.value x)).1 else ((t.intOf x).emod (2 ^ 64)).toNat)
  else if t.isFloat ∧ (t.value x).isNan then t.fmt.nanCode
  else x

/-- Op of a reduction. -/
def redStep (op : RedOp) (t : Ty) (md : RMode) (x y : Nat) : Flagged Nat :=
  match op with
  | .sum => if t.isFloat then addF32 md x y else ((x + y) % 2 ^ 64, 0)
  | .max => (pick t true x y, 0)
  | .min => (pick t false x y, 0)
  | .and => (x &&& y, 0)
  | .or => (x ||| y, 0)

/-- One level of the pairwise tree. -/
def treeLevel (f : Nat → Nat → Flagged Nat) : List Nat → Flagged (List Nat)
  | x :: y :: l =>
    let (z, f1) := f x y
    let (r, f2) := treeLevel f l
    (z :: r, f1 ||| f2)
  | l => (l, 0)

/-- Tree of R103, by fuel: the number of levels. -/
def tree (f : Nat → Nat → Flagged Nat) : Nat → List Nat → Flagged Nat
  | 0, l => (l.headD 0, 0)
  | k + 1, l =>
    if l.length ≤ 1 then (l.headD 0, 0)
    else
      let (m, f1) := treeLevel f l
      let (r, f2) := tree f k m
      (r, f1 ||| f2)

/-- The 64-bit result of a reduction (Table 10.6). -/
def redOut (op : RedOp) (t : Ty) (x : Nat) : Word :=
  match op with
  | .max | .min => if t.isSigned then word ((t.intOf x).emod (2 ^ 64)).toNat else word x
  | .sum | .and | .or => word x

/-- A scan over the elements of a beat: running value, results, flags (R205). -/
def scanGo (op : ScanOp) (t : Ty) (md : RMode) : Option Nat → List Nat → Option Nat × List Nat × Nat
  | run, [] => (run, [], 0)
  | run, x :: xs =>
    let v := redIn (op = .sum) t x
    let (r, f1) := match run with
      | none => (v, 0)
      | some p => redStep (match op with | .sum => .sum | .max => .max) t md p v
    let (o, f2) : Flagged Nat := match op with
      | .sum => if t.isFloat then roundTo t md (Ty.f32.value r) else (r % 2 ^ (8 * t.bytes), 0)
      | .max => (r, 0)
    let (run', os, f3) := scanGo op t md (some r) xs
    (run', o :: os, f1 ||| f2 ||| f3)

/-! ## Beats -/

def Sweep.recOf (sw : Sweep) (i : Nat) : Shape := recAt sw.recs i

/-- The record whose shape gives the order: the destination, or VRED's source. -/
def Sweep.lead (sw : Sweep) : Shape := sw.recOf 0

def Sweep.isBlock (sw : Sweep) : Bool :=
  match sw.op with
  | .vpack .. | .vunpk .. => true
  | _ => false

/-- w of R190; one block for VPACK and VUNPK. -/
def Sweep.beatSize (sw : Sweep) : Nat :=
  if sw.isBlock then 32 else 64 / Nat.max 1 (sw.recs.foldl (fun m r => Nat.max m r.width) 1)

def Sweep.total (sw : Sweep) : Nat := sw.lead.count

def Sweep.beats (sw : Sweep) : Nat := ceilDiv sw.total sw.beatSize

/-- The ordinals of the beat that comes next. -/
def Sweep.beatRange (sw : Sweep) : List Nat :=
  let lo := sw.beat * sw.beatSize
  (List.range (Nat.min sw.beatSize (sw.total - lo))).map (lo + ·)

/-- Reads an element of a record by index vector: its code. -/
def State.readElem (s : State) (tid : Nat) (r : Shape) (idx : List Nat) : Nat :=
  match s.ownKey tid (r.offset idx) with
  | some k => s.spadRead k r.width
  | none => 0

/-- The bytes of a q4x block of a record by its ordinal. -/
def State.readBlock (s : State) (tid : Nat) (r : Shape) (b : Nat) : List Nat :=
  let off := r.offset (indexOf r.ext (32 * b))
  (List.range 18).map (fun (i : Nat) => match s.ownKey tid (off + ((i : Nat) : Int)) with
    | some k => (s.spad.read k).toNat
    | none => 0)

/-- The scratchpad bytes of element or block `p` of a record. -/
def State.elemKeys (s : State) (tid : Nat) (r : Shape) (idx : List Nat) : List Nat :=
  (List.range r.width).filterMap (fun (b : Nat) => s.ownKey tid (r.offset idx + ((b : Nat) : Int)))

/-- The records that a member reads, by place in its list. -/
def Sweep.sources (sw : Sweep) : List Nat :=
  match sw.op with
  | .vred .. => [0]
  | .vsel .. | .vfma .. | .vfms .. => [0, 1, 2]
  | .viota .. => []
  | _ => (List.range sw.recs.length).filter (fun i => decide (i ≠ 0))

/-- The index vectors of a source that destination element `p` needs, before any index record is read. -/
def Sweep.srcIdx (sw : Sweep) (i p : Nat) : List Nat :=
  match sw.op with
  | .vbcast .. => indexOf (sw.recOf i).ext (p % Nat.max 1 (sw.recOf i).count)
  | .vpack .. | .vunpk .. => indexOf (sw.recOf i).ext p
  | _ => indexOf sw.lead.ext p

/-- The bytes taken from the channel of source `i` that element `p` needs, with their poison. -/
def Sweep.inBytes (sw : Sweep) (i p : Nat) : List (Byte × Bool) :=
  let r := sw.recOf i
  let first := match sw.op with
    | .vbcast .. => (p % Nat.max 1 r.count) * r.width
    | _ => (p - sw.beat * sw.beatSize) * r.width
  (((Store.find sw.inb i).getD []).drop first).take r.width

/-- The value of element `p` of source `i`: from its channel's bytes, or from scratchpad. -/
def State.srcCode (s : State) (sw : Sweep) (i p : Nat) : Nat :=
  let r := sw.recOf i
  if r.chan then leNat ((sw.inBytes i p).map (·.1)) else s.readElem sw.tid r (sw.srcIdx i p)

/-- The next beat takes a poisoned word of a channel source. -/
def Sweep.inBad (sw : Sweep) : Bool :=
  sw.sources.any (fun i => (sw.recOf i).chan && sw.beatRange.any (fun p => (sw.inBytes i p).any (·.2)))

/-- The scratchpad bytes that the next beat reads of a source. -/
def State.sourceReads (s : State) (sw : Sweep) (i : Nat) : List Nat :=
  let r := sw.recOf i
  if r.chan then []
  else sw.beatRange.flatMap (fun p => match sw.op, i with
    | .vgath .., 1 =>
      let k := s.srcCode sw 2 p
      if k < r.count then s.elemKeys sw.tid r (indexOf r.ext k) else []
    | _, _ => s.elemKeys sw.tid r (sw.srcIdx i p))

/-- The scratchpad bytes that the next beat reads, all sources together. -/
def State.beatReads (s : State) (sw : Sweep) : List Nat := sw.sources.flatMap (s.sourceReads sw)

/-- The codes of one beat: (index vector of the destination, code) with flags, and the running value. -/
def State.beatResult (s : State) (sw : Sweep) : List (List Nat × Nat) × Option Nat × Nat :=
  let ps := sw.beatRange
  let d := sw.lead
  let src (i p : Nat) := s.srcCode sw i p
  match sw.op with
  | .vred _ _ t _ op =>
    let lanes := ps.map (fun p => redIn (op = .sum) t (src 0 p))
    let (x, f1) := tree (redStep op t sw.md) 7 lanes
    let (r, f2) := match sw.run with
      | none => (x, 0)
      | some acc => redStep op t sw.md acc x
    ([], some r, f1 ||| f2)
  | .vscan _ _ t _ op =>
    let (run, os, fl) := scanGo op t sw.md sw.run (ps.map (src 1))
    (List.zip (ps.map (indexOf d.ext)) os, run, fl)
  | .vcvt _ _ t _ =>
    let st := (Ty.ofCode (BitVec.ofNat 4 (sw.recOf 1).ty)).getD t
    let rs := ps.map (fun p => roundTo t sw.md (st.value (src 1 p)))
    (List.zip (ps.map (indexOf d.ext)) (rs.map (·.1)), sw.run, rs.foldl (fun f r => f ||| r.2) 0)
  | .vunpk _ _ t _ =>
    let (vs, f0) := decodeQ4X (s.readBlock sw.tid (sw.recOf 1) sw.beat)
    let rs := vs.map (roundTo t sw.md)
    (List.zip (ps.map (indexOf d.ext)) (rs.map (·.1)), sw.run, rs.foldl (fun f r => f ||| r.2) f0)
  | .vgath .. =>
    let a := sw.recOf 1
    (ps.map (fun p =>
      let k := src 2 p
      (indexOf d.ext p, if k < a.count then s.readElem sw.tid a (indexOf a.ext k) else 0)), sw.run, 0)
  | .vscat .. =>
    ((ps.map (fun p => (src 2 p, src 1 p))).filterMap (fun x => if x.1 < d.count then some (indexOf d.ext x.1, x.2) else none),
      sw.run, 0)
  | .viota _ t =>
    let rs := ps.map (fun (p : Nat) => if t.isFloat then roundTo t .rne (Val.ofInt (p : Int)) else ((p % 2 ^ (8 * t.bytes), 0) : Flagged Nat))
    (List.zip (ps.map (indexOf d.ext)) (rs.map (·.1)), sw.run, rs.foldl (fun f r => f ||| r.2) 0)
  | op =>
    let old (p : Nat) : Nat := match op with
      | .vfma .. | .vfms .. | .vsel .. => src 0 p
      | _ => 0
    let rs := ps.map (fun p => elemOp op sw.md [old p, src 1 p, src 2 p])
    (List.zip (ps.map (indexOf d.ext)) (rs.map (·.1)), sw.run, rs.foldl (fun f r => f ||| r.2) 0)

/-- Poison on the 64-byte units of written bytes: set where the data carries it; a unit written whole by clean data is
cleared (R359). DEDUCED, log entry 29. -/
def State.poisonWrite (s : State) (keys : List Nat) (bad : Bool) : State :=
  if bad then { s with spadPois := (keys.map (· / 64)).foldl (fun l u => if l.contains u then l else u :: l) s.spadPois }
  else if s.spadPois = [] then s
  else { s with spadPois := s.spadPois.filter (fun u =>
    !((List.range 64).all (fun b => keys.contains (u * 64 + b)))) }

/-- Performs the next beat: all its reads, then its writes (R195). -/
def State.doBeat (s : State) (sw : Sweep) : State × Sweep :=
  let bad := (s.beatReads sw).any (fun k => s.spadPoisoned k 1) || sw.inBad
  let last := decide (sw.beat + 1 = sw.beats)
  let (ws, run, fl) := s.beatResult sw
  let d := sw.lead
  let used (i : Nat) (l : List (Byte × Bool)) : List (Byte × Bool) := match sw.op with
    | .vbcast .. => l
    | _ => l.drop (sw.beatRange.length * (sw.recOf i).width)
  let sw1 := { sw with beat := sw.beat + 1, run := run, flags := sw.flags ||| fl, pois := sw.pois || bad
                       inb := sw.inb.map (fun (p : Nat × List (Byte × Bool)) => (p.1, used p.1 p.2)) }
  match sw.op with
  | .vred .. => (s, sw1)
  | .vpack _ _ _ =>
    let st := (Ty.ofCode (BitVec.ofNat 4 (sw.recOf 1).ty)).getD .f32
    let (bytes, f2) := encodeQ4X sw.md (sw.beatRange.map (fun p => st.value (s.srcCode sw 1 p)))
    let keys := s.elemKeys sw.tid d (indexOf d.ext (32 * sw.beat))
    let s1 := { s with spad := (List.zip keys bytes).foldl (fun (m : Memory) (p : Nat × Nat) => m.write p.1 (BitVec.ofNat 8 p.2)) s.spad }
    (s1.poisonWrite keys bad, { sw1 with flags := sw1.flags ||| f2 })
  | _ =>
    if d.chan then
      let bytes := (ws.flatMap (fun w => leBytes d.width w.2)).map (fun b => (b, bad))
      let out := sw1.out ++ bytes
      let pad := if last then List.replicate ((8 - out.length % 8) % 8) ((0 : Byte), false) else []
      (s, { sw1 with out := out ++ pad })
    else
      let s1 := ws.foldl (fun s w => match s.ownKey sw.tid (d.offset w.1) with
        | some k => s.spadWrite k d.width w.2
        | none => s) s
      (s1.poisonWrite (ws.flatMap (fun w => s.elemKeys sw.tid d w.1)) bad, sw1)

/-- The scratchpad bytes that the next beat writes. -/
def State.beatWrites (s : State) (sw : Sweep) : List Nat :=
  let d := sw.lead
  match sw.op with
  | .vred .. => []
  | .vpack _ _ _ => s.elemKeys sw.tid d (indexOf d.ext (32 * sw.beat))
  | _ => if d.chan then [] else (s.beatResult sw).1.flatMap (fun w => s.elemKeys sw.tid d w.1)

/-- The energy of the next beat: the beat, and a scratchpad access for each record it reads or writes (R329).
DEDUCED, log entry 35. -/
def State.beatFj (s : State) (sw : Sweep) : Nat :=
  8000 + 6000 * ((sw.sources.map (fun i => unitCount (s.sourceReads sw i))).sum + unitCount (s.beatWrites sw))

/-- The channel source that the next beat still needs bytes from, if any. A VBCAST takes its source's elements up to the
last that the beat reads, and no element that none of its beats reads (DESIGN CHOICE where E_a is above E_d, log entry 68). -/
def Sweep.starved (sw : Sweep) : Option Nat :=
  sw.sources.find? (fun i =>
    let r := sw.recOf i
    let have_ := ((Store.find sw.inb i).getD []).length
    let need := match sw.op with
      | .vbcast .. => Nat.min r.count (sw.beat * sw.beatSize + sw.beatRange.length) * r.width
      | _ => sw.beatRange.length * r.width
    r.chan && decide (have_ < need))

/-- One small step of a running sweep: a word to the send queue, a word from a channel, or a beat; none when it is held
(R193, R196). -/
def State.sweepStep (s : State) (sw : Sweep) : Option (State × Sweep) :=
  if 8 ≤ sw.out.length then
    match Store.find s.sync.sends sw.tid, s.sendTargetOf sw.tid (sw.lead.base &&& 0xFFFFFFFF) with
    | none, some t =>
      let x : Send := { target := t, chan := BitVec.ofNat 5 (chanNumber sw.lead), value := word (leNat ((sw.out.take 8).map (·.1)))
                        pois := (sw.out.take 8).any (·.2) }
      some (({ s with sync := { s.sync with sends := Store.put s.sync.sends sw.tid x } }).setMark sw.tid,
            { sw with out := sw.out.drop 8 })
    | _, _ => none
  else if sw.beats ≤ sw.beat then none
  else match sw.starved with
    | some i =>
      let c := chanNumber (sw.recOf i)
      let t := s.thread sw.tid
      if t.present c then
        some (s.updThread sw.tid (·.setPresent c false),
              { sw with inb := Store.put sw.inb i (((Store.find sw.inb i).getD [])
                ++ (leBytes 8 (t.g.toList.getD c 0).toNat).map (fun b => (b, t.pois.getLsbD c))) })
      else none
    | none =>
      if (s.beatReads sw).any (fun k => (s.windowBlocks k 1).isSome) then none
      else some ((s.charge (s.mapOf sw.tid) (s.beatFj sw)).doBeat sw)

/-- Small steps while there are any, by fuel. -/
def State.sweepRun (s : State) (sw : Sweep) : Nat → State × Sweep
  | 0 => (s, sw)
  | f + 1 => match s.sweepStep sw with
    | some (s1, sw1) => s1.sweepRun sw1 f
    | none => (s, sw)

/-- The access of the same bundle can no longer trap: what an engine or a register would show of the bundle waits for that
(R135). -/
def State.depClear (s : State) : Option Nat → Bool
  | none => true
  | some id => (match s.acc id with
    | some a => (match a.state with
      | .held | .sent | .failed _ _ => false
      | .accepted | .waiting | .performed _ _ => true)
    | none => true) && (match Store.find s.treqs id with
      | some q => q.queued.isSome
      | none => true) && (match Store.find s.sync.ctxs id with
      | some c => decide (c.2 ≠ .travelling)
      | none => true)

/-- A sweep may start beside the scalar slot of its bundle: a wait of that slot holds it back no more than its reply
does, but a release is performed first, and a trap on its way cancels it (R135, R188). DEDUCED, log entry 30. -/
def State.besideClear (s : State) : Option Nat → Bool
  | none => true
  | some id => (match s.acc id with
    | some a => (match a.state with
      | .held | .sent => !a.ord.isRel
      | .failed _ _ => false
      | .accepted | .waiting | .performed _ _ => true)
    | none => true) && (Store.find s.sync.ctxs id).isNone

/-- A sweep starts while its bundle's scalar slot awaits an answer: the bundle's vector slot has been performed, and only its
scalar slot would be issued again (R170, R188). DEDUCED, log entry 30. -/
def State.startBeside (s : State) (tid : Nat) : Option Nat → State
  | none => s
  | some id => match s.acc id, Store.find s.treqs id with
    | some a, _ => let (s1, h) := s.freeVector tid id a.hold; { s1 with accs := Store.upd s1.accs id (fun a => { a with hold := h }) }
    | none, some q => let (s1, h) := s.freeVector tid id q.hold; { s1 with treqs := Store.upd s1.treqs id (fun q => { q with hold := h }) }
    | none, none => s

/-- Sweeps run in a thread's partition: its stop has not been reached (R315). -/
def State.runsFor (s : State) (tid : Nat) : Bool :=
  match s.partOf tid with
  | some p => !(s.part p).stop.due s.cycle
  | none => false

def State.sweepQueue (s : State) (core : Nat) : List Sweep := (Store.find s.eng.sweeps core).getD []

def State.setSweeps (s : State) (core : Nat) (q : List Sweep) : State :=
  { s with eng := { s.eng with sweeps := if q = [] then Store.del s.eng.sweeps core else Store.put s.eng.sweeps core q } }

/-- A sweep that has done every beat and sent every word. -/
def Sweep.done (sw : Sweep) : Bool := decide (sw.beats ≤ sw.beat) && decide (sw.out.length < 8)

/-- A sweep that can start or go on now. -/
def State.sweepReady (s : State) (sw : Sweep) : Bool :=
  s.besideClear sw.dep && s.runsFor sw.tid && (s.sweepStep { sw with start := true }).isSome

/-- A sweep that is under way and can go on, or has nothing left to do. -/
def State.sweepEnding (s : State) (sw : Sweep) : Bool :=
  sw.start && s.runsFor sw.tid && (sw.done || (s.sweepStep sw).isSome)

/-- The first sweep of a queue that is the oldest of its launch and is `ready`, with its place: a launch's sweeps run in
issue order, and one that is held holds no other launch's (R46, R188). -/
def State.pickSweep (s : State) (ready : Sweep → Bool) (seen : List (Option Nat)) (i : Nat) :
    List Sweep → Option (Nat × Sweep)
  | [] => none
  | sw :: q =>
    let l := s.launchOf sw.tid
    if !seen.contains l && ready sw then some (i, sw) else s.pickSweep ready (l :: seen) (i + 1) q

/-- SWEEP_START: a core's sweep starts, or goes on, for some small steps. -/
def execSweepStart (core beats : Nat) (s : State) : Host.Outcome State Fault Refusal :=
  let q := s.sweepQueue core
  .next (match s.pickSweep s.sweepReady [] 0 q with
    | some (i, sw) =>
      let s0 := s.startBeside sw.tid sw.dep
      let (s1, sw1) := s0.sweepRun { sw with start := true, dep := none } beats
      s1.setSweeps core ((s0.sweepQueue core).set i sw1)
    | none => s)

/-- A thread's bundle will be issued again whole: nothing of it counts as performed, and the waits that only its next
issue would look at are dropped. -/
def Thread.restart (t : Thread) : Thread :=
  { t with sonly := false, waits := t.waits.filter (fun w => match w with
             | .chan _ | .window _ _ _ _ | .sendEntry | .copyEntry | .cvEntry | .depEntry | .callq | .fence | .drain _ _ | .stop _
             | .time _ | .quiesce _ | .order => false
             | .access _ | .sweep _ | .matrix _ | .semp _ _ | .gen _ _ | .dtwait _ | .phase | .quiet | .migr _ | .tenure _ | .call
             | .shootdown _ | .parked => true)
           sys := { t.sys with hargs := none } }

/-- What a finished sweep gives its thread: flags, VRED's result, or the trap of a poisoned VRED, whose bundle is the
resumption point (R197, R204, R214). -/
def State.endSweep (s : State) (sw : Sweep) : State :=
  let s1 := (s.orFlags sw.tid sw.flags).unblock sw.tid (.sweep 0)
  match sw.op with
  | .vred _ _ t _ op =>
    if sw.pois then (s1.updThread sw.tid Thread.restart).trapThread sw.tid 0x13 (Config.trapValue 2 sw.lead.base 0) sw.pc sw.left
    else s1.updThread sw.tid (·.setReg sw.dreg (redOut op t (sw.run.getD 0)))
  | _ => s1

/-- SWEEP_FINISH: a sweep under way does its remaining beats and finishes, unless it is held. -/
def execSweepFinish (core : Nat) (s : State) : Host.Outcome State Fault Refusal :=
  let q := s.sweepQueue core
  .next (match s.pickSweep s.sweepEnding [] 0 q with
    | some (i, sw) =>
      let (s1, sw1) := s.sweepRun sw (20 * (sw.beats + 1))
      if sw1.done then (s1.setSweeps core (q.eraseIdx i)).endSweep sw1 else s1.setSweeps core (q.set i sw1)
    | none => s)

/-! ## VPART -/

/-- The part of R212: first and L for part `j` of `p`. -/
def partOfShape (e grain p j : Nat) : Nat × Nat :=
  let g := ceilDiv e grain
  let first := j * g / p * grain
  (first, Nat.min ((j + 1) * g / p * grain) e - first)

/-- Sets one 16-bit field of a word. -/
def setField16 (w : Word) (j v : Nat) : Word :=
  (w &&& ~~~ ((0xFFFF : Word) <<< (16 * j))) ||| (word (v % 2 ^ 16) <<< (16 * j))

/-- VPART. A q4x part whose first index times the stride is no multiple of 32 begins at the block that holds it (DESIGN
CHOICE, log entry 68); a record in a poisoned unit traps as those of a sweep do (DESIGN CHOICE, log entry 74). -/
def vpartOp (a b c : Reg) : Op Unit := do
  tenantOnly
  let s ← opGet
  let ra := s.reg a
  let rb := s.reg b
  let cut := s.reg c
  let ka ← opOk (s.localAddr s.cur ra)
  let kb ← opOk (s.localAddr s.cur rb)
  opCheck (decide (ka % 32 = 0)) 0x04 ra
  opCheck (decide (kb % 32 = 0)) 0x04 rb
  opCheck (decide (keyTile ka = tileOf s.cur)) 0x0C ra
  opCheck (decide (keyTile kb = tileOf s.cur)) 0x0C rb
  opCheck (!s.spadPoisoned kb 32) 0x13 (Config.poisonValue rb)
  let w := s.shapeWords kb
  opCheck (shapeOk w) 0x0C rb
  let r := shapeOf w
  let dim := (cut.extractLsb' 56 2).toNat
  let mode := (cut.extractLsb' 48 2).toNat
  let grain := (cut.extractLsb' 0 16).toNat
  let (_, l) ← (match (s.launchOf s.cur).bind s.launch with
    | some l => pure (0, l)
    | none => opTrap 0x02 0)
  let tiles := l.rows * l.cols
  let j := l.coreIndex (tileOf s.cur) (roleOf s.cur)
  let p := if mode = 0 then 3 * tiles else tiles
  let jj := if mode = 0 then j else j / 3
  let e := r.ext.getD dim 0
  let (first, len) := partOfShape e grain p jj
  let n : Int := first * r.str.getD dim 0
  let off := r.offset [] + (if r.ty = 12 then 18 * n.ediv 32 else r.width * n)
  opCheck (decide (cut &&& 0xFCFCFFFFFFFF0000 = 0) && decide (mode ≤ 1) && decide (grain ≠ 0) && decide (dim < r.rank)
    && !r.chan && !(r.ty = 12 && decide (dim = 0) && decide (grain % 32 ≠ 0)) && decide (p ≤ ceilDiv e grain)
    && decide (0 ≤ off) && decide (off < 2 ^ 20)) 0x0C cut
  opCheck (!s.tagged ka) 0x0D ra
  opCheck (!s.tagged (ka + 16)) 0x0D (ra + 16)
  let w0 := (w.getD 0 0 &&& 0xFFFFFFFFFFF00000) ||| word off.toNat
  opMod (fun s => { s with spad := (((s.spad.writeLe ka 8 w0.toNat).writeLe (ka + 8) 8 (w.getD 1 0).toNat).writeLe
    (ka + 16) 8 (setField16 (w.getD 2 0) dim len).toNat).writeLe (ka + 24) 8 (w.getD 3 0).toNat })

def execVpart (a b c : Reg) (s : State) : Host.Outcome State Fault Refusal := runOp (vpartOp a b c) s

end Sys2Proof.Machine
end

