-- ==== Sys2Proof/Machine/Engines.lean ====
section
/-! DEFINITION. Engine jobs (R215 to R233): dependency-table entries, footprints and edges, the copy requests, DTWAIT,
DTQRY, SWIN, and what a job's sectors do. -/

namespace Sys2Proof.Machine

/-! ## Entries -/

def State.job (s : State) (id : Nat) : Option Job := Store.find s.eng.jobs id

def State.setJob (s : State) (id : Nat) (j : Job) : State := { s with eng := { s.eng with jobs := Store.put s.eng.jobs id j } }

def State.updJob (s : State) (id : Nat) (f : Job → Job) : State :=
  { s with eng := { s.eng with jobs := Store.upd s.eng.jobs id f } }

/-- The job that holds a dependency-table entry of a tile. -/
def State.entryJob (s : State) (tile e : Nat) : Option (Nat × Job) :=
  s.eng.jobs.find? (fun j => decide (tileOf j.2.tid = tile) && decide (j.2.entry = some e))

/-- The lower-numbered free entry of a thread's slot (R215). -/
def State.freeEntry (s : State) (tid : Nat) : Option Nat :=
  [2 * slotOf tid, 2 * slotOf tid + 1].find? (fun e => (s.entryJob (tileOf tid) e).isNone)

/-- The FIFO entry of a thread's slot in its core's engine is free. -/
def State.fifoFree (s : State) (tid : Nat) : Bool := !s.eng.jobs.any (fun j => decide (j.2.tid = tid) && j.2.fifo)

/-- The ordinal of a physical entry in a slot set (R215). -/
def entryOrdinal (slots : BitVec 16) (e : Nat) : Nat := 2 * rankOf slots (e / 2) + e % 2

/-! ## Footprints and edges (R216, R217) -/

def FootPart.write : FootPart → Bool
  | .spad _ _ _ w => w
  | .label _ _ _ w => w

def FootPart.meets : FootPart → FootPart → Bool
  | .spad t a b _, .spad u c d _ => decide (t = u) && decide (a ≤ d) && decide (c ≤ b)
  | .label l a b _, .label m c d _ =>
    if l = m then decide (a ≤ d) && decide (c ≤ b) else lblAnc l m || lblAnc m l
  | _, _ => false

def footsMeet (a b : List FootPart) : Bool := a.any (fun p => b.any (fun q => (p.write || q.write) && p.meets q))

/-- The jobs that a new job of a thread takes an edge from. DEDUCED, log entry 66. -/
def State.edgesFor (s : State) (tid launch : Nat) (foot : List FootPart) : List Nat :=
  (s.eng.jobs.filter (fun j => decide (j.2.launch = launch) && decide (tileOf j.2.tid = tileOf tid)
    && footsMeet j.2.foot foot)).map (·.1)

/-- The edges that still hold a job back. -/
def State.openEdges (s : State) (j : Job) : List Nat := j.edges.filter (fun e => (s.job e).isSome)

/-- The launch in issue, 0 for none. -/
def State.myLaunchId (s : State) : Nat := (s.launchOf s.cur).getD 0

/-- Issues a job: it obtains its entries and takes its edges. -/
def State.issueJob (s : State) (j : Job) : State :=
  let j1 := { j with edges := s.edgesFor j.tid j.launch j.foot }
  { s.setJob s.next j1 with next := s.next + 1 }

/-- A job of the thread in issue with nothing done yet. -/
def State.newJob (s : State) (engine agent : Nat) (op : JobOp) (foot : List FootPart) : Job :=
  { tid := s.cur, launch := s.myLaunchId, level := s.me.level.toNat, slice := s.me.slice, entry := s.freeEntry s.cur
    engine := engine, agent := agent, op := op, sync := 0, sem := none, state := .queued, fifo := false, waits := false
    edges := [], foot := foot, pos := 0, sect := 0, flags := 0, dep := none, forum := none, mirr := [], away := false, pc := s.me.pc
    left := s.me.left, used := 0 }

/-! ## Local ranges -/

/-- The scratchpad key of an offset on a tile, for a thread's partition. -/
def State.bankKey (s : State) (tid tile : Nat) (off : Int) : Option Nat :=
  if off < 0 ∨ 0xC0000 ≤ off then none
  else match (s.partOf tid).bind (fun p => (s.part p).physBank (off.toNat / 2 ^ 15)) with
    | some b => some (tile * 2 ^ 20 + b * 2 ^ 15 + off.toNat % 2 ^ 15)
    | none => none

/-- The banks that a range of offsets touches are all the partition's, below 0xC0000. -/
def State.rangeOk (s : State) (tid off n : Nat) : Bool :=
  decide (off + n ≤ 0xC0000) && (List.range ((off + n - 1) / 2 ^ 15 - off / 2 ^ 15 + 1)).all
    (fun b => (s.bankKey tid 0 (((off / 2 ^ 15 + b) * 2 ^ 15 : Nat) : Int)).isSome)

/-- Reads 64-bit words of a record on a thread's tile from an offset up. -/
def State.recWords (s : State) (tid off n : Nat) : List Word :=
  (List.range n).map (fun i => match s.bankKey tid (tileOf tid) ((off + 8 * i : Nat) : Int) with
    | some k => word (s.spadRead k 8)
    | none => 0)

/-- Some of these words lies in a poisoned unit. -/
def State.recPoisoned (s : State) (tid off n : Nat) : Bool :=
  (List.range n).any (fun i => match s.bankKey tid (tileOf tid) ((off + 8 * i : Nat) : Int) with
    | some k => s.spadPoisoned k 8
    | none => false)

/-- SELF with an offset: how a trap names a byte of the issuing tile, whichever form the program gave.
DESIGN CHOICE, log entry 68. -/
def selfAddr (off : Nat) : Word := 0x4000000000000000 ||| word off

/-- The offset field of a local address. -/
def addrOff (a : Word) : Nat := a.toNat % 2 ^ 20

/-! ## Copy records (R125, R221, R222) -/

/-- A record from its eight words (Table 6.13). -/
def copyRecOf (w : List Word) : CopyRec :=
  let h (i : Nat) : Nat := (w.getD (i / 2) 0).toNat / 2 ^ (32 * (i % 2)) % 2 ^ 32
  let w5 := w.getD 5 0
  { ext := (List.range 4).map h, gstr := (List.range 4).map (fun i => signedField (h (4 + i)) 32), clip := [h 8, h 9]
    ty := (w5.extractLsb' 0 4).toNat, rank := (w5.extractLsb' 4 2).toNat + 1, mdim := (w5.extractLsb' 8 2).toNat
    mrows := (w5.extractLsb' 16 5).toNat, mcols := (w5.extractLsb' 24 5).toNat, mblock := (w5.extractLsb' 32 32).toNat
    goff := w.getD 6 0 }

/-- Strides of a dense array. -/
def denseStrides : List Nat → Int → List Int
  | [], _ => []
  | d :: ds, k => k :: denseStrides ds (k * d)

/-- The strides a kind uses on its label side: dense for kind 0. -/
def CopyRec.strides (r : CopyRec) (kind : Nat) : List Int := if kind = 0 then denseStrides r.ext 1 else r.gstr

/-- Check 3 of R221. DEDUCED, log entry 33. -/
def copyRecOk (kind : Nat) (w : List Word) : Bool :=
  let r := copyRecOf w
  let w5 := w.getD 5 0
  let mesh := decide (kind = 2)
  let block := decide (kind = 3) || decide (kind = 8) || decide (kind = 9)
  decide (w5 &&& 0x00000000E0E0FCC0 = 0) && decide (w.getD 7 0 = 0) && decide (r.ty ≤ 12)
    && (List.range 4).all (fun j => if j < r.rank then decide (1 ≤ r.ext.getD j 0) else decide (r.ext.getD j 0 = 1))
    && (if mesh then decide (1 ≤ r.mblock) && decide (r.mdim < r.rank)
        else decide (r.mdim = 0) && decide (r.mrows = 0) && decide (r.mcols = 0) && decide (r.mblock = 0))
    && (!block || (decide (r.rank = 1) && r.gstr.all (fun x => decide (x = 0)) && r.clip.all (fun x => decide (x = 0))))
    && (decide (kind ≠ 0) || r.gstr.all (fun x => decide (x = 0)))
    && (decide (kind ≠ 3) || decide (r.ty ≤ 11))
    && (!(kind = 5 || kind = 6) || [2, 3, 6, 7, 8].contains r.ty)
    && (!(kind = 8 || kind = 9) || decide (r.goff.toNat < 2 ^ 32))
    && (decide (r.ty ≠ 12) || block || (decide (r.ext.getD 0 0 % 32 = 0) && decide (r.clip.getD 0 0 % 32 = 0)
        && decide ((r.strides kind).getD 0 0 = 1)
        && (List.range 4).all (fun j => decide (j = 0) || decide (r.rank ≤ j)
          || decide (((r.strides kind).getD j 0).emod 32 = 0))))

/-- A put: kinds 4, 5, 6 and 8 read their local side. -/
def kindPuts (kind : Nat) : Bool := kind = 4 || kind = 5 || kind = 6 || kind = 8

/-- Units of a record: elements, or q4x blocks; and their width. -/
def CopyRec.units (r : CopyRec) : Nat := prod (unitDims r.ty r.ext)
def CopyRec.width (r : CopyRec) : Nat := unitBytes r.ty

/-- The tiles of a mesh slab (R224). -/
def CopyRec.meshTiles (r : CopyRec) : Nat := (r.mrows + 1) * (r.mcols + 1)

/-- LT of R224. -/
def CopyRec.meshLocal (r : CopyRec) : Nat :=
  ceilDiv (ceilDiv (r.ext.getD r.mdim 0) r.mblock) r.meshTiles * r.mblock

/-- The extents of one tile's local side of a mesh slab. -/
def CopyRec.meshExt (r : CopyRec) : List Nat :=
  (List.range 4).map (fun j => if j = r.mdim then r.meshLocal else r.ext.getD j 0)

/-- Bytes of a job's local side on one tile. -/
def CopyRec.localBytes (r : CopyRec) (kind : Nat) : Nat :=
  match kind with
  | 2 => prod (unitDims r.ty r.meshExt) * r.width
  | 3 => 8 + r.ext.getD 0 0 * r.width
  | _ => r.units * r.width

/-- The index vector, in elements, of unit `u`. -/
def CopyRec.index (r : CopyRec) (u : Nat) : List Nat := indexOf r.ext (u * unitElems r.ty)

/-- The byte of the label's node where unit `u` lies (R222). -/
def CopyRec.labelOff (r : CopyRec) (kind u : Nat) : Int :=
  let e := strided (r.strides kind) (r.index u)
  (r.goff.toNat : Int) + (if r.ty = 12 then 18 * e.ediv 32 else r.width * e)

/-- Unit `u` lies at or beyond a bound. -/
def CopyRec.clipped (r : CopyRec) (u : Nat) : Bool :=
  let idx := r.index u
  (List.range 2).any (fun j => decide (r.clip.getD j 0 ≠ 0) && decide (r.clip.getD j 0 ≤ idx.getD j 0))

/-- The tile and the byte of the local side where unit `u` lies (R222, R224). A q4x block of a mesh slab goes whole where its
first element goes. DESIGN CHOICE, log entry 68. -/
def CopyRec.localPlace (r : CopyRec) (kind tile u : Nat) : Nat × Nat :=
  if kind = 2 then
    let idx := r.index u
    let i := idx.getD r.mdim 0
    let b := i / r.mblock
    let t := b % r.meshTiles
    let li := b / r.meshTiles * r.mblock + i % r.mblock
    let lidx := (List.range 4).map (fun j => if j = r.mdim then li else idx.getD j 0)
    let row := (tileRow tile + t / (r.mcols + 1)) % 32
    let col := (tileCol tile + t % (r.mcols + 1)) % 32
    (row * 32 + col, elemOf r.meshExt lidx / unitElems r.ty * r.width)
  else (tile, u * r.width)

/-- The least and greatest of some numbers. -/
def spanOf (l : List Int) : Int × Int :=
  match l with
  | [] => (0, -1)
  | x :: xs => xs.foldl (fun p y => (if y < p.1 then y else p.1, if p.2 < y then y else p.2)) (x, x)

/-- The footprint of a copy job: the label side covers the elements that the bounds leave (R216, R223).
DEDUCED, log entry 33. -/
def copyFoot (tid kind : Nat) (src dst : Word) (r : CopyRec) (blockBytes : Nat) : List FootPart :=
  let loc := if kindPuts kind then src else dst
  let lab := if kindPuts kind then dst else src
  let tile := (State.addrTile tid loc).getD 0
  let off := addrOff loc
  let tiles := if kind = 2 then (List.range r.meshTiles).map (fun t =>
      ((tileRow tile + t / (r.mcols + 1)) % 32) * 32 + (tileCol tile + t % (r.mcols + 1)) % 32) else [tile]
  let live := (List.range r.units).filter (fun u => !r.clipped u)
  let (lo, hi) := spanOf (live.map (fun u => r.labelOff kind u))
  let side := match kind with
    | 3 => [FootPart.label lab 0 (2 ^ 41) false]
    | 8 | 9 => [FootPart.label lab 0 ((blockBytes : Int) - 1) (decide (kind = 8))]
    | _ => if live = [] then [] else [FootPart.label lab lo (hi + r.width - 1) (kindPuts kind)]
  side ++ tiles.map (fun t => FootPart.spad t off (off + r.localBytes kind - 1) (!kindPuts kind))

/-- S of the block that a label names, for the footprint of kinds 8 and 9; of a set that another module homes, the most that
its record's EXT0 allows (R280; DEDUCED, log entry 33). -/
def State.blockBytesOf (s : State) (map : Nat) (l : Word) (r : CopyRec) : Nat :=
  match (canonAt s.maps map l).bind (fun p => s.node p.2.node) with
  | some n => if n.kind = 4 then n.blockBytes else 12 * r.ext.getD 0 0
  | none => 12 * r.ext.getD 0 0

/-! ## CPYQ and CPYQT -/

/-- Rows 7 and 8 of R221: the SYNC word's address and the semaphore. -/
def signalOp (sync : Word) (sv : Bool) (semo : Nat) : Op (Option Nat) := do
  let s ← opGet
  if sync ≠ 0 then
    let k ← opOk (s.localAddr s.cur sync)
    opCheck (decide (k % 16 = 0)) 0x04 sync
  if sv then
    match (if semo < 2 * popOf s.mySlots then ordinalPair s.mySlots semo else none) with
    | some n => pure (some (tileOf s.cur * 32 + n))
    | none => opTrap 0x05 (word semo)
  else pure none

/-- The checks of R221 in order; gives the job. A record in a poisoned unit traps when it is read (R359; DESIGN CHOICE, log
entry 74). -/
def copyRequest (a : Reg) : Op Job := do
  tenantOnly
  let s ← opGet
  let w0 := s.reg a
  let src := s.reg (Reg.succ a)
  let dst := s.reg (Reg.succ (Reg.succ a))
  let sync := s.reg (Reg.succ (Reg.succ (Reg.succ a)))
  let kind := (w0.extractLsb' 56 8).toNat
  let off := (w0.extractLsb' 0 20).toNat
  opCheck (decide (kind ≤ 9) && decide (w0 &&& 0x0060FFFFFFF00000 = 0) && decide (off % 64 = 0)) 0x0C w0
  opCheck (s.rangeOk s.cur off 64) 0x05 (selfAddr off)
  opCheck (!s.recPoisoned s.cur off 8) 0x13 (Config.poisonValue (selfAddr off))
  let ws := s.recWords s.cur off 8
  opCheck (copyRecOk kind ws) 0x0C (selfAddr off)
  let r := copyRecOf ws
  let loc := if kindPuts kind then src else dst
  let lab := if kindPuts kind then dst else src
  let _ ← opOk (s.localAddr s.cur loc)
  opCheck (s.rangeOk s.cur (addrOff loc) (r.localBytes kind)) 0x05 loc
  let al := if kind = 3 then 8 else if r.ty = 12 then 1 else r.width
  opCheck (decide (addrOff loc % al = 0)) 0x04 loc
  opCheck (lblValid lab) 0x07 lab
  let sem ← signalOp sync (w0.getLsbD 55) (w0.extractLsb' 48 5).toNat
  let s ← opGet
  pure { s.newJob 1 1 (.copy kind src dst r) (copyFoot s.cur kind src dst r (s.blockBytesOf (s.mapOf s.cur) lab r)) with
         sync := sync, sem := sem, fifo := true }

/-- A thread's entries for a copy or converter job are free. -/
def State.jobReady (s : State) (tid : Nat) : Bool := s.fifoFree tid && (s.freeEntry tid).isSome

def execCpyq (a : Reg) (s : State) : Host.Outcome State Fault Refusal :=
  runOp (do
    let j ← copyRequest a
    let s ← opGet
    if s.jobReady s.cur then opMod (·.issueJob j) else opWait .copyEntry) s

def execCpyqt (d a : Reg) (s : State) : Host.Outcome State Fault Refusal :=
  runOp (do
    let j ← copyRequest a
    let s ← opGet
    if s.jobReady s.cur then
      opMod (fun s => (s.issueJob j).setReg d (word (entryOrdinal s.mySlots ((s.freeEntry s.cur).getD 0))))
    else opMod (·.setReg d Word.ones)) s

/-! ## DTWAIT, DTQRY and SWIN -/

/-- The physical entries that an operand names (R219). -/
def dtEntries (v : Word) : Op (List Nat) := do
  tenantOnly
  let s ← opGet
  if v = Word.ones then pure [2 * slotOf s.cur, 2 * slotOf s.cur + 1]
  else match (if v.toNat < 2 * popOf s.mySlots then ordinalPair s.mySlots v.toNat else none) with
    | some e => pure [e]
    | none => opTrap 0x05 v

def execDtwait (a : Reg) (s : State) : Host.Outcome State Fault Refusal :=
  runOp (do
    let es ← dtEntries (s.reg a)
    opMod (fun s => es.foldl (fun s e => match s.entryJob (tileOf s.cur) e with
      | some (id, _) => s.block s.cur (.dtwait id)
      | none => s) s)) s

/-- The word of Table 11.1 for a job; one with no open edge that has not started yet reads STATE 1 with EDGES 0.
DESIGN CHOICE, log entry 68. -/
def State.dtWord (s : State) (j : Job) : Word :=
  let edges := Nat.min (s.openEdges j).length 255
  let st := match j.state with
    | .queued => 1
    | .started => 2
    | .parked _ _ _ => 3
  word ((s.coreWord j.tid).toNat * 2 ^ 32 + edges * 2 ^ 16 + j.engine * 16 + st)

def execDtqry (d a : Reg) (s : State) : Host.Outcome State Fault Refusal :=
  runOp (do
    let v := s.reg a
    let es ← dtEntries v
    let s ← opGet
    let tile := tileOf s.cur
    if v = Word.ones then
      let held := (List.range 32).filter (fun i => match ordinalPair s.mySlots i with
        | some e => decide (i < 2 * popOf s.mySlots) && (s.entryJob tile e).isSome
        | none => false)
      opMod (·.setReg d (word (held.foldl (fun m i => m + 2 ^ i) 0)))
    else
      opMod (·.setReg d (match s.entryJob tile (es.headD 0) with
        | some (_, j) => s.dtWord j
        | none => 0))) s

/-- The number of windows of a slot set: its even slots (R28, R29). DEDUCED, log entry 32. -/
def windowOf (slots : BitVec 16) (i : Nat) : Option Nat :=
  (((List.range 16).filter (fun k => slots.getLsbD k && decide (k % 2 = 0)))[i]?).map (· / 2)

/-- An incomplete stream job writes somewhere in a range of a tile: it targets a window where any byte of its local side
lies in it (DESIGN CHOICE, log entry 74). -/
def State.streamInto (s : State) (tile lo hi : Nat) : Bool :=
  s.eng.jobs.any (fun j => match j.2.op with
    | .copy 7 _ dst r => decide (lo < hi) && decide (State.addrTile j.2.tid dst = some tile)
      && decide (lo ≤ addrOff dst + r.localBytes 7 - 1) && decide (addrOff dst < hi)
    | _ => false)

def swinOp (a b : Word) : Op Unit := do
  tenantOnly
  let s ← opGet
  let key ← opOk (s.localAddr s.cur a)
  let len := (b.extractLsb' 0 20).toNat
  let ord := (b.extractLsb' 32 3).toNat
  let win := windowOf s.mySlots ord
  opCheck (decide (keyTile key = tileOf s.cur) && (decide (len = 0) || s.rangeOk s.cur (addrOff a) len)
    && decide (addrOff a ≤ 0xC0000) && win.isSome) 0x05 a
  opCheck (decide (addrOff a % 64 = 0)) 0x04 a
  let k := tileOf s.cur * 8 + win.getD 0
  let old := (Store.find s.wins k).getD { base := 0, len := 0, wm := 0, landed := [] }
  opCheck (decide (b &&& 0xFFFFFFF8FFF00000 = 0) && decide (len % 64 = 0)
    && !(s.streamInto (tileOf s.cur) old.base (old.base + old.len))) 0x0C b
  opMod (fun s => { s with wins := Store.put s.wins k { base := addrOff a, len := len, wm := addrOff a, landed := [] } })

def execSwin (a b : Reg) (s : State) : Host.Outcome State Fault Refusal := runOp (swinOp (s.reg a) (s.reg b)) s

/-! ## What a sector does -/

/-- How an attempt at a job's next sector ends. -/
inductive SectorEnd where
  | done (s : State) (j : Job)
  | fault (s : State) (cause : Nat) (v : Word)
  | hold

/-- The label side of a job and whether it is a put. -/
def Job.labelOf (j : Job) : Word :=
  match j.op with
  | .copy kind src dst _ => if kindPuts kind then dst else src
  | .gather _ _ l _ => l
  | .handoff l .. | .handed l .. => l
  | _ => 0

/-- The holder a job acts for: its issuing core's, in its launch (R73, R222). -/
def State.jobHolder (s : State) (j : Job) : Holder :=
  match s.launch j.launch with
  | some l => if l.fused then { fused := true, unit := tileOf j.tid, launch := j.launch }
              else { fused := false, unit := coreOf j.tid, launch := j.launch }
  | none => match s.guest j.tid with
    | some g => g.holder
    | none => { fused := false, unit := coreOf j.tid, launch := j.launch }

/-- The page part of Translate for the elements of a sector, `w` bytes at each offset, in order. -/
def State.sectorPages (s : State) (map : Nat) (t : Target) (w : Nat) : List Int → State × Option (Nat × Word)
  | [] => (s, none)
  | o :: os => match s.pageChecks map (word o.toNat) (pagesOf (s.bytesOf t o.toNat w)) with
    | (s1, none) => s1.sectorPages map t w os
    | (s1, some e) => (s1, some e)

/-- Translates the elements of one sector of a label for a job: `w` bytes at each of some offsets, with the alignment `n`. -/
def State.sectorAt (s : State) (j : Job) (kind : AccKind) (l : Word) (offs : List Int) (w n : Nat) :
    State × Except (Nat × Word) Target :=
  let (lo, hi) := spanOf offs
  if lo < 0 then (s, .error (0x08, l))
  else
    let map := s.mapOf j.tid
    match s.translateIn map (coreTier j.tid) (tileTier j.tid) j.level kind l (word lo.toNat) n with
    | (s1, .error e) => (s1, .error e)
    | (s1, .ok t) => match s1.node t.node with
      | none => (s1, .error (0x06, l))
      | some nd =>
        let hit := (s.lookup map (coreTier j.tid) (tileTier j.tid) l (lo.toNat / 65536)).1
        if nd.extentFound t.child hit < hi.toNat + w then (s1, .error (0x08, l))
        else match s1.sectorPages map t w offs with
          | (s2, some e) => (s2, .error e)
          | (s2, none) => (s2, .ok t)

/-- The run of units from unit `u` on in one 64-byte unit of the label side, clipped units joining the run, by fuel. -/
def runLen (off : Nat → Int) (clip : Nat → Bool) (total : Nat) : Nat → Option Int → Nat → Nat
  | 0, _, _ => 0
  | f + 1, cur, u =>
    if total ≤ u then 0
    else if clip u then runLen off clip total f cur (u + 1) + 1
    else
      let k := (off u).ediv 64
      match cur with
      | none => runLen off clip total f (some k) (u + 1) + 1
      | some c => if c = k then runLen off clip total f cur (u + 1) + 1 else 0

/-- The number of units in the sector that begins at unit `u` (R232). DEDUCED, log entry 33. -/
def sectorLen (off : Nat → Int) (clip : Nat → Bool) (total u : Nat) : Nat := runLen off clip total (total - u) none u

/-- Writes bytes at scratchpad keys and carries poison (R231, R359). -/
def State.spadPut (s : State) (l : List (Nat × Byte)) (bad : Bool) : State :=
  let m : Memory := l.foldl (fun (m : Memory) (p : Nat × Byte) => m.write p.1 p.2) s.spad
  State.poisonWrite { s with spad := m } (l.map (fun p => p.1)) bad

/-- Writes bytes at scratchpad keys, each with its own poison (R231). -/
def State.spadLand (s : State) (cells : List (Nat × Byte × Bool)) : State :=
  let bad := cells.filter (fun q => q.2.2)
  let s1 := s.spadPut ((cells.filter (fun q => !q.2.2)).map (fun q => (q.1, q.2.1))) false
  if bad = [] then s1 else s1.spadPut (bad.map (fun q => (q.1, q.2.1))) true

/-- Advances a window's watermark over the bytes that have landed without a gap (R230), by fuel. -/
def Window.settle (w : Window) : Nat → Window
  | 0 => w
  | f + 1 => match w.landed.find? (fun p => decide (p.1 ≤ w.wm) && decide (w.wm < p.2)) with
    | some (lo, hi) => ({ w with wm := hi, landed := Store.del w.landed lo }).settle f
    | none => { w with landed := w.landed.filter (fun p => decide (w.wm < p.2)) }

/-- An interval that has landed, beside those from the same first byte. -/
def Window.land (w : Window) (lo hi : Nat) : Store Nat :=
  Store.put w.landed lo (Nat.max hi ((Store.find w.landed lo).getD 0))

/-- Bytes `lo` to `hi − 1` of a tile's offsets have landed by a stream job. -/
def State.landed (s : State) (tile lo hi : Nat) : State :=
  { s with wins := s.wins.map (fun w =>
      if w.1 / 8 = tile ∧ w.2.base ≤ lo ∧ hi ≤ w.2.base + w.2.len then
        let w1 := { w.2 with landed := if lo < hi then w.2.land lo hi else w.2.landed }
        (w.1, w1.settle (w1.landed.length + 1))
      else w) }

/-- The window of a tile that holds a whole range, if one is open. -/
def State.windowHolding (s : State) (tile lo hi : Nat) : Bool :=
  s.wins.any (fun w => decide (w.1 / 8 = tile) && decide (w.2.base ≤ lo) && decide (hi ≤ w.2.base + w.2.len))

/-- A byte of a label as an engine reads it: from its holder's L1, or the home, with its poison. -/
def State.engineByte (s : State) (h : Holder) (p : Nat × Nat) : Byte × Bool :=
  (s.seenByte h p.1 p.2, s.bytePoisoned h p.1 p.2)

/-- The local keys of unit `u` of a copy job. -/
def State.unitKeys (s : State) (j : Job) (kind : Nat) (loc : Word) (r : CopyRec) (u : Nat) : List (Option Nat) :=
  let tile := (State.addrTile j.tid loc).getD 0
  let (t, b) := r.localPlace kind tile u
  (List.range r.width).map (fun i => s.bankKey j.tid t ((addrOff loc + b + i : Nat) : Int))

/-- The local address of unit `u`, as a fault names it: from the operand up, or on its own tile of a mesh slab. -/
def unitAddr (tid kind : Nat) (loc : Word) (r : CopyRec) (u : Nat) : Word :=
  if kind = 2 then
    let (t, b) := r.localPlace 2 ((State.addrTile tid loc).getD 0) u
    word (tileRow t * 2 ^ 53 + tileCol t * 2 ^ 48 + (addrOff loc + b))
  else loc + word (u * r.width)

/-- A get of `n` units from unit `u`, each unit's bytes with their poison, written to the local side. -/
def State.getUnits (s : State) (j : Job) (kind : Nat) (dst : Word) (r : CopyRec) (u : Nat)
    (data : List (List (Byte × Bool))) : SectorEnd :=
  let keys := (List.range data.length).map (fun i => s.unitKeys j kind dst r (u + i))
  let flat := keys.flatten
  if flat.any (·.isNone) then .fault s 0x05 dst
  else match (List.range data.length).find? (fun i => (keys.getD i []).any (fun k => match k with
      | some x => s.tagged x
      | none => false)) with
    | some i => .fault s 0x0D (unitAddr j.tid kind dst r (u + i))
    | none =>
      let cells := (List.zip flat data.flatten).filterMap (fun q => q.1.map (fun k => (k, q.2)))
      let s1 := s.spadLand cells
      let s2 := if kind = 7 then
          s1.landed ((State.addrTile j.tid dst).getD 0) (addrOff dst + u * r.width) (addrOff dst + (u + data.length) * r.width)
        else s1
      .done (s2.chargeSpad j.tid (cells.map (·.1))) { j with pos := u + data.length, sect := j.sect + 1 }

/-- A unit's local bytes with their poison, for a put. -/
def State.localUnit (s : State) (j : Job) (kind : Nat) (src : Word) (r : CopyRec) (u : Nat) : List (Byte × Bool) :=
  (s.unitKeys j kind src r u).map (fun k => match k with
    | some x => (s.spad.read x, s.spadPoisoned x 1)
    | none => (0, false))

/-- The energy of the local side of a put (R329). -/
def State.chargeUnits (s : State) (j : Job) (kind : Nat) (src : Word) (r : CopyRec) (us : List Nat) : State :=
  s.chargeSpad j.tid (us.flatMap (fun u => (s.unitKeys j kind src r u).filterMap (fun k => k)))

/-- A local byte that a job reads lies in a window at or above its watermark (R230). -/
def State.unitHeld (s : State) (j : Job) (kind : Nat) (src : Word) (r : CopyRec) (u n : Nat) : Bool :=
  (List.range n).any (fun i => (s.unitKeys j kind src r (u + i)).any (fun k => match k with
    | some x => (s.windowBlocks x 1).isSome
    | none => false))

/-- The poison that bytes stored by an engine leave, in the holder's L1 or at the home and in the replicas: a poisoned
byte's unit is poisoned, a whole unit of sound bytes is clean (R231, R359). DEDUCED, log entry 29. -/
def State.poisonPut (s : State) (h : Holder) (l : List ((Nat × Nat) × Bool)) : State :=
  let s1 := (l.filter (fun p => p.2)).foldl (fun s p => match s.writeTen h p.1.1 p.1.2 with
    | some id => { s with tens := Store.upd s.tens id (fun t => { t with pois := addUnits t.pois [p.1.2 / 64] }) }
    | none => (s.homePoison [p.1] true).pushBytes p.1.1 [(p.1.2, s.homeByte p.1.1 p.1.2)] [p.1.2 / 64]) s
  (l.filter (fun p => decide (p.1.2 % 64 = 0))).foldl (fun s p =>
    let unit := (List.range 64).map (fun i => (p.1.1, p.1.2 + i))
    let dest := s.writeTen h p.1.1 p.1.2
    if unit.all (fun q => l.contains (q, false) && decide (s.writeTen h q.1 q.2 = dest)) then
      (match dest with
        | some id => { s with tens := Store.upd s.tens id (fun t => { t with pois := t.pois.erase (p.1.2 / 64) }) }
        | none => s.homePoison unit false)
    else s) s1

/-- What every put of an engine does after its bytes: their poison, the committed copies', and the forwarding to a mirror
partner, which the job waits for (R231, R270, R277). -/
def State.endPut (s : State) (h : Holder) (j : Job) (l : List ((Nat × Nat) × Bool)) : State × Job :=
  let (s1, k) := ((s.poisonPut h l).commitPoison (l.map (·.1))).forwardWrite (l.map (·.1))
  (s1, { j with mirr := k.toList ++ j.mirr })

/-- One element of an atomic add: integers wrap, f32 rounds to nearest even (R226). -/
def addElem (ty : Nat) (old x : Nat) : Flagged Nat :=
  if ty = 8 then addF32 .rne old x else ((old + x) % 2 ^ (8 * unitBytes ty), 0)

/-- A put of some units, whose bytes with their poison are given, at their bytes of a target; an atomic add to a host
node is none of the atomics that it takes (R346). -/
def State.putUnits (s : State) (j : Job) (kind : Nat) (src dst : Word) (r : CopyRec) (t : Target) (us : List Nat) (next : Nat)
    (loc : Nat → List (Byte × Bool)) : SectorEnd :=
  let h := s.jobHolder j
  let place (u : Nat) : List (Nat × Nat) := s.bytesOf t (r.labelOff kind u).toNat r.width
  if us.any (fun u => (place u).any (fun p => s.forumRefuses p.1 p.2)) ∨ ((kind = 5 ∨ kind = 6) ∧ s.maps.isHost t.node) then
    .fault s 0x09 dst
  else match us.find? (fun u => (place u).any (fun p => s.storeRefused h p.1 p.2)) with
    | some u => .fault s 0x0A (Config.tenureValue dst (word (r.labelOff kind u).toNat))
    | none =>
      if kind = 5 ∨ kind = 6 then
        if us.any (fun u => (place u).any (fun p => s.unpublished h p.1 p.2)) then .hold else
        match us.find? (fun u => decide (kind = 5) && (loc u).any (·.2)) with
        | some u => .fault s 0x13 (Config.trapValue 3 (unitAddr j.tid kind src r u) 0)
        | none =>
          let (s1, cells, fl) := us.foldl (fun (p : State × List ((Nat × Nat) × Bool) × Nat) u =>
            let old := leNat ((place u).map (fun q => p.1.seenByte h q.1 q.2))
            let x := leNat ((loc u).map (·.1))
            let (new, f) := addElem r.ty old x
            let bad := (loc u).any (·.2) || (place u).any (fun q => p.1.bytePoisoned h q.1 q.2)
            (p.1.putBytes h (place u) r.width new, p.2.1 ++ (place u).map (fun q => (q, bad)), p.2.2 ||| f)) (s, [], 0)
          let (s2, j1) := s1.endPut h j cells
          .done s2 { j1 with pos := next, sect := j.sect + 1, flags := j.flags ||| fl }
      else
        let cells := us.flatMap (fun u => List.zip (place u) (loc u))
        let s1 := cells.foldl (fun s q => s.putByte h (q.1, q.2.1)) s
        let (s2, j1) := s1.endPut h j (cells.map (fun q => (q.1, q.2.2)))
        .done s2 { j1 with pos := next, sect := j.sect + 1 }

/-- What a get finds at its label side: the bytes of some units with their poison. -/
inductive SectorData where
  | data (s : State) (l : List (List (Byte × Bool)))
  | fault (s : State) (cause : Nat) (v : Word)
  | hold

/-- The alignment that a sector's elements are checked for: a block of q4x has none. -/
def CopyRec.align (r : CopyRec) : Nat := if r.ty = 12 then 1 else r.width

/-- The label side of a sector of a get: clipped units read zero (R222). -/
def State.readUnits (s : State) (j : Job) (kind : Nat) (r : CopyRec) (us : List Nat) : SectorData :=
  let zero := List.replicate r.width ((0 : Byte), false)
  let live := us.filter (fun v => !r.clipped v)
  if live = [] then .data s (us.map (fun _ => zero))
  else match s.sectorAt j .load j.labelOf (live.map (r.labelOff kind)) r.width r.align with
    | (s0, .error (c, v)) => .fault s0 c v
    | (s0, .ok t) =>
      let s1 := s0.chargeHome j.tid (live.flatMap (fun v => s0.bytesOf t (r.labelOff kind v).toNat r.width)) false
      let h := s1.jobHolder j
      let place (v : Nat) : List (Nat × Nat) := s1.bytesOf t (r.labelOff kind v).toNat r.width
      if live.any (fun v => (place v).any (fun p => s1.unpublished h p.1 p.2)) then .hold
      else .data s1 (us.map (fun v => if r.clipped v then zero else (place v).map (s1.engineByte h)))

/-- The label side of a sector of a put, with the bytes of its units: clipped units are skipped (R222). -/
def State.writeUnits (s : State) (j : Job) (kind : Nat) (src : Word) (r : CopyRec) (us : List Nat) (next : Nat)
    (loc : Nat → List (Byte × Bool)) : SectorEnd :=
  let live := us.filter (fun v => !r.clipped v)
  -- no unit of the label side is left: no sector is counted
  if live = [] then .done s { j with pos := next }
  else match s.sectorAt j .store j.labelOf (live.map (r.labelOff kind)) r.width r.align with
    | (s0, .error (c, v)) => .fault s0 c v
    | (s0, .ok t) =>
      (s0.chargeHome j.tid (live.flatMap (fun v => s0.bytesOf t (r.labelOff kind v).toNat r.width)) true).putUnits j kind src j.labelOf r t live next loc

/-- The next sector of a copy of kinds 0, 1, 2, 4, 5 and 7. -/
def State.copySector (s : State) (j : Job) (kind : Nat) (src dst : Word) (r : CopyRec) : SectorEnd :=
  let u := j.pos
  let n := sectorLen (r.labelOff kind) r.clipped r.units u
  let us := (List.range n).map (u + ·)
  if kind = 7 ∧ !(s.windowHolding ((State.addrTile j.tid dst).getD 0) (addrOff dst) (addrOff dst + r.localBytes 7)
      && decide (State.addrTile j.tid dst = some (tileOf j.tid))) then .fault s 0x0C dst
  else if kindPuts kind then
    if s.unitHeld j kind src r u n then .hold
    else match s.writeUnits j kind src r us (u + n) (s.localUnit j kind src r) with
      | .done s1 j1 => .done (s1.chargeUnits j kind src r (us.filter (fun v => !r.clipped v))) j1
      | e => e
  else match s.readUnits j kind r us with
    | .data s1 l => match s1.getUnits j kind dst r u l with
      | .done s2 j2 => .done s2 { j2 with sect := if us.all r.clipped then j.sect else j2.sect }
      | e => e
    | .fault s1 c v => .fault s1 c v
    | .hold => .hold

/-- The nodes of a subtree in pre-order, implicit children included, stubs passed over (R225). -/
def gatherNodes (m : Maps) (need : Nat) : Nat → Nat → List (Nat × Option Nat)
  | 0, _ => []
  | f + 1, id => match Store.find m.nodes id with
    | some n =>
      if n.kind = 6 then []
      else
        (if need ≤ n.extent then [(id, none)] else [])
          ++ ((List.range n.implicit).filter (fun (k : Nat) => decide (need ≤ n.targetExtent (some k)))).map (fun (k : Nat) => (id, some k))
          ++ n.kids.flatMap (fun k => gatherNodes m need f k.2)
    | none => []

/-- Writes bytes of a gather at an offset of DEST: words follow the eight bytes of their count (R225). -/
def State.gatherPut (s : State) (j : Job) (dst : Word) (off : Nat) (bytes : List (Byte × Bool)) : Except (Nat × Word) State :=
  let tile := (State.addrTile j.tid dst).getD 0
  let keys := (List.range bytes.length).map (fun i => s.bankKey j.tid tile ((addrOff dst + off + i : Nat) : Int))
  if keys.any (fun k => match k with
      | some x => s.tagged x
      | none => false) then .error (0x0D, dst + word off)
  else .ok ((s.spadLand ((List.zip keys bytes).filterMap (fun q => q.1.map (fun k => (k, q.2))))).chargeSpad
    j.tid (keys.filterMap (fun k => k)))

/-- What a gather reads of a node. Its key in the tiers is the node's label (R310; DESIGN CHOICE, log entry 8). -/
def State.gatherRead (s : State) (j : Job) (r : CopyRec) (l : Word) (id : Nat) (child : Option Nat) : SectorData :=
  match s.node id with
  | none => .fault s 0x06 l
  | some n =>
    let off := r.goff.toNat
    let map := s.mapOf j.tid
    let t : Target := { node := id, child := child }
    let key := targetLabel s.maps map t
    let nd := n.asFound (s.lookup map (coreTier j.tid) (tileTier j.tid) key (off / 65536)).1
    if off % r.width ≠ 0 then .fault s 0x04 l
    else if nd.sup ∧ j.level = 0 then .fault s 0x09 l
    else
      let place := s.bytesOf t off r.width
      match s.pageChecks map r.goff (pagesOf place) with
      | (s1, some (c, v)) => .fault s1 c v
      | (s1, none) =>
        let h := s1.jobHolder j
        if place.any (fun p => s1.unpublished h p.1 p.2) then .hold
        else
          let s2 := if s.allPresent (pagesOf place) then
              s1.fillTiers map (coreTier j.tid) (tileTier j.tid) key (off / 65536) t nd (nd.targetExtent child) []
            else s1
          .data (s2.chargeHome j.tid place false) [place.map (s2.engineByte h)]

/-- The next node of a gather; after the last, the count of words at DEST (R225). -/
def State.gatherSector (s : State) (j : Job) (dst : Word) (r : CopyRec) (l : Word) (nodes : List (Nat × Option Nat)) :
    SectorEnd :=
  match nodes[j.pos]? with
  | none => match s.gatherPut j dst 0 ((leBytes 8 nodes.length).map (fun b => (b, false))) with
    | .error (c, v) => .fault s c v
    | .ok s1 => .done s1 { j with pos := j.pos + 1 }
  | some (id, child) => match s.gatherRead j r l id child with
    | .fault s1 c v => .fault s1 c v
    | .hold => .hold
    | .data s1 d => match s1.gatherPut j dst (8 + j.pos * r.width) d.flatten with
      | .error (c, v) => .fault s1 c v
      | .ok s2 => .done s2 { j with pos := j.pos + 1, sect := j.sect + 1 }

/-- The nodes that a gather finds as it reads the map (R225), or its fault; the stubs passed are counted. -/
def State.gatherFind (s : State) (map : Nat) (src : Word) (r : CopyRec) : State × Except (Nat × Word) (List (Nat × Option Nat)) :=
  let res := resolve s.maps map src
  let s1 := { s with maps := s.maps.countHits res.stubs }
  match res.result with
  | .error e => (s1, .error e)
  | .ok (_, t) =>
    let need := r.goff.toNat + r.width
    let all := match t.child with
      | some k => match s1.node t.node with
        | some n => if need ≤ n.targetExtent (some k) then [(t.node, some k)] else []
        | none => []
      | none => gatherNodes s1.maps need 8 t.node
    (s1, .ok (all.take (r.ext.getD 0 0)))

/-- A gather reads the map once, when its first sector is reached (R225). -/
def State.gatherStart (s : State) (j : Job) (src dst : Word) (r : CopyRec) : SectorEnd :=
  match s.gatherFind (s.mapOf j.tid) src r with
  | (s1, .error (c, v)) => .fault s1 c v
  | (s1, .ok nodes) => s1.gatherSector { j with op := .gather dst r src nodes } dst r src nodes

/-- Units of a job in all, for its end. -/
def Job.total (j : Job) : Nat :=
  match j.op with
  | .copy kind _ _ r => if kind = 8 ∨ kind = 9 then 1 else if kind = 3 then 1 else r.units
  | .gather _ _ _ ns => ns.length + 1
  | .conv op d a _ _ => if op = 0 then ceilDiv d.count (64 / Nat.max 1 (Nat.max d.width a.width)) else d.count / 32
  | .mldb r _ => r.ext.getD 1 1
  | .mma .. | .mzero .. => 1
  | .drain _ _ rows _ _ _ => rows
  | .handoff .. => 1
  | .handed _ _ _ _ _ _ data => data.length

end Sys2Proof.Machine
end

