-- ==== Sys2Proof/Machine/Forum.lean ====
section
/-! DEFINITION. The Forum (R268 to R278, R369): the update rule, steps, gradient blocks, weight reads, PCLOSE, PQRY, mirror
partners, and the event MIRROR_FORWARD. -/

namespace Sys2Proof.Machine

/-! ## The set's storage -/

/-- A 32-bit word of a set's working storage. -/
def State.setWord (s : State) (id off : Nat) : Nat := leNat ((List.range 4).map (fun i => s.homeByte id (off + i)))

def State.putSetWord (s : State) (id off v : Nat) : State :=
  (List.zip ((List.range 4).map (off + ·)) (leBytes 4 v)).foldl (fun s p => s.putHome id p.1 p.2) s

/-- Adds 1 to a counter of the rule record; it saturates (Table 16.2). -/
def State.countUp (s : State) (id off : Nat) : State := s.putSetWord id off (Nat.min (s.setWord id off + 1) (2 ^ 32 - 1))

def runFlagsOff : Nat := 4
def lastFlagsOff : Nat := 8
def dupsOff : Nat := 12
def lateOff : Nat := 16

/-- The bytes of block `k` of a set. -/
def Node.blockStart (n : Node) (k : Nat) : Nat := 256 + k * n.blockBytes

/-- The pages of a set that a block and the rule record need. -/
def Node.blockPages (id : Nat) (n : Node) (k : Nat) : List (Nat × Nat) :=
  pagesOf ((id, 0) :: (List.range (n.blockBytes / 64 + 1)).map (fun i => (id, n.blockStart k + Nat.min (64 * i) (n.blockBytes - 1))))

/-- Makes the pages of a block and of its committed copy present; the first that fails with its byte offset. -/
def State.needPages (s : State) (map id : Nat) : List (Nat × Nat) → State × Option (Nat × Word)
  | [] => (s, none)
  | (r, p) :: l => match s.pageCheck map r p (word (p * 65536)) with
    | (s1, none) => s1.needPages map id l
    | (s1, some e) => (s1, some e)

/-! ## The rule (R271 to R273) -/

/-- Fields of an operation word. -/
def opcOf (w : Nat) : Nat := w / 2 ^ 27 % 32
def dstOf (w : Nat) : Nat := w / 2 ^ 22 % 32
def opaOf (w : Nat) : Nat := w / 2 ^ 17 % 32
def opbOf (w : Nat) : Nat := w / 2 ^ 12 % 32
def opcCOf (w : Nat) : Nat := w / 2 ^ 7 % 32

/-- How many operands an operation uses (Table 16.3). -/
def opArity (opc : Nat) : Nat :=
  match opc with
  | 0 | 6 | 7 => 1
  | 5 => 3
  | _ => 2

/-- An operand code is legal for NMOM moments. -/
def operandOk (nmom c : Nat) : Bool :=
  if c ≤ 1 then true else if c = 2 then decide (1 ≤ nmom) else if c = 3 then decide (2 ≤ nmom)
  else decide (c ≤ 11) || decide (16 ≤ c)

/-- An operation word that the snapshot accepts (R272). -/
def ruleOpOk (nmom w : Nat) : Bool :=
  let k := opArity (opcOf w)
  decide (opcOf w ≤ 9) && decide (w % 128 = 0) && operandOk nmom (dstOf w) && decide (1 ≤ dstOf w) && decide (dstOf w ≤ 11)
    && operandOk nmom (opaOf w)
    && (if 2 ≤ k then operandOk nmom (opbOf w) else decide (opbOf w = 0))
    && (if 3 ≤ k then operandOk nmom (opcCOf w) else decide (opcCOf w = 0))

/-- The snapshot of a set's rule record, none when it is refused. -/
def State.snapshot (s : State) (id : Nat) (n : Node) : Option Rule :=
  let w0 := s.setWord id 0
  let nops := w0 % 64
  let ops := (List.range nops).map (fun i => s.setWord id (128 + 4 * i))
  if 1 ≤ nops ∧ nops ≤ 32 ∧ w0 / 64 = 0 ∧ ops.all (ruleOpOk n.nmom) then
    some { ops := ops, consts := (List.range 16).map (fun i => s.setWord id (64 + 4 * i)) }
  else none

/-- One operation on f32 codes, rounded to nearest even (R106, Table 16.3). -/
def ruleStep (w : Nat) (x : Store Nat) : Nat × Nat :=
  let v (c : Nat) : Nat := (Store.find x c).getD 0
  let a := v (opaOf w)
  let b := v (opbOf w)
  let va := Ty.f32.value a
  let vb := Ty.f32.value b
  match opcOf w with
  | 0 => roundTo .f32 .rne va
  | 1 => roundFlagged .f32 .rne (exactSum .rne [va, vb])
  | 2 => roundFlagged .f32 .rne (exactSum .rne [va, vb.neg])
  | 3 => roundFlagged .f32 .rne (va.mul vb)
  | 4 => roundFlagged .f32 .rne (va.div vb)
  | 5 => fmaCode .f32 .rne false a b (v (opcCOf w))
  | 6 => roundFlagged .f32 .rne va.sqrt
  | 7 => roundFlagged .f32 .rne (Val.div (.num false 1 0) va)
  | 8 => (pickFloat .f32 true a b, 0)
  | _ => (pickFloat .f32 false a b, 0)

/-- The operations of a rule in order, with their flags. -/
def ruleRun : List Nat → Store Nat → Nat → Store Nat × Nat
  | [], x, fl => (x, fl)
  | w :: ws, x, fl =>
    let (r, f) := ruleStep w x
    ruleRun ws (Store.put x (dstOf w) r) (fl ||| f)

/-- One element of ApplyRule: gradient, master, moments in; master, moments and flags out. -/
def ruleElem (rule : Rule) (g w m1 m2 : Nat) : Nat × Nat × Nat × Nat :=
  let x0 : Store Nat := [(0, g), (1, w), (2, m1), (3, m2), (4, 0), (5, 0), (6, 0), (7, 0), (8, 0), (9, 0), (10, 0), (11, 0)]
  let x1 := (List.range 16).foldl (fun x i => Store.put x (16 + i) (rule.consts.getD i 0)) x0
  let (x, fl) := ruleRun rule.ops x1 0
  ((Store.find x 1).getD 0, (Store.find x 2).getD 0, (Store.find x 3).getD 0, fl)

/-- One element of ApplyRule in a set's storage; where the gradient or a word that it reads is poisoned, so is what it
writes (R231, R273, R359). -/
def State.applyElem (s : State) (id : Nat) (n : Node) (rule : Rule) (at_ : Nat) (g : Nat × Bool) : State :=
  let e4 := 4 * n.elems
  let offs := (List.range (1 + n.nmom)).map (fun i => at_ + i * e4)
  let old (i : Nat) : Nat := if i ≤ n.nmom then s.setWord id (at_ + i * e4) else 0
  let (w, m1, m2, fl) := ruleElem rule g.1 (old 0) (old 1) (old 2)
  let s1 := (List.zip offs [w, m1, m2]).foldl (fun s p => s.putSetWord id p.1 p.2) s
  let s2 := if g.2 || offs.any (s.homePoisoned id) then s1.homePoison (offs.map (fun o => (id, o))) true else s1
  s2.putSetWord id runFlagsOff (s2.setWord id runFlagsOff ||| fl)

/-- ApplyRule of block `k` with gradient codes in f32, into the working copy; RUNFLAGS gathers the flags (R273). -/
def State.applyRule (s : State) (id : Nat) (n : Node) (rule : Rule) (k : Nat) (g : List (Nat × Bool)) : State :=
  let bytes := (List.range (n.blockBytes / 4)).map (fun i => (id, n.blockStart k + 4 * i))
  (((((List.range n.elems).foldl (fun s e => s.applyElem id n rule (n.blockStart k + 4 * e) (g.getD e (0, false))) s).chargeBytes
    n.vf bytes false).chargeBytes n.vf bytes true).charge n.vf (1000 * n.elems * rule.ops.length))

/-! ## Steps (R274, R275, R369) -/

/-- The rule of the open step: its snapshot, or a new one. -/
def State.stepRule (s : State) (id : Nat) (n : Node) : Option Rule :=
  match (s.forum id).rule with
  | some r => some r
  | none => s.snapshot id n

/-- Applies one block of the open step, or says why not: 0x0C for a refused snapshot, the page cause else. -/
def State.applyBlock (s : State) (id : Nat) (n : Node) (k : Nat) (g : List (Nat × Bool)) : State × Option (Nat × Word) :=
  match s.needPages n.vf id (Node.blockPages id n k) with
  | (s1, some e) => (s1, some e)
  | (s1, none) => match s1.stepRule id n with
    | none => (s1, some (0x0C, 0))
    | some r =>
      let f := s1.forum id
      ((s1.setForum id { f with rule := some r, applied := k :: f.applied, early := Store.del f.early k }).applyRule id n r k g, none)

/-- Applies the held blocks of the open step in ascending index; those that cannot be applied stay (R369).
DEDUCED, log entry 48. -/
def State.applyHeld (s : State) (id : Nat) (n : Node) : List Nat → State
  | [] => s
  | k :: ks => match Store.find (s.forum id).early k with
    | some g => (s.applyBlock id n k g).1.applyHeld id n ks
    | none => s.applyHeld id n ks

/-- The indexes of the blocks held for the open step. -/
def Forum.heldNow (f : Forum) : List Nat := (Store.keys f.early).filter (fun k => decide (k < 256))

/-- The entry of a page, as its seal names it. -/
def entryAddr (id page : Nat) : Nat := id * 2 ^ 25 + page

/-- The block bytes of a page of a set. -/
def Node.pageBlocks (n : Node) (page : Nat) : List Nat :=
  ((List.range 65536).map (page * 65536 + ·)).filter (fun o => decide (256 ≤ o) && decide (o < n.extent))

/-- A byte of the working copy of a block, with its poison, wherever its page is: in the package, or sealed with it (R334). A
demoted page that a roll-back has still to reach holds what is committed. -/
def State.workByte (s : State) (id : Nat) (f : Forum) (pg : Nat × Page) (o : Nat) : Byte × Bool :=
  match pg.2 with
  | .present fr => (s.dram.read (fr * 65536 + o % 65536), s.dramPois.contains ((fr * 65536 + o % 65536) / 64))
  | .poisoned _ fr => (s.dram.read (fr * 65536 + o % 65536), true)
  | .demoted d =>
    match if f.undo.contains pg.1 then none else s.mod.keys.pages.find? (fun q => decide (q.2.addr = entryAddr id pg.1) && decide (q.2.dseq = d)) with
    | some (_, x) => ((Store.find x.body (o % 65536)).getD 0, x.pois.contains (o % 65536 / 64))
    | none => ((Store.find f.committed o).getD 0, f.cpois.contains (o / 64))

/-- committed ← working for every block (R275). -/
def State.commitAll (s : State) (id : Nat) (n : Node) (f : Forum) : Forum :=
  n.pages.foldl (fun f pg => (n.pageBlocks pg.1).foldl (fun f o =>
    let (b, bad) := s.workByte id f pg o
    { f with
      committed := if b = 0 then Store.del f.committed o else Store.put f.committed o b
      cpois := if bad then addUnits f.cpois [o / 64] else f.cpois.filter (fun u => decide (u ≠ o / 64)) }) f) f

/-- The codes of a block's committed masters in a type with their poison, and their flags (R276). -/
def Forum.readWeights (f : Forum) (n : Node) (k ty : Nat) : List (Nat × Bool) × Nat :=
  let t := (Ty.ofCode (BitVec.ofNat 4 ty)).getD .f32
  let word32 (off : Nat) : Nat := leNat ((List.range 4).map (fun i => (Store.find f.committed (off + i)).getD 0))
  let rs := (List.range n.elems).map (fun e =>
    let off := n.blockStart k + 4 * e
    (roundTo t .rne (Ty.f32.value (word32 off)), f.cpois.contains (off / 64)))
  (rs.map (fun r => (r.1.1, r.2)), rs.foldl (fun f r => f ||| r.1.2) 0)

/-- The reads that wait for a step that has just closed read it (R276). -/
def Forum.serve (f : Forum) (n : Node) : Forum :=
  { f with reads := f.reads.map (fun (x : Nat × WeightRead) =>
      if x.2.step = f.closed.toNat ∧ x.2.got = none then (x.1, { x.2 with got := some (f.readWeights n x.2.block x.2.ty) }) else x) }

/-- Closes the open step (R275). -/
def State.closeStep (s : State) (id : Nat) (n : Node) : State :=
  let now := (s.node id).getD n
  let f := s.commitAll id now (s.forum id)
  let early := f.early.foldl (fun (m : Store (List (Nat × Bool))) p => Store.put m (if 256 ≤ p.1 then p.1 - 256 else p.1) p.2) []
  let s1 := (s.putSetWord id lastFlagsOff (s.setWord id runFlagsOff)).putSetWord id runFlagsOff 0
  let s2 := s1.setForum id ({ f with closed := f.closed + 1, applied := [], pending := false, early := early, rule := none
                                     rolled := false }.serve now)
  s2.applyHeld id n (s2.forum id).heldNow

/-- working ← committed in one page that stands in the package, and RUNFLAGS ← 0 in the first (Table 16.5). -/
def State.undoPage (s : State) (id : Nat) (n : Node) (page : Nat) : State :=
  let f := s.forum id
  let at_ := n.pageBlocks page
  let s1 := at_.foldl (fun s o => s.putHome id o ((Store.find f.committed o).getD 0)) s
  let s2 := (s1.homePoison (at_.map (fun o => (id, o))) false).homePoison
    ((at_.filter (fun o => f.cpois.contains (o / 64))).map (fun o => (id, o))) true
  let s3 := if page = 0 then s2.putSetWord id runFlagsOff 0 else s2
  s3.setForum id { f with undo := f.undo.filter (fun p => decide (p ≠ page)) }

/-- working ← committed, and the open step starts again (Table 16.5); a demoted page is rolled back when it returns.
DEDUCED, log entry 48. -/
def State.abortStep (s : State) (id : Nat) (n : Node) (rolled : Bool) : State :=
  let now := (s.node id).getD n
  let gone := (now.pages.filter (fun p => match p.2 with
    | .demoted _ => true
    | .present _ | .poisoned _ _ => false)).map (·.1)
  let here := (now.pages.filter (fun p => match p.2 with
    | .present _ => true
    | .demoted _ | .poisoned _ _ => false)).map (·.1)
  let s1 := here.foldl (fun s p => s.undoPage id now p) s
  s1.setForum id { s1.forum id with applied := [], pending := false, rule := none, rolled := rolled, undo := gone }

/-- All blocks of the open step have been applied. -/
def State.allApplied (s : State) (id : Nat) (n : Node) : Bool := decide (n.blockCount ≤ (s.forum id).applied.length)

/-- A pending close under hold happens when the last block has been applied; that of a set with a partner when the partner has
applied it too (`closePair`). -/
def State.closeIfDue (s : State) (id : Nat) (n : Node) : State :=
  if (s.forum id).pending && s.allApplied id n && (s.partner n).isNone then s.closeStep id n else s

/-- The pending close of a set with a partner: every block is applied, and the partner has answered for those forwarded to it
(R275, R277). -/
def State.closePair (s : State) (id : Nat) (n : Node) : State :=
  if (s.forum id).pending && s.allApplied id n && !s.mod.link.awaits.any (fun w => decide (w.2.set = id) && (match w.2.op with
      | .block .. => true
      | .close .. | .write .. | .join .. => false)) then s.closeStep id n
  else s

/-- A dropped block is counted in the rule record, whose page must be there. -/
def State.dropBlock (s : State) (id : Nat) (n : Node) (counter : Nat) : State × Except (Nat × Word) Bool :=
  match s.needPages n.vf id [(id, 0)] with
  | (s1, none) => (s1.countUp id counter, .ok false)
  | (s1, some e) => (s1, .error e)

/-- How Table 16.4 judges a gradient block: a new state and whether the block is accepted, or the cause of a fault. Held
blocks of the open step go first (R369). DEDUCED, log entry 48. -/
def State.judgeBlock (s : State) (id : Nat) (n : Node) (k : Nat) (step : BitVec 32) (g : List (Nat × Bool)) :
    State × Except (Nat × Word) Bool :=
  let f := s.forum id
  let c := f.closed.toNat
  if step.toNat ≤ c then s.dropBlock id n lateOff
  else if step.toNat = c + 1 then
    if f.applied.contains k then s.dropBlock id n dupsOff
    else
      let s1 := s.applyHeld id n f.heldNow
      match if (s1.forum id).applied.contains k then s1.dropBlock id n dupsOff else match s1.applyBlock id n k g with
          | (s2, none) => (s2, .ok true)
          | (s2, some e) => (s2, .error e) with
      | (s2, .ok b) => (s2.closeIfDue id n, .ok b)
      | (s2, .error e) => (s2, .error e)
  else if step.toNat = c + 2 then
    if (Store.find f.early (256 + k)).isSome then s.dropBlock id n dupsOff
    else (s.setForum id { f with early := Store.put f.early (256 + k) g }, .ok true)
  else (s, .error (0x0C, 0))

/-! ## Jobs that reach the Forum (R228, R274, R276, R278) -/

/-- The lookup of a Forum job's label (R310). -/
def State.forumLookup (s : State) (j : Job) : Option Cached × Resolution :=
  s.lookup (s.mapOf j.tid) (coreTier j.tid) (tileTier j.tid) j.labelOf 0

/-- The set and block that a Forum job stands at, or that its label names; 0x0C for any other node. A job whose set has been
freed faults with 0x06; a set that has moved stays the job's (R278). -/
def State.forumTarget (s : State) (j : Job) (write : Bool) : Except (Nat × Word) (Nat × Node × Nat) :=
  let l := j.labelOf
  match j.forum with
  | some (id, k) => match s.node id with
    | some n => .ok (id, n, k)
    | none => .error (0x06, l)
  | none =>
    let (hit, res) := s.forumLookup j
    match res.result with
    | .error e => .error e
    | .ok (_, t) => match s.node t.node, t.child with
      | some live, some k =>
        let n := live.asFound hit
        if n.kind ≠ 4 then .error (0x0C, l)
        else if (n.sup ∧ j.level = 0) ∨ (n.ro ∧ write) then .error (0x09, l)
        else .ok (t.node, live, k)
      | none, _ => .error (0x06, l)
      | some _, none => .error (0x0C, l)

/-- A job's sector reaches the Forum: its lookup counts its stubs and fills the tiers, and from now on the job stands at its
set and block (R278, R310). -/
def State.forumReach (s : State) (id : Nat) (j : Job) (node : Nat) (n : Node) (k : Nat) : State :=
  match j.forum with
  | some _ => s
  | none =>
    let stubs := (s.forumLookup j).2.stubs
    let s1 := { s with maps := s.maps.countHits stubs }
    let s2 := if s.allPresent (Node.blockPages node n k) then
        s1.fillTiers (s.mapOf j.tid) (coreTier j.tid) (tileTier j.tid) j.labelOf 0 { node := node, child := some k } n (n.targetExtent (some k)) stubs
      else s1
    s2.updJob id (fun j => { j with forum := some (node, k) })

/-- What a waiting read has read, by its job (R276). -/
def Forum.readGot (f : Forum) (key : Nat) : Option (List (Nat × Bool) × Nat) := (Store.find f.reads key).bind (·.got)

/-- What a weight read finds: what it read when its step closed, or the closed step now; none for a later step. -/
def Forum.readNow (f : Forum) (key : Nat) (n : Node) (k ty step : Nat) : Option (List (Nat × Bool) × Nat) :=
  match f.readGot key with
  | some x => some x
  | none => if step = f.closed.toNat then some (f.readWeights n k ty) else none

/-- A weight read waits at the Forum for its step. -/
def State.waitRead (s : State) (node key k ty step : Nat) : State :=
  let f := s.forum node
  if (Store.find f.reads key).isSome then s
  else s.setForum node { f with reads := Store.put f.reads key { block := k, ty := ty, step := step, got := none } }

/-- A weight read leaves the Forum. -/
def State.dropRead (s : State) (node key : Nat) : State :=
  let f := s.forum node
  if (Store.find f.reads key).isSome then s.setForum node { f with reads := Store.del f.reads key } else s

/-- The fault that a Forum job meets now, if any; it is met before anything happens. -/
def State.forumFault (s : State) (key : Nat) (j : Job) (kind : Nat) (r : CopyRec) : Option (Nat × Word) :=
  let l := j.labelOf
  match s.forumTarget j (decide (kind = 8)) with
  | .error e => some e
  | .ok (id, n, k) =>
    let c := (s.forum id).closed.toNat
    let step := r.goff.toNat
    if r.ext.getD 0 0 ≠ n.elems then some (0x0C, l)
    else if kind = 8 then
      if r.ty ≠ n.gtype then some (0x0C, l)
      else match (s.judgeBlock id n k (r.goff.setWidth 32) []).2 with
        | .error (0x0C, _) => some (0x0C, l)
        | .error e => some e
        | .ok _ => none
    else if r.ty < 8 ∨ 11 < r.ty ∨ (step < c ∧ ((s.forum id).readGot key).isNone) then some (0x0C, l)
    else if step ≤ c then match j.op with
      | .copy _ _ dst _ => ((List.range r.units).find? (fun u => (s.unitKeys j 9 dst r u).any (fun k => match k with
          | some x => s.tagged x
          | none => false))).map (fun u => (0x0D, unitAddr j.tid 9 dst r u))
      | _ => none
    else none

/-- The codes of a gradient job's local side, widened to f32, with their poison. -/
def State.gradient (s : State) (j : Job) (src : Word) (r : CopyRec) : List (Nat × Bool) :=
  let t := (Ty.ofCode (BitVec.ofNat 4 r.ty)).getD .f32
  (List.range r.units).map (fun u =>
    let cells := s.localUnit j 8 src r u
    ((roundTo .f32 .rne (t.value (leNat (cells.map (·.1))))).1, cells.any (·.2)))

/-- A gradient block is applied, held or dropped (Table 16.4); one that is accepted is forwarded to the set's partner, whose
answer its job waits for (R277). -/
def State.takeGradient (s : State) (node : Nat) (n : Node) (k : Nat) (step : BitVec 32) (g : List (Nat × Bool)) :
    Option (State × List Nat) :=
  match s.judgeBlock node n k step g with
  | (s1, .ok acc) => some (match if acc then s1.partner n else none with
    | some h => ({ s1 with next := s1.next + 1 }.forward node n h s1.next (.block n.mirror k step g), [s1.next])
    | none => (s1, []))
  | (_, .error _) => none

/-- A gradient job of this module reaches its set's Forum. -/
def State.sendGradient (s : State) (id : Nat) (j : Job) (src : Word) (r : CopyRec) : State :=
  match s.forumTarget j true with
  | .ok (node, n, k) =>
    match (s.forumReach id j node n k).takeGradient node n k (r.goff.setWidth 32) (s.gradient j src r) with
    | some (s1, mirr) => s1.updJob id (fun j => { j with sect := 1, pos := 1, mirr := mirr })
    | none => s
  | .error _ => s

/-- A weight read of the closed step writes its masters to DEST; one of a later step waits at the Forum (R276). -/
def State.serveWeights (s : State) (id : Nat) (j : Job) (dst : Word) (r : CopyRec) : State :=
  match s.forumTarget j false with
  | .ok (node, n, k) =>
    let s0 := s.forumReach id j node n k
    match (s0.forum node).readNow id n k r.ty r.goff.toNat with
    | none => s0.waitRead node id k r.ty r.goff.toNat
    | some (codes, fl) =>
      let data := codes.map (fun c => (leBytes r.width c.1).map (fun b => (b, c.2)))
      match (s0.dropRead node id).getUnits { j with flags := j.flags ||| fl, forum := some (node, k) } 9 dst r 0 data with
      | .done s1 j1 => s1.setJob id { j1 with pos := 1 }
      | .fault _ _ _ | .hold => s
  | .error _ => s

/-! ## PCLOSE and PQRY (R244, R245) -/

/-- What a close by policy does to a set: the code to return, or a trap (Table 16.5, R369). DEDUCED, log entry 31. -/
def State.pclose (s : State) (id : Nat) (n : Node) (step : BitVec 32) (policy : Nat) : State × Except (Nat × Word) Nat :=
  let f := s.forum id
  if f.closed = 0xFFFFFFFF ∨ step ≠ f.closed + 1 then (s, .ok 3)
  else if policy = 2 then
    match s.needPages n.vf id [(id, 0)] with
    | (s1, some e) => (s1, .error e)
    | (s1, none) => (s1.abortStep id n false, .ok 2)
  else
    let s0 := s.applyHeld id n f.heldNow
    if policy = 0 then
      if s0.allApplied id n then match s0.needPages n.vf id [(id, 0)] with
        | (s1, some e) => (s1, .error e)
        | (s1, none) => (s1.closeStep id n, .ok 0)
      else (s0.setForum id { s0.forum id with pending := true }, .ok 1)
    else
      let missing := (List.range n.blockCount).filter (fun k => !(s0.forum id).applied.contains k)
      match s0.needPages n.vf id [(id, 0)] with
      | (_, some (c, v)) => (s, .error (c, v))
      | (s1, none) =>
        if missing ≠ [] ∧ (s1.stepRule id n).isNone then (s, .error (0x0C, step.setWidth 64))
        else match s1.needPages n.vf id (missing.flatMap (Node.blockPages id n)) with
          | (_, some (c, v)) => (s, .error (c, v))
          | (s2, none) => ((missing.foldl (fun s k => (s.applyBlock id n k []).1) s2).closeStep id n, .ok 0)

/-- The node that a parameter instruction names: R59 rows 1 to 3, then SUP at user level. -/
def paramOp (l : Word) : Op (Nat × Option Node) := do
  let s ← opGet
  let r := resolve s.maps (s.mapOf s.cur) l
  opMod (fun s => { s with maps := s.maps.countHits r.stubs })
  let (_, t) ← opOk r.result
  let s ← opGet
  opCheck (!s.supRefuses t.node) 0x09 l
  pure (t.node, match s.node t.node, t.child with
    | some n, none => if n.kind = 4 then some n else none
    | _, _ => none)

/-- A close that awaits the partner: the reply comes when it has been performed there and here (R277). -/
def State.sendClose (s : State) (id : Nat) (n : Node) (h : Nat) (l : Word) (d : Reg) (step : BitVec 32) (policy : Nat) : State :=
  let s1 := ({ s with next := s.next + 1 } : State).forward id n h s.next (.close n.mirror step policy)
  (s1.sendReply l d none (some s.next)).setAccState s1.next .waiting

def pcloseOp (d : Reg) (l v : Word) : Op Unit := do
  let policy := (v.extractLsb' 32 2).toNat
  opCheck (decide (v.extractLsb' 34 30 = 0) && decide (policy ≤ 2)) 0x0C v
  releaseWait
  match ← paramOp l with
  | (_, none) => opMod (·.sendReply l d (some 4) none)
  | (id, some n) => do
    let s ← opGet
    let (s1, r) := s.pclose id n (v.setWidth 32) policy
    let code ← opOk r
    opMod (fun s => match if code = 3 then none else s.partner n with
      | some h => s.sendClose id n h l d (v.setWidth 32) policy
      | none => s1.sendReply l d (some (word code)) none)

def execPclose (d a b : Reg) (s : State) : Host.Outcome State Fault Refusal :=
  atMapRel (farCall (.pclose d a b) [s.reg a, s.reg b]) d (pcloseOp d (s.reg a) (s.reg b)) s

/-- The word of Table 11.7. -/
def State.pqryWord (s : State) (id : Nat) : Word :=
  let f := s.forum id
  word (f.closed.toNat * 2 ^ 32 + f.applied.length % 2 ^ 16 * 2 ^ 16 + (if f.pending then 1 else if f.rolled then 2 else 0))

def execPqry (d a : Reg) (s : State) : Host.Outcome State Fault Refusal :=
  atMap (farCall (.pqry d a) [s.reg a]) d (do
    match ← paramOp (s.reg a) with
    | (_, none) => opMod (·.sendReply (s.reg a) d (some 0) none)
    | (id, some _) => opMod (fun s => s.sendReply (s.reg a) d (some (s.pqryWord id)) none)) s

/-! ## Mirror partners (R277) -/

/-- The accesses that wait for a forwarded close end with a state. -/
def State.endClose (s : State) (key : Nat) (st : AccState) : State :=
  { s with accs := s.accs.map (fun (a : Nat × Access) =>
      if a.2.shoot = some key ∧ a.2.state = .waiting then (a.1, { a.2 with state := st, shoot := none }) else a) }

/-- What is forwarded to a partner is awaited no longer: a close answers ABORTED, and an answer that was held back leaves
(R277). -/
def State.endAwaits (s : State) (pick : MirrorOut → Bool) : State :=
  let gone := s.mod.link.awaits.filter (fun w => pick w.2)
  let s1 : State := { s with mod := { s.mod with link := { s.mod.link with awaits := s.mod.link.awaits.filter (fun w => !pick w.2) } } }
  gone.foldl (fun s w =>
    let s2 := match w.2.op with
      | .close .. => s.endClose w.1 (.performed (some 2) 0)
      | .block .. | .write .. | .join .. => s
    match w.2.back with
    | some (dst, vf, b) => s2.sendLink dst vf b
    | none => s2) s1

/-- The survivor of a lost partner: MIRROR 0, the open step rolled back; what awaits the partner ends. -/
def State.loseMirror (s0 : State) (id : Nat) : State :=
  let s := s0.endAwaits (fun w => decide (w.set = id))
  match s.node id with
  | some n =>
    let s1 := { s with maps := { s.maps with nodes := Store.upd s.maps.nodes id (fun n => { n with words := n.words.set 2 0 }) } }
    s1.abortStep id n true
  | none => s

/-- The partner has performed what was forwarded to it: a close is performed here too and answered, a pending one may be
due, and an answer that was held back leaves (R275, R277). -/
def State.partnerDone (s : State) (key : Nat) (w : MirrorOut) : State :=
  let s1 : State := { s with mod := { s.mod with link := { s.mod.link with awaits := Store.del s.mod.link.awaits key } } }
  let s2 := match s1.node w.set with
    | some n => match w.op with
      | .close _ step policy => match s1.pclose w.set n step policy with
        | (s2, .ok code) => s2.endClose key (.performed (some (word code)) 0)
        | (s2, .error (c, v)) => s2.endClose key (.failed c v)
      | .block .. => s1.closePair w.set n
      | .write .. | .join .. => s1
    | none => s1.endClose key (.performed (some 4) 0)
  match w.back with
  | some (dst, vf, b) => s2.sendLink dst vf b
  | none => s2

/-- What a forwarded operation does to this member, where it can be performed now; it is not forwarded again. But for a
set that joins, it comes from the set that this one's MIRROR names, or nothing happens. -/
def State.mirrorOp (s : State) (src vf : Nat) (member : Word) (m : MirrorOp) : Option State :=
  let named (l : Word) : Option (Nat × Node) := (canonAt s.maps vf l).bind (fun p => match s.node p.2.node with
    | some n => if n.kind = 4 ∧ p.2.child.isNone then some (p.2.node, n) else none
    | none => none)
  let set (l : Word) : Option (Nat × Node) :=
    (named l).filter (fun x => decide (x.2.mirror = member) && decide (s.homeOf vf x.2.mirror = src))
  match m with
  | .block l k step g => match set l with
    | some (id, n) => match s.judgeBlock id n k step g with
      | (s1, .ok _) => some (s1.closePair id n)
      | (_, .error _) => none
    | none => some s
  | .close l step policy => match set l with
    | some (id, n) => match s.pclose id n step policy with
      | (s1, .ok _) => some s1
      | (_, .error _) => none
    | none => some s
  | .write l bytes => match set l with
    | some (id, n) => match s.needPages n.vf id (pagesOf (bytes.map (fun b => (id, b.1)))) with
      | (s1, none) => some (bytes.foldl (fun s b => s.storeHome id b.1 b.2) s1)
      | (_, some _) => none
    | none => some s
  | .join l closed bytes pois => match named l with
    | some (id, n) => match s.needPages n.vf id (pagesOf ((id, 0) :: bytes.map (fun b => (id, b.1)))) with
      | (s1, none) =>
        let s2 := s1.setForum id { s1.forum id with closed := closed, committed := bytes, cpois := pois, early := [] }
        some (s2.abortStep id n false)
      | (_, some _) => none
    | none => some s

/-- MIRROR_FORWARD: an operation forwarded from the partner is performed here and answered (R277).
DEDUCED, log entry 33. -/
def execMirrorForward (op : Nat) (s : State) : Host.Outcome State Fault Refusal :=
  .next (match Store.find s.eng.mirror op with
    | none => s
    | some m => match ({ s with eng := { s.eng with mirror := Store.del s.eng.mirror op } }).mirrorOp m.src m.vf m.member m.op with
      | some s1 => s1.sendLink m.src m.vf (.mirrorDone m.req)
      | none => s)

end Sys2Proof.Machine
end

