-- ==== Sys2Proof/Machine/Matrix.lean ====
section
/-! DEFINITION. The matrix array (R234 to R240) and the converter (R241, R242): issue and checks, the B bank, the
accumulator, and what their jobs compute. -/

namespace Sys2Proof.Machine

/-! ## The array -/

/-- The launch that holds a tile's array: a placed or running launch with a B bank whose rectangle has the tile (R234). -/
def State.arrayHolder (s : State) (tile : Nat) : Option (Nat × Launch) :=
  s.launches.find? (fun l => (decide (l.2.phase = .placed) || decide (l.2.phase = .running)) && decide (l.2.bbank ≠ 0)
    && l.2.hasTile tile)

/-- The launch in issue holds its tile's array. -/
def State.holdsArray (s : State) : Bool :=
  match s.arrayHolder (tileOf s.cur) with
  | some (id, _) => decide (s.launchOf s.cur = some id)
  | none => false

/-- The bundle in issue, the value of a role trap. -/
def State.bundleWord (s : State) : Word := (s.peekCode s.cur s.me.code s.me.pc.toNat).getD 0

/-- R366 and the holding check of R234. -/
def arrayOp : Op Unit := do
  tenantOnly
  let s ← opGet
  opCheck s.holdsArray 0x0B s.bundleWord

/-- Bytes of a column slice, C (R234). -/
def State.sliceBytes (s : State) : Nat :=
  match s.arrayHolder (tileOf s.cur) with
  | some (_, l) => 2048 * l.bbank
  | none => 0

/-- The key of a byte of a column's slice in the B banks. -/
def bKey (tile col off : Nat) : Nat := tile * 2 ^ 21 + col * 2 ^ 14 + off

/-- The key of an accumulator cell. -/
def cellKey (tile row col : Nat) : Nat := tile * 2 ^ 15 + (row * 128 + col) * 4

def State.cell (s : State) (tile row col : Nat) : Nat := s.eng.acc.readLe (cellKey tile row col) 4

def State.setCell (s : State) (tile row col v : Nat) : State :=
  { s with eng := { s.eng with acc := s.eng.acc.writeLe (cellKey tile row col) 4 v } }

/-! ## Row words (R235) -/

def rowRow0 (w : Word) : Nat := (w.extractLsb' 0 6).toNat
def rowRows (w : Word) : Nat := (w.extractLsb' 8 6).toNat
def rowCols (w : Word) : Nat := (w.extractLsb' 16 7).toNat

/-- The bits of a row word that a member uses: MMA, MZERO, MDRN. -/
def rowOk (mask w : Word) : Bool := decide (w &&& ~~~ mask = 0) && decide (rowRow0 w + rowRows w ≤ 63)

/-- Bytes of K elements of a type in a slice. -/
def sliceLen (ty k : Nat) : Nat := tyBytes ty k

/-- The checks on a column-slice offset (R236). -/
def sliceOk (c ty k : Nat) (off : Word) : Bool := decide (off.toNat % 64 = 0) && decide (off.toNat + sliceLen ty k ≤ c)

/-- A matrix record: rows 1 to 4, then no channel, the instruction's TYPE, rank 1 or 2, a further rule. -/
def matrixRecord (addr : Word) (t : Ty) (ok : Shape → Bool) : Op Shape := do
  let rs ← readShapes [addr]
  let r := recAt rs 0
  opCheck (!r.chan && decide (r.ty = tyNum t) && decide (r.rank ≤ 2) && q4xOk r && ok r) 0x0C addr
  pure r

/-- The interval of a record's bytes on its tile (R216). -/
def shapeFoot (tid : Nat) (r : Shape) (write : Bool) : FootPart :=
  let (lo, hi) := spanOf (r.places.map r.offset)
  .spad (tileOf tid) lo.toNat (hi.toNat + r.width - 1) write

/-- Issues a matrix operation: an entry where it is a job, and the thread out of the rotation (R215, R234). -/
def issueMatrix (op : JobOp) (agent : Nat) (foot : List FootPart) (isJob : Bool) (f : Job → Job) : Op Unit := do
  let s ← opGet
  if isJob && (s.freeEntry s.cur).isNone then opWait .depEntry
  else opMod (fun s =>
    let j := f (s.newJob 3 agent op foot)
    let j1 := { j with entry := if isJob then j.entry else none, waits := true }
    let s1 := s.issueJob j1
    s1.block s1.cur (.matrix s.next))

def execMldb (a b : Reg) (ty : Ty) (s : State) : Host.Outcome State Fault Refusal :=
  runOp (do
    arrayOp
    let r ← matrixRecord (s.reg a) ty (fun r => decide (r.ext.getD 1 1 ≤ 128))
    opCheck (sliceOk s.sliceBytes r.ty (r.ext.getD 0 0) (s.reg b)) 0x0C (s.reg b)
    placeShapes [(r, false)] none
    issueMatrix (.mldb r (s.reg b).toNat) 4 [shapeFoot s.cur r false] true id) s

def execMma (a b c : Reg) (ty : Ty) (rnd : Rnd) (s : State) : Host.Outcome State Fault Refusal :=
  runOp (do
    arrayOp
    let r ← matrixRecord (s.reg a) ty (fun _ => true)
    opCheck (sliceOk s.sliceBytes r.ty (r.ext.getD 0 0) (s.reg b)) 0x0C (s.reg b)
    let w := s.reg c
    opCheck (rowOk 0x3F w && decide (rowRow0 w + r.ext.getD 1 1 ≤ 64)) 0x0C w
    placeShapes [(r, false)] none
    issueMatrix (.mma r (s.reg b).toNat (rowRow0 w) (s.slotMode rnd)) 4 [shapeFoot s.cur r false] true id) s

def execMzero (a : Reg) (s : State) : Host.Outcome State Fault Refusal :=
  runOp (do
    arrayOp
    let w := s.reg a
    opCheck (rowOk 0x7F3F3F w) 0x0C w
    issueMatrix (.mzero (rowRow0 w) (rowRows w + 1) (rowCols w + 1)) 4 [] false id) s

/-- The hand-off of MDRN with HAND 1 (R240): the block of Table 11.5 and its checks. -/
def handOp (ty : Ty) (label block w : Word) (om : Bool) (md : RMode) : Op Unit := do
  let s ← opGet
  let off := addrOff block
  let _ ← opOk (s.localAddr s.cur block)
  opCheck (decide (State.addrTile s.cur block = some (tileOf s.cur)) && s.rangeOk s.cur off 32) 0x05 block
  opCheck (!s.recPoisoned s.cur off 4) 0x13 (Config.poisonValue block)
  let ws := s.recWords s.cur off 4
  let w1 := ws.getD 1 0
  let w3 := ws.getD 3 0
  opCheck (decide (w1.extractLsb' 32 32 = 0) && decide (w3 &&& ~~~ (0x9F : Word) = 0)) 0x0C block
  opCheck (decide (off % 32 = 0)) 0x04 block
  opCheck (lblValid label) 0x07 label
  let sync := ws.getD 2 0
  let sem ← signalOp sync (w3.getLsbD 7) (w3.extractLsb' 0 5).toNat
  let doff := (ws.getD 0 0).toNat
  let gstr := signedField (w1.toNat % 2 ^ 32) 32
  let rows := rowRows w + 1
  let cols := rowCols w + 1
  let n := unitBytes (tyNum ty)
  let (lo, hi) := spanOf ((List.range rows).flatMap (fun (i : Nat) => ([0, cols - 1] : List Nat).map (fun (j : Nat) => (doff : Int) + n * ((j : Int) + (i : Int) * gstr))))
  issueMatrix (.handoff label doff gstr (tyNum ty) (rowRow0 w) rows cols (w.getLsbD 25) om md) 3
    [.label label lo (hi + n - 1) true] true (fun j => { j with sync := sync, sem := sem })

/-- MDRN with HAND 0 (R239). -/
def drainOp (ty : Ty) (addr w : Word) (md : RMode) : Op Unit := do
  let r ← matrixRecord addr ty (fun r => decide (r.ext.getD 0 0 = rowCols w + 1) && decide (r.ext.getD 1 1 = rowRows w + 1))
  placeShapes [(r, true)] none
  let s ← opGet
  issueMatrix (.drain r (rowRow0 w) (rowRows w + 1) (rowCols w + 1) (w.getLsbD 25) md) 4 [shapeFoot s.cur r true] true id

def execMdrn (a b c : Reg) (ty : Ty) (rnd : Rnd) (s : State) : Host.Outcome State Fault Refusal :=
  runOp (do
    arrayOp
    let w := s.reg c
    opCheck (rowOk 0x37F3F3F w) 0x0C w
    if w.getLsbD 24 then handOp ty (s.reg a) (s.reg b) w false (s.slotMode rnd) else drainOp ty (s.reg a) w (s.slotMode rnd)) s

def execMdrnOm (a b c : Reg) (ty : Ty) (rnd : Rnd) (s : State) : Host.Outcome State Fault Refusal :=
  runOp (do
    arrayOp
    let w := s.reg c
    opCheck (rowOk 0x37F3F3F w && w.getLsbD 24 && (ty = .f32 || ty = .s32)) 0x0C w
    handOp ty (s.reg a) (s.reg b) w true (s.slotMode rnd)) s

/-- A job is a matrix operation still in the array. -/
def Job.inArray (j : Job) : Bool :=
  match j.op with
  | .mldb .. | .mma .. | .mzero .. | .drain .. | .handoff .. => true
  | .copy .. | .conv .. | .gather .. | .handed .. => false

/-- The word of Table 11.4. -/
def State.mstatWord (s : State) : Word :=
  let tile := tileOf s.cur
  let id := s.myLaunchId
  let queued := (s.eng.jobs.filter (fun j => j.2.inArray && decide (tileOf j.2.tid = tile) && decide (j.2.launch = id)
    && decide (j.2.tid ≠ s.cur))).length
  let bb := match s.arrayHolder tile with
    | some (_, l) => if s.holdsArray then l.bbank else 0
    | none => 0
  word (bb * 2 ^ 16 + queued % 256 * 2 ^ 8 + (if s.holdsArray then 1 else 0))

def execMstat (a : Reg) (s : State) : Host.Outcome State Fault Refusal :=
  runOp (do
    tenantOnly
    opMod (fun s => s.setReg a s.mstatWord)) s

/-! ## What matrix operations do -/

/-- Kc of R101. -/
def chunkLen (ty : Nat) : Nat :=
  match ty with
  | 12 => 128
  | 0 | 11 => 64
  | _ => 16

/-- The values of a run of K elements of a type from the bytes of a column slice. -/
def sliceVals (ty : Ty) (k : Nat) (bytes : List Nat) : Flagged (List Val) :=
  if ty = .q4x then
    (List.range (k / 32)).foldl (fun p b =>
      let (vs, fl) := decodeQ4X ((bytes.drop (18 * b)).take 18)
      (p.1 ++ vs, p.2 ||| fl)) ([], 0)
  else
    ((List.range k).map (fun i => ty.value (leNat (((bytes.drop (i * ty.bytes)).take ty.bytes).map (BitVec.ofNat 8)))), 0)

/-- One floating cell over its chunks (R101). -/
def cellFloat (md : RMode) (kc : Nat) : Nat → List Val → List Val → Nat → Flagged Nat
  | 0, _, _, acc => (acc, 0)
  | f + 1, as, bs, acc =>
    if as = [] then (acc, 0)
    else
      let ps := List.zipWith Val.mul (as.take kc) (bs.take kc)
      let f1 := ps.foldl (fun x p => x ||| p.2) 0
      let (sum, f2) := exactSum md (ps.map (·.1))
      let (v, f3) := exactSum md [Ty.f32.value acc, sum]
      let (c, f4) := roundTo .f32 md v
      let nan := (as.take kc).any Val.isNan || (bs.take kc).any Val.isNan
      let f12 := if nan then 0 else f1 ||| f2
      let f3' := if (Ty.f32.value acc).isNan || sum.isNan then 0 else f3
      let (r, f5) := cellFloat md kc f (as.drop kc) (bs.drop kc) c
      (r, f12 ||| f3' ||| f4 ||| f5)

/-- One s8 cell over its chunks, clamped at each (R102). -/
def cellInt (kc : Nat) : Nat → List Int → List Int → Int → Int × Nat
  | 0, _, _, acc => (acc, 0)
  | f + 1, as, bs, acc =>
    if as = [] then (acc, 0)
    else
      let x := acc + (List.zipWith (· * ·) (as.take kc) (bs.take kc)).foldl (· + ·) 0
      let hi : Int := 2 ^ 31 - 1
      let lo : Int := -(2 ^ 31)
      let (y, f1) := if hi < x then (hi, fSaturate) else if x < lo then (lo, fSaturate) else (x, 0)
      let (r, f2) := cellInt kc f (as.drop kc) (bs.drop kc) y
      (r, f1 ||| f2)

/-- Row `i` of an A record: its bytes as the array reads them. -/
def State.rowBytes (s : State) (tid : Nat) (r : Shape) (i : Nat) : List Nat :=
  let k := r.ext.getD 0 0
  if r.ty = 12 then (List.range (k / 32)).flatMap (fun b => s.readBlock tid r (i * (k / 32) + b))
  else (List.range k).flatMap (fun e => (leBytes r.width (s.readElem tid r [e, i])).map (·.toNat))

/-- The bytes of a column's slice. -/
def State.colBytes (s : State) (tile col off n : Nat) : List Nat := (s.eng.bbank.bytes (bKey tile col off) n).map (·.toNat)

/-- MMA on one cell. -/
def mmaCell (ty : Ty) (md : RMode) (k : Nat) (arow bcol : List Nat) (acc : Nat) : Flagged Nat :=
  let (as, f1) := sliceVals ty k arow
  let (bs, f2) := sliceVals ty k bcol
  if ty = .s8 then
    let ints := fun (b : List Nat) => (b.take k).map Ty.s8.intOf
    let (v, fl) := cellInt (chunkLen 0) (k + 1) (ints arow) (ints bcol) (Ty.s32.intOf acc)
    (Ty.s32.codeInt v, fl)
  else
    let (c, fl) := cellFloat md (chunkLen (tyNum ty)) (k + 1) as bs acc
    (c, fl ||| f1 ||| f2)

/-- Some 64-byte unit of the B bank that an MMA reads is poisoned. -/
def State.bPoisoned (s : State) (tile off n : Nat) : Bool :=
  s.eng.bPois.any (fun u => (List.range 128).any (fun c => decide (bKey tile c off / 64 ≤ u)
    && decide (u * 64 < bKey tile c off + n)))

/-- MMA (R237): every row of A, every column. -/
def State.mmaAll (s : State) (j : Job) (r : Shape) (off row0 : Nat) (md : RMode) : State × Nat :=
  let tile := tileOf j.tid
  let ty := (Ty.ofCode (BitVec.ofNat 4 r.ty)).getD .f32
  let k := r.ext.getD 0 0
  let rows := (List.range (r.ext.getD 1 1)).map (fun i => (row0 + i, s.rowBytes j.tid r i))
  let cols := (List.range 128).map (fun c => (c, s.colBytes tile c off (sliceLen r.ty k)))
  rows.foldl (fun p row => cols.foldl (fun p col =>
    let (v, fl) := mmaCell ty md k row.2 col.2 (p.1.cell tile row.1 col.1)
    (p.1.setCell tile row.1 col.1 v, p.2 ||| fl)) p) (s, 0)

/-- Energy of one multiply-accumulate in fJ (Table 20.2). -/
def macEnergy (ty : Nat) : Nat :=
  match ty with
  | 12 => 20
  | 0 | 11 => 40
  | _ => 160

/-- The energy of an MMA in fJ (Table 20.2): its multiply-accumulates, its rows read from the scratchpad and its 128 columns
read from the stacked SRAM. DEDUCED, log entry 35. -/
def State.mmaFj (s : State) (j : Job) (r : Shape) (off : Nat) : Nat :=
  let k := r.ext.getD 0 0
  let rows := (List.range (r.ext.getD 1 1)).map (fun i =>
    unitCount ((List.range (k / unitElems r.ty)).flatMap (fun e => s.elemKeys j.tid r [e * unitElems r.ty, i])))
  let cols := (List.range 128).map (fun c =>
    unitCount ((List.range (sliceLen r.ty k)).map (bKey (tileOf j.tid) c off + ·)))
  macEnergy r.ty * (k * r.ext.getD 1 1 * 128) + 6000 * rows.sum + 20000 * cols.sum

/-- A drained cell in a type (R239). -/
def drainCell (ty : Ty) (md : RMode) (c : Nat) : Flagged Nat :=
  if ty = .s32 then (c, 0) else roundTo ty md (Ty.f32.value c)

/-- A scratchpad byte that an engine reads lies in a window at or above its watermark. -/
def State.keysHeld (s : State) (l : List Nat) : Bool := l.any (fun k => (s.windowBlocks k 1).isSome)

/-- Bytes written to the B banks with their poison: a unit that takes a poisoned byte is poisoned, one written whole by sound
bytes is clean (R231, R359). DEDUCED, log entry 29. -/
def EngState.putB (e : EngState) (base : Nat) (l : List (Byte × Bool)) : EngState :=
  let at_ := l.zipIdx.map (fun p => (base + p.2, p.1.2))
  let whole (u : Nat) : Bool := (List.range 64).all (fun i => at_.contains (u * 64 + i, false))
  { e with bbank := e.bbank.writeBytes base (l.map (·.1))
           bPois := addUnits (e.bPois.filter (fun u => !whole u)) ((at_.filter (·.2)).map (fun p => p.1 / 64)) }

/-- One column of an MLDB (R236). -/
def State.mldbSector (s : State) (j : Job) (r : Shape) (off : Nat) : SectorEnd :=
  let tile := tileOf j.tid
  let c := j.pos
  let k := r.ext.getD 0 0
  let idxs := (List.range (k / unitElems r.ty)).map (fun e => [e * unitElems r.ty, c])
  let keys := idxs.flatMap (s.elemKeys j.tid r)
  if s.keysHeld keys then .hold
  else
    let base := bKey tile c off
    let s1 := (s.chargeSpad j.tid keys).charge (s.mapOf j.tid) (20000 * unitCount ((List.range (sliceLen r.ty k)).map (base + ·)))
    .done { s1 with eng := s1.eng.putB base (keys.map (fun k => (s.spad.read k, s.spadPoisoned k 1))) }
      { j with pos := j.pos + 1, sect := j.sect + 1 }

/-- One row of an MDRN with HAND 0 (R239); a destination tagged since issue faults (R231). -/
def State.drainSector (s : State) (j : Job) (r : Shape) (row0 cols : Nat) (clear : Bool) (md : RMode) : SectorEnd :=
  let tile := tileOf j.tid
  let ty := (Ty.ofCode (BitVec.ofNat 4 r.ty)).getD .f32
  let row := row0 + j.pos
  let out := (List.range cols).map (fun c => drainCell ty md (s.cell tile row c))
  let keys := (List.range cols).map (fun c => s.elemKeys j.tid r [c, j.pos])
  match (List.range cols).find? (fun c => (keys.getD c []).any s.tagged) with
  | some c => .fault s 0x0D (r.addr [c, j.pos])
  | none =>
    let s1 := (s.chargeSpad j.tid keys.flatten).spadPut ((List.zip keys out).flatMap (fun p => List.zip p.1 (leBytes r.width p.2.1))) false
    let s2 := if clear then (List.range cols).foldl (fun s c => s.setCell tile row c 0) s1 else s1
    .done s2 { j with pos := j.pos + 1, sect := j.sect + 1, flags := j.flags ||| out.foldl (fun f o => f ||| o.2) 0 }

/-- The rows of a hand-off pass to the copy engine (R240). -/
def State.handRows (s : State) (j : Job) (label : Word) (doff : Nat) (gstr : Int) (ty row0 rows cols : Nat) (clear om : Bool)
    (md : RMode) : State × Job :=
  let tile := tileOf j.tid
  let t := (Ty.ofCode (BitVec.ofNat 4 ty)).getD .f32
  let cells := (List.range rows).flatMap (fun i => (List.range cols).map (fun c => (row0 + i, c)))
  let out := cells.map (fun p => drainCell t md (s.cell tile p.1 p.2))
  let s1 := if clear then cells.foldl (fun s p => s.setCell tile p.1 p.2 0) s else s
  (s1, { j with op := .handed label doff gstr ty cols om (out.map (·.1)), engine := 1, pos := 0, waits := false
                flags := j.flags ||| out.foldl (fun f o => f ||| o.2) 0 })

/-! ## The converter -/

/-- The records of a converter record at an address (R241): rows 1 to 4 of Table 10.1. -/
def converterRecord (addr : Word) : Op (Shape × Shape × Word) := do
  tenantOnly
  let s ← opGet
  let key ← opOk (s.localAddr s.cur addr)
  let _ ← opOk (s.localAddr s.cur (addr + 32))
  let off := addrOff addr
  opCheck (s.rangeOk s.cur off 96) 0x05 addr
  opCheck (decide (key % 32 = 0)) 0x04 addr
  opCheck (decide (keyTile key = tileOf s.cur)) 0x0C addr
  opCheck (!s.recPoisoned s.cur off 12) 0x13 (Config.poisonValue addr)
  let ws := s.recWords s.cur off 12
  opCheck (shapeOk (ws.take 4)) 0x0C addr
  opCheck (shapeOk ((ws.drop 4).take 4)) 0x0C (addr + 32)
  let cw := ws.getD 8 0
  opCheck (decide (cw &&& 0xFFFFFFFFFF6000C0 = 0) && decide (cw.extractLsb' 0 3 ≤ 2)
    && (!cw.getLsbD 5 || decide (cw.extractLsb' 3 2 = 0)) && (ws.drop 9).all (fun w => decide (w = 0))) 0x0C addr
  pure (shapeOf (ws.take 4), shapeOf ((ws.drop 4).take 4), cw)

/-- Row 5 refuses a record of a pack or unpack for its element count or because it repeats an element (R207, DEDUCED,
log entry 21). -/
def packBad (d r : Shape) : Bool := decide (r.count % 32 ≠ 0) || decide (r.count ≠ d.count) || repeats r

/-- Row 5 for a converter job (R242): the address of the record it refuses, D before S. -/
def convBad (op : Nat) (d a : Shape) : Option Nat :=
  let float (t : Nat) : Bool := decide (8 ≤ t) && decide (t ≤ 11)
  let own (r : Shape) : Bool := r.chan || !q4xOk r
  let bad : Bool × Bool := match op with
    | 0 => (decide (11 < d.ty), decide (11 < a.ty) || !extentsOk d a)
    | 1 => (decide (d.ty ≠ 12) || packBad d d, !float a.ty || packBad d a)
    | _ => (decide (11 < d.ty) || packBad d d, decide (a.ty ≠ 12) || packBad d a)
  if bad.1 || own d then some 0 else if bad.2 || own a then some 1 else none

/-- A converter request: every check of R241, and the job. -/
def converterRequest (addr sync : Word) : Op Job := do
  let (d, a, cw) ← converterRecord addr
  let op := (cw.extractLsb' 0 3).toNat
  match convBad op d a with
  | some i => opTrap 0x0C (addr + word (32 * i))
  | none => pure ()
  placeShapes [(d, true), (a, false)] none
  let sem ← signalOp sync (cw.getLsbD 23) (cw.extractLsb' 16 5).toNat
  let s ← opGet
  let md := if cw.getLsbD 5 then frmMode s.me.frm else (RMode.ofCode (cw.extractLsb' 3 2)).getD .rne
  pure { s.newJob 2 2 (.conv op d a (signedField (cw.extractLsb' 8 8).toNat 8) md)
           [shapeFoot s.cur d true, shapeFoot s.cur a false] with sync := sync, sem := sem, fifo := true }

def execCvj (a b : Reg) (s : State) : Host.Outcome State Fault Refusal :=
  runOp (do
    let j ← converterRequest (s.reg a) (s.reg b)
    let s ← opGet
    if s.jobReady s.cur then opMod (·.issueJob j) else opWait .cvEntry) s

def execCvjt (a b : Reg) (s : State) : Host.Outcome State Fault Refusal :=
  runOp (do
    let j ← converterRequest (s.reg a) (s.reg b)
    let s ← opGet
    if s.jobReady s.cur then
      opMod (fun s => (s.issueJob j).setReg a (word (entryOrdinal s.mySlots ((s.freeEntry s.cur).getD 0))))
    else opMod (·.setReg a Word.ones)) s

/-- One beat of a converter job (R242). -/
def State.convSector (s : State) (j : Job) (op : Nat) (d a : Shape) (shift : Int) (md : RMode) : SectorEnd :=
  let dt := (Ty.ofCode (BitVec.ofNat 4 d.ty)).getD .f32
  let st := (Ty.ofCode (BitVec.ofNat 4 a.ty)).getD .f32
  let w := if op = 0 then 64 / Nat.max 1 (Nat.max d.width a.width) else 32
  let lo := j.pos * w
  let ps := (List.range (Nat.min w (d.count - lo))).map (lo + ·)
  let srcIdx (p : Nat) : List Nat := if op = 0 then indexOf d.ext p else indexOf a.ext p
  let srcKeys := if op = 2 then s.elemKeys j.tid a (srcIdx lo) else ps.flatMap (fun p => s.elemKeys j.tid a (srcIdx p))
  let bad := srcKeys.any (fun k => s.spadPoisoned k 1)
  let value (p : Nat) : Val := (st.value (s.readElem j.tid a (srcIdx p))).scale shift
  let (writes, fl) : List (List Nat × List Nat) × Nat := match op with
    | 0 =>
      let rs := ps.map (fun p => (indexOf d.ext p, roundTo dt md (value p)))
      (rs.map (fun r => (r.1, (leBytes d.width r.2.1).map (·.toNat))), rs.foldl (fun f r => f ||| r.2.2) 0)
    | 1 =>
      let (bytes, f) := encodeQ4X md (ps.map value)
      ([(indexOf d.ext lo, bytes)], f)
    | _ =>
      let (vs, f0) := decodeQ4X (s.readBlock j.tid a j.pos)
      let rs := (List.zip ps vs).map (fun p => (indexOf d.ext p.1, roundTo dt md (p.2.scale shift)))
      (rs.map (fun r => (r.1, (leBytes d.width r.2.1).map (·.toNat))), rs.foldl (fun f r => f ||| r.2.2) f0)
  if s.keysHeld srcKeys then .hold
  else match writes.find? (fun x => (s.elemKeys j.tid d x.1).any s.tagged) with
    | some x => .fault s 0x0D (d.addr x.1)
    | none =>
      let bytes := writes.flatMap (fun x => List.zip (s.elemKeys j.tid d x.1) (x.2.map (BitVec.ofNat 8)))
      let s1 := ((s.charge (s.mapOf j.tid) 8000).chargeSpad j.tid srcKeys).chargeSpad j.tid (bytes.map (·.1))
      .done (s1.spadPut bytes bad) { j with pos := j.pos + 1, sect := j.sect + 1, flags := j.flags ||| fl }

end Sys2Proof.Machine
end

