-- ==== Sys2Proof/Machine/Jobs.lean ====
section
/-! DEFINITION. The lives of engine jobs (R217, R218, R227, R232 to R234, R240), the fault ring (R313, R314), and the events
FAULT_BUFFER_DRAIN, FAULT_ACTION_RESUME and FAULT_ACTION_CANCEL. -/

namespace Sys2Proof.Machine

/-! ## Hand-offs -/

/-- The byte of the label's node where element `u` of a hand-off goes (R240). -/
def handOff (doff : Nat) (gstr : Int) (n cols u : Nat) : Int :=
  (doff : Int) + n * (((u % Nat.max 1 cols : Nat) : Int) + ((u / Nat.max 1 cols : Nat) : Int) * gstr)

/-- The next sector of a hand-off: a store of each code, or an addition for a merge (R227, R240). -/
def State.handSector (s : State) (j : Job) (l : Word) (doff : Nat) (gstr : Int) (ty cols : Nat) (om : Bool) (data : List Nat) :
    SectorEnd :=
  let n := unitBytes ty
  let off := handOff doff gstr n cols
  let len := sectorLen off (fun _ => false) data.length j.pos
  let us := (List.range len).map (j.pos + ·)
  match s.sectorAt j .store l (us.map off) n n with
  | (s0, .error (c, v)) => .fault s0 c v
  | (s0, .ok t) =>
    let s1 := s0.chargeHome j.tid (us.flatMap (fun u => s0.bytesOf t (off u).toNat n)) true
    let h := s1.jobHolder j
    let place (u : Nat) : List (Nat × Nat) := s1.bytesOf t (off u).toNat n
    if us.any (fun u => (place u).any (fun p => s1.forumRefuses p.1 p.2)) ∨ (om ∧ s1.maps.isHost t.node) then .fault s1 0x09 l
    else match us.find? (fun u => (place u).any (fun p => s1.storeRefused h p.1 p.2)) with
      | some u => .fault s1 0x0A (Config.tenureValue l (word (off u).toNat))
      | none =>
        if om && us.any (fun u => (place u).any (fun p => s1.unpublished h p.1 p.2)) then .hold else
        let (s2, fl) := us.foldl (fun (p : State × Nat) u =>
          let x := data.getD u 0
          let (v, f) : Flagged Nat :=
            if om then addElem ty (leNat ((place u).map (fun q => p.1.seenByte h q.1 q.2))) x else (x, 0)
          (p.1.putBytes h (place u) n v, p.2 ||| f)) (s1, 0)
        let (s3, j1) := s2.endPut h j (us.flatMap (fun u => (place u).map (fun q => (q, om && s1.bytePoisoned h q.1 q.2))))
        .done s3 { j1 with pos := j.pos + len, sect := j.sect + 1, flags := j.flags ||| fl }

/-! ## Merges (R227) -/

/-- TYPE, element count and first byte offset of an ordered contribution. -/
def Job.contribution (j : Job) : Option (Nat × Nat × Nat) :=
  match j.op with
  | .copy 6 _ _ r => some (r.ty, r.units, r.goff.toNat)
  | .handed _ doff _ ty _ true data => some (ty, data.length, doff)
  | _ => none

/-- The merge of a key, with its number. -/
def State.mergeOf (s : State) (launch node off : Nat) : Option (Nat × Merge) :=
  s.eng.merges.find? (fun m => decide (m.2.launch = launch) && decide (m.2.node = node) && decide (m.2.off = off))

/-- Where a contribution stands at its destination's home. -/
inductive MergeEnd where
  | fault (cause : Nat) (v : Word)
  | hold
  /-- it is inside the window but the cursor has not reached it -/
  | arrive (s : State)
  /-- the cursor has reached it -/
  | turn (s : State) (id : Nat)

/-- Judges a contribution: its key, its window and its slice. One of another module's launch has that launch's number here. -/
def State.judgeMerge (s : State) (id : Nat) (j : Job) (ty count off : Nat) : MergeEnd :=
  let l := j.labelOf
  match (resolve s.maps (s.mapOf j.tid) l).result with
  | .error (c, v) => .fault c v
  | .ok (_, t) =>
    let node := t.node * 256 + (match t.child with
      | some k => k + 1
      | none => 0)
    let slice := j.slice.toNat
    let (k, m) := (s.mergeOf j.launch node off).getD
      (s.next, { launch := j.launch, node := node, off := off, cursor := 0, ty := ty, count := count, seen := [] })
    let mine := decide (Store.find m.seen slice = some id)
    if m.ty ≠ ty ∨ m.count ≠ count then .fault 0x0C l
    else if (Store.find m.seen slice).isSome ∧ ¬ mine then .fault 0x0C l
    else if m.cursor + 63 < slice then .hold
    else
      let s1 : State := { s with next := if k = s.next then s.next + 1 else s.next
                                 eng := { s.eng with merges := Store.put s.eng.merges k { m with seen := Store.put m.seen slice id } } }
      if slice = m.cursor then .turn s1 k else if mine then .hold else .arrive s1

/-- An ordered contribution whose slice the cursor has reached: its next sector. -/
def State.mergeSector (s : State) (j : Job) : SectorEnd :=
  match j.op with
  | .copy 6 src dst r => s.copySector j 6 src dst r
  | .handed l doff gstr ty cols om data => s.handSector j l doff gstr ty cols om data
  | _ => .hold

/-! ## The next sector of any job -/

/-- The home of a job's label when another module is its home. -/
def State.jobHome (s : State) (j : Job) : Option Nat :=
  match j.op with
  | .copy .. | .gather .. | .handed .. =>
    let h := s.homeOf (s.mapOf j.tid) j.labelOf
    if h = 0 ∨ h = s.self then none else some h
  | _ => none

/-- The elements in a sector of a copy that leaves for another module. -/
def CopyRec.farLen (r : CopyRec) (kind u : Nat) : Nat :=
  if kind = 3 then 0 else if kind = 8 ∨ kind = 9 then r.units else sectorLen (r.labelOff kind) r.clipped r.units u

/-- What a job finds on its own tile before its next sector leaves for another module: a fault that needs no answer, or that
it cannot leave yet. -/
def State.farSector (s : State) (j : Job) : SectorEnd :=
  match j.op with
  | .copy kind src dst r =>
    let u := j.pos
    let n := r.farLen kind u
    let live := ((List.range n).map (u + ·)).filter (fun v => !r.clipped v)
    if kind = 7 ∧ !(s.windowHolding ((State.addrTile j.tid dst).getD 0) (addrOff dst) (addrOff dst + r.localBytes 7)
        && decide (State.addrTile j.tid dst = some (tileOf j.tid))) then .fault s 0x0C dst
    else if kindPuts kind ∧ s.unitHeld j kind src r u n then .hold
    else if kind ≠ 3 ∧ kind ≠ 8 ∧ kind ≠ 9 ∧ (spanOf (live.map (r.labelOff kind))).1 < 0 then .fault s 0x08 j.labelOf
    else match live.find? (fun v => decide (kind = 5) && (s.localUnit j kind src r v).any (·.2)) with
      | some v => .fault s 0x13 (Config.trapValue 3 (unitAddr j.tid kind src r v) 0)
      | none => .done s j
  | .handed l doff gstr ty cols _ ds =>
    let off := handOff doff gstr (unitBytes ty) cols
    let n := sectorLen off (fun _ => false) ds.length j.pos
    if (spanOf (((List.range n).map (j.pos + ·)).map off)).1 < 0 then .fault s 0x08 l else .done s j
  | _ => .done s j

/-- The codes, with their poison, that a job's next sector takes to another module. -/
def State.farData (s : State) (j : Job) : List (Nat × Bool) :=
  match j.op with
  | .copy kind src _ r =>
    if kind = 8 then s.gradient j src r
    else if kindPuts kind then (List.range (r.farLen kind j.pos)).map (fun i =>
      let cells := s.localUnit j kind src r (j.pos + i)
      (leNat (cells.map (·.1)), cells.any (·.2)))
    else []
  | _ => []

/-- The next sector of a job whose label another module homes leaves, once what it finds on its own tile lets it; the
job waits for the answer (R222, R339). DESIGN CHOICE, log entry 41. -/
def State.askSector (s : State) (id : Nat) : State :=
  match s.job id with
  | some j => match s.jobHome j with
    | some h =>
      if j.away ∨ j.state ≠ .started ∨ j.total ≤ j.pos ∨ s.mod.link.lost.contains h then s
      else match s.farSector j with
        | .done _ _ =>
          let x := s.jobHolder j
          let who : Agent := { tid := j.tid, level := j.level, fused := x.fused, launch := x.launch, core := s.coreWord j.tid }
          let s1 := if j.contribution.isSome then s.noteReach j.launch h else s
          (s1.setJob id { j with away := true }).sendLink h (s.mapOf j.tid) (.ask id who j.slice j.op j.pos (s.farData j))
        | .fault _ _ _ | .hold => s
    | none => s
  | none => s

/-- An attempt at a job's next sector; `hold` where another event performs it. -/
def State.nextSector (s : State) (id : Nat) (j : Job) : SectorEnd :=
  match s.jobHome j with
  | some h => if s.mod.link.lost.contains h then .fault s 0x06 j.labelOf else if j.away then .hold else match s.farSector j with
    | .fault s1 c v => .fault s1 c v
    | .done _ _ | .hold => .hold
  | none => match j.op with
    | .copy kind src dst r =>
      if kind = 3 then s.gatherStart j src dst r
      else if kind = 8 ∨ kind = 9 then
        match s.forumFault id j kind r with
        | some (c, v) => .fault s c v
        | none => .hold
      else if kind = 6 then
        match s.judgeMerge id j r.ty r.units r.goff.toNat with
        | .fault c v => .fault s c v
        | .hold | .arrive _ => .hold
        | .turn s1 _ => s1.mergeSector j
      else s.copySector j kind src dst r
    | .gather dst r l nodes => s.gatherSector j dst r l nodes
    | .conv op d a shift md => s.convSector j op d a shift md
    | .mldb r off => s.mldbSector j r off
    | .drain r row0 _ cols clear md => s.drainSector j r row0 cols clear md
    | .handed l doff gstr ty cols om data =>
      if om then
        match s.judgeMerge id j ty data.length doff with
        | .fault c v => .fault s c v
        | .hold | .arrive _ => .hold
        | .turn s1 _ => s1.mergeSector j
      else s.handSector j l doff gstr ty cols om data
    | .mma .. | .mzero .. | .handoff .. => .hold

/-- A started converter job holds the converter: it waits for no watermark, and its partition has not stopped (Table 11.1,
R328). -/
def State.converts (s : State) (k : Job) : Bool :=
  decide (k.state = .started) && s.runsFor k.tid && (match k.op with
    | .conv op d a shift md => (match s.convSector k op d a shift md with
      | .hold => false
      | .done _ _ | .fault _ _ _ => true)
    | _ => false)

/-- The engine is at this job: the converter runs one job at a time, the array serves in issue order (R234, R242). -/
def State.engineTurn (s : State) (id : Nat) (j : Job) : Bool :=
  let tile := tileOf j.tid
  match j.op with
  | .conv .. => !s.eng.jobs.any (fun k => decide (k.1 < id) && decide (tileOf k.2.tid = tile) && s.converts k.2)
  | .copy .. | .gather .. | .handed .. => true
  | _ => !s.eng.jobs.any (fun k => decide (k.1 < id) && decide (tileOf k.2.tid = tile) && k.2.inArray)

/-- The ordered contributions move by MERGE_CONTRIBUTION alone, the Forum's jobs by theirs. -/
def Job.ownEvent (j : Job) : Bool :=
  j.contribution.isSome || (match j.op with
    | .copy kind _ _ _ => decide (kind = 8) || decide (kind = 9)
    | _ => false)

/-- Performs sectors while they succeed, by fuel. -/
def State.sectors (s : State) (id : Nat) : Nat → State
  | 0 => s
  | f + 1 => match s.job id with
    | some j =>
      if j.total ≤ j.pos ∨ j.ownEvent then s
      else match s.nextSector id j with
        | .done s1 j1 => (s1.setJob id j1).sectors id f
        | .fault _ _ _ | .hold => s
    | none => s

/-- A job may be worked on: its partition has not stopped, its bundle can no longer trap, its turn has come. -/
def State.jobRuns (s : State) (id : Nat) (j : Job) : Bool :=
  s.runsFor j.tid && s.depClear j.dep && s.engineTurn id j

/-- A job whose edges have all completed starts and frees its FIFO entry (R217); a started job goes on for some sectors. -/
def State.startJob (s : State) (id sectors : Nat) : State :=
  match s.job id with
    | some j =>
      if ¬ s.jobRuns id j ∨ s.openEdges j ≠ [] then s
      else match j.state with
        | .queued | .started => (s.setJob id { j with state := .started, fifo := false }).sectors id sectors |>.askSector id
        | .parked _ _ _ => s
    | none => s

/-! ## Completion (R218) -/

/-- The scratchpad key of a job's sync word. -/
def State.syncKey (s : State) (j : Job) : Option Nat :=
  if j.sync = 0 then none else match s.localAddr j.tid j.sync with
    | .ok k => some k
    | .error _ => none

/-- The signals of a finished job cannot be performed: its sync word fails SWADD's check. -/
def State.signalBad (s : State) (j : Job) : Bool :=
  decide (j.sync ≠ 0) && (match s.syncKey j with
    | some k => !s.swAddOk k
    | none => true)

/-- A job leaves its entry: the threads that wait for it go on. -/
def State.freeJob (s : State) (id : Nat) : State :=
  let s1 := { s with eng := { s.eng with jobs := Store.del s.eng.jobs id } }
  { s1 with threads := s1.threads.map (fun p =>
      (p.1, { p.2 with waits := p.2.waits.filter (fun w => decide (w ≠ .dtwait id) && decide (w ≠ .matrix id)) })) }

/-- A finished job performs its signals, gives its flags to its slot and frees its entry (R218, R243). -/
def State.completeJob (s : State) (id : Nat) (j : Job) : State :=
  let s1 := match s.syncKey j with
    | some k => (s.swAdd k 1).chargeSpad j.tid [k]
    | none => s
  let s2 := match j.sem with
    | some k => s1.semV k
    | none => s1
  (s2.orFlags j.tid j.flags).freeJob id

/-- The remaining sectors of a job, then its signals, once a mirror partner has performed what was forwarded (R218, R277). -/
def State.finishJob (s : State) (id : Nat) : State :=
  match s.job id with
    | some j =>
      if j.state ≠ .started ∨ j.inArray ∨ ¬ s.jobRuns id j then s
      else
        let s1 := s.sectors id (j.total + 1)
        match s1.job id with
        | some j1 => if j1.total ≤ j1.pos ∧ ¬ s1.signalBad j1 ∧ ¬ s1.mirrorOpen j1.mirr then s1.completeJob id j1 else s1
        | none => s1
    | none => s

/-- One sector of a stream job lands and the watermark advances (R230). -/
def State.landSector (s : State) (id : Nat) : State :=
  match s.job id with
    | some j => match j.op with
      | .copy 7 _ _ _ => if j.state = .started ∧ s.jobRuns id j then s.sectors id 1 else s
      | _ => s
    | none => s

/-- A contribution arrives, and merges when the cursor is at its slice (R227). -/
def State.contribute (s : State) (id : Nat) : State :=
  match s.job id with
    | some j => match j.contribution with
      | some (ty, count, off) =>
        if j.state ≠ .started ∨ ¬ s.jobRuns id j ∨ (s.jobHome j).isSome ∨ j.total ≤ j.pos then s
        else match s.judgeMerge id j ty count off with
          | .fault _ _ | .hold => s
          | .arrive s1 => s1
          | .turn s1 k =>
            let rec go (s : State) (j : Job) : Nat → State × Job
              | 0 => (s, j)
              | f + 1 => if j.total ≤ j.pos then (s, j) else match s.mergeSector j with
                | .done s2 j2 => go s2 j2 f
                | .fault _ _ _ | .hold => (s, j)
            let (s2, j2) := go s1 j (j.total + 1)
            let s3 := s2.setJob id j2
            if j2.total ≤ j2.pos then
              { s3 with eng := { s3.eng with merges := Store.upd s3.eng.merges k (fun m => { m with cursor := m.cursor + 1 }) } }
            else s3
      | none => s
    | none => s

/-! ## Faults -/

/-- LABEL and WHERE of the sector that a job stands at (Table 19.3). -/
def State.sectorPlace (s : State) (j : Job) : Word × Word :=
  match j.op with
  | .copy kind src _ r =>
    if kind = 3 then (src, r.goff)
    else if kind = 8 ∨ kind = 9 then (j.labelOf, 0)
    else
      let n := sectorLen (r.labelOff kind) r.clipped r.units j.pos
      let live := ((List.range n).map (j.pos + ·)).filter (fun u => !r.clipped u)
      (j.labelOf, BitVec.ofInt 64 (spanOf (live.map (r.labelOff kind))).1)
  | .gather _ r l nodes => match nodes[j.pos]? with
    | some (id, child) =>
      (targetLabel s.maps (s.mapOf j.tid) { node := id, child := child }, r.goff)
    | none => (l, r.goff)
  | .handed l doff gstr ty cols _ _ => (l, BitVec.ofInt 64 (handOff doff gstr (unitBytes ty) cols j.pos))
  | .conv op d a _ _ =>
    let w := if op = 0 then 64 / Nat.max 1 (Nat.max d.width a.width) else 32
    (0, d.addr (indexOf d.ext (j.pos * w)))
  | .mldb r _ => (0, r.addr [0, j.pos])
  | .drain r .. => (0, r.addr [0, j.pos])
  | .mma r .. => (0, r.addr [])
  | .mzero .. => (0, 0)
  | .handoff l doff .. => (l, word doff)

/-- The record of a job's fault. -/
def State.faultRecord (s : State) (id : Nat) (j : Job) (cause : Nat) (v : Word) : FaultRec :=
  let slots := match s.launch j.launch with
    | some l => l.slots
    | none => 0
  let (l, w) := s.sectorPlace j
  { job := id, cause := cause, agent := j.agent, ord := entryOrdinal slots (j.entry.getD 0), core := s.coreWord j.tid
    value := v, label := l, wher := w, sector := j.sect, stamp := s.cycle, sync := j.sync }

/-- The set and block at which a job of the Forum parks (R278). -/
def State.parkedAt (s : State) (j : Job) : Option (Nat × Nat) :=
  match j.op with
  | .copy kind _ _ _ =>
    if kind = 8 ∨ kind = 9 then match s.forumTarget j (decide (kind = 8)) with
      | .ok (node, _, k) => some (node, k)
      | .error _ => none
    else none
  | _ => none

/-- A fault enters its die's buffer of 64 records, or waits for room there (R313). -/
def EngState.bufferFault (e : EngState) (key : Nat) (r : FaultRec) : EngState :=
  let q := (Store.find e.faults key).getD []
  let w := (Store.find e.late key).getD []
  if q.length < 64 ∧ w = [] then { e with faults := Store.put e.faults key (q ++ [r]) }
  else { e with late := Store.put e.late key (w ++ [r]) }

/-- The oldest record has left a buffer; a fault that waits for room enters it. -/
def EngState.drainFault (e : EngState) (key : Nat) : EngState :=
  let q := ((Store.find e.faults key).getD []).drop 1
  match (Store.find e.late key).getD [] with
  | r :: ws => { e with faults := Store.put e.faults key (q ++ [r])
                        late := if ws = [] then Store.del e.late key else Store.put e.late key ws }
  | [] => { e with faults := if q = [] then Store.del e.faults key else Store.put e.faults key q }

/-- A job parks: STATUS is written and a record queued (R232); a fault met once its partition has stopped is only marked
(R321). -/
def State.parkJob (s0 : State) (id : Nat) (j0 : Job) (cause : Nat) (v : Word) : State :=
  let j := { j0 with forum := s0.parkedAt j0, away := false }
  let s := match j.forum with
    | some (node, _) => s0.dropRead node id
    | none => s0
  if ¬ s.runsFor j.tid then s.setJob id { j with state := .parked cause v false }
  else
    let s1 := match s.syncKey j with
      | some k => (s.writeStatus k cause 1).chargeSpad j.tid [k]
      | none => s
    let key := ((s.partOf j.tid).getD 0) * 4 + dieOf j.tid
    ({ s1 with eng := s1.eng.bufferFault key (s1.faultRecord id j cause v) }).setJob id
      { j with state := .parked cause v true }

/-- The fault a job meets now: at its next sector, or at its signalling. -/
def State.faultNow (s : State) (id : Nat) (j : Job) : Option (State × Nat × Word) :=
  if j.total ≤ j.pos then (if s.signalBad j then some (s, 0x0C, j.sync) else none)
  else match s.nextSector id j with
    | .fault s1 c v => some (s1, c, v)
    | .done _ _ | .hold => none

/-- A started job whose next sector faults parks there. -/
def State.faultJob (s : State) (id : Nat) : State :=
  match s.job id with
    | some j =>
      if j.state ≠ .started ∨ ¬ s.depClear j.dep ∨ ¬ s.engineTurn id j then s
      else match s.faultNow id j with
        | some (s1, c, v) => s1.parkJob id j c v
        | none => s
    | none => s

/-! ## The fault ring (R313, R314) -/

/-- A vector of a virtual function is masked neither by its entry nor by the function's mask (R352). -/
def HostState.sends (h : HostState) (vf v : Nat) : Bool := h.unmasked.contains (vf * 64 + v) && !h.masked.contains vf

/-- Raises an MSI-X vector of a virtual function: sent, or pending while it is masked (R352). -/
def State.raiseVector (s : State) (vf v : Nat) : State :=
  let k := vf * 64 + v
  let h := s.mod.host
  let h1 : HostState :=
    if h.sends vf v then { h with sent := Store.put h.sent k ((Store.find h.sent k).getD 0 + 1) }
    else { h with pending := if h.pending.contains k then h.pending else k :: h.pending }
  { s with mod := { s.mod with host := h1 } }

/-- A 64-bit word of a node at its home. -/
def State.homeWord (s : State) (id off : Nat) : Nat := leNat ((List.range 8).map (fun i => s.homeByte id (off + i)))

/-- Writes bytes of a node at its home, clearing the poison of whole units. -/
def State.putHomeBytes (s : State) (id off : Nat) (l : List Byte) : State :=
  let at_ := (List.range l.length).map (fun i => (id, off + i))
  ((List.zip at_ l).foldl (fun s p => s.putHome p.1.1 p.1.2 p.2) s).homePoison at_ false

/-- The 64 bytes of a fault record. -/
def FaultRec.bytes (r : FaultRec) : List Byte :=
  leBytes 8 (r.cause * 2 ^ 56 + r.agent * 2 ^ 52 + r.ord * 2 ^ 40 + r.core.toNat) ++ leBytes 8 r.value.toNat
    ++ leBytes 8 r.label.toNat ++ leBytes 8 r.wher.toNat ++ leBytes 8 r.sector ++ leBytes 8 r.stamp ++ leBytes 8 r.sync.toNat
    ++ leBytes 8 0

/-- The reserved bytes of a ring's header are zero, as R313 asks (R5). -/
def State.ringClean (s : State) (id : Nat) : Bool := (List.range 48).all (fun i => decide (s.homeByte id (16 + i) = 0))

/-- FAULT_BUFFER_DRAIN: the oldest buffered record of a partition on a die is posted when its ring is well formed and has
room. -/
def execFaultBufferDrain (die part : Nat) (s : State) : Host.Outcome State Fault Refusal :=
  .next (
    let key := part * 4 + die
    let vf := (s.part part).vf
    match (Store.find s.eng.faults key).getD [], s.ringNode vf with
    | r :: _, some (id, cap) =>
      let produced := s.homeWord id 0
      let slot := 64 + 64 * (produced % cap)
      let pages := pagesOf [(id, 0), (id, slot), (id, slot + 63)]
      match s.pageChecks vf 0 pages with
      | (_, some _) => s
      | (s1, none) =>
        if cap ≤ (produced + 2 ^ 64 - s1.homeWord id 8) % 2 ^ 64 ∨ ¬ s1.ringClean id then s
        else
          let s2 := (s1.putHomeBytes id slot r.bytes).putHomeBytes id 0 (leBytes 8 (produced + 1))
          let e := s2.eng.drainFault key
          let s3 := { s2 with eng := { e with posted := Store.put e.posted (vf * 2 ^ 64 + produced) (r.job, 0) } }
          s3.raiseVector vf 0
    | _, _ => s)

/-- A posted record whose job is still parked, with the action that the ring's home has forwarded (R314). -/
def State.postedJob (s : State) (vf record : Nat) : Option (Nat × Job × Nat) :=
  match Store.find s.eng.posted (vf * 2 ^ 64 + record) with
  | some (id, act) => match s.job id with
    | some j => match j.state with
      | .parked _ _ true => some (id, j, act)
      | _ => none
    | none => none
  | none => none

/-- The record has been acted on: a second store to it has no effect. -/
def State.forgetRecord (s : State) (vf record : Nat) : State :=
  { s with eng := { s.eng with posted := Store.del s.eng.posted (vf * 2 ^ 64 + record) } }

/-- FAULT_ACTION_RESUME: ACTION 1 sets STATUS to 0 and the job goes on from its parked sector (R233). -/
def execFaultActionResume (vf record : Nat) (s : State) : Host.Outcome State Fault Refusal :=
  .next (match s.postedJob vf record with
    | some (id, j, 1) =>
      let s1 := match s.syncKey j with
        | some k => if s.tagged k then s.setWord32 k 3 0 else s
        | none => s
      (s1.setJob id { j with state := .started, forum := none }).forgetRecord vf record
    | _ => s)

/-- FAULT_ACTION_CANCEL: ACTION 2 ends the job with CODE 3; its entry is freed, its semaphore left (R314). -/
def execFaultActionCancel (vf record : Nat) (s : State) : Host.Outcome State Fault Refusal :=
  .next (match s.postedJob vf record with
    | some (id, j, 2) =>
      let cause := match j.state with
        | .parked c _ _ => c
        | _ => 0
      let s1 := match s.syncKey j with
        | some k => (s.writeStatus k cause 3).chargeSpad j.tid [k]
        | none => s
      (s1.freeJob id).forgetRecord vf record
    | _ => s)

/-! ## The array finishes -/

/-- An MMA that has read a poisoned element (R359). -/
def State.mmaPoisoned (s : State) (j : Job) (r : Shape) (off : Nat) : Bool :=
  s.bPoisoned (tileOf j.tid) off (sliceLen r.ty (r.ext.getD 0 0))
    || (r.places.flatMap (s.elemKeys j.tid r)).any (fun k => s.spadPoisoned k 1)

/-- A matrix operation ends: its thread returns with its flags (R97, R234). -/
def State.endMatrix (s : State) (id : Nat) (j : Job) (fl : Nat) : State := (s.orFlags j.tid fl).freeJob id

/-- The array's oldest operation does what remains of its work and finishes. -/
def State.finishMatrix (s : State) (id : Nat) : State :=
  match s.job id with
    | some j =>
      if j.state ≠ .started ∨ ¬ j.inArray ∨ ¬ s.jobRuns id j then s
      else match j.op with
        | .mma r off row0 md =>
          let keys := r.places.flatMap (s.elemKeys j.tid r)
          if s.keysHeld keys then s
          else if s.mmaPoisoned j r off then (s.freeJob id).trapThread j.tid 0x13 (Config.trapValue 4 r.base 0) j.pc j.left
          else
            let (s1, fl) := (s.charge (s.mapOf j.tid) (s.mmaFj j r off)).mmaAll j r off row0 md
            s1.endMatrix id j fl
        | .mzero row0 rows cols =>
          let cells := (List.range rows).flatMap (fun i => (List.range cols).map (fun c => (row0 + i, c)))
          (cells.foldl (fun s p => s.setCell (tileOf j.tid) p.1 p.2 0) s).endMatrix id j 0
        | .handoff l doff gstr ty row0 rows cols clear om md =>
          let (s1, j1) := s.handRows j l doff gstr ty row0 rows cols clear om md
          (s1.setJob id j1).unblock j.tid (.matrix id)
        | _ =>
          let s1 := s.sectors id (j.total + 1)
          match s1.job id with
          | some j1 => if j1.total ≤ j1.pos then s1.endMatrix id j1 j1.flags else s1
          | none => s1
    | none => s

end Sys2Proof.Machine
end

