-- ==== Sys2Proof/Machine/Issue.lean ====
section
/-! DEFINITION. The issue rotation (R22 to R26): the cycle count, which thread a core issues, and the events ISSUE_CYCLE
and INSTRUCTION_LINE_FILL. -/

namespace Sys2Proof.Machine

/-! ## The clock -/

/-- A partition whose slots are charged time: resident, bound, not gated, not stopped (R329). -/
def State.charged (s : State) (p : Part) : Bool := p.valid && !(s.meter p.vf).gated && !p.stop.due s.cycle

/-- One cycle of time units for every charged partition: 192 for each of its slots (R329). -/
def State.chargeCycle (s : State) : State :=
  s.parts.foldl (fun s p =>
    if s.charged p.2 then s.updMeter p.2.vf (fun m => { m with tAcc := m.tAcc + 192 * popOf p.2.slots }) else s) s

/-- The next core cycle: cr.cycle counts on; cr.time counts 1 ns in four cycles of the 4.0 GHz clock, and a correction
under way slews it by at most 1 ns in 5,000 (R18, R151, R353). DEDUCED, log entry 56. -/
def State.nextCycle (s : State) : State :=
  let c := s.cycle + 1
  let b := s.mod.boot
  let tick := if c % 4 = 0 then 1 else 0
  let slewing := decide (c % 20000 = 0) && decide (b.slew ≠ 0)
  let (t, slew) : Nat × Int :=
    if slewing then (if 0 < b.slew then (s.time + tick + 1, b.slew - 1) else (s.time, b.slew + 1))
    else (s.time + tick, b.slew)
  { s with cycle := c, time := t, mod := { s.mod with boot := { b with slew := slew } } }.chargeCycle

/-! ## Waits that end by themselves -/

/-- Every job a slot issued has completed or parked (R304). -/
def State.jobsQuiet (s : State) (tid : Nat) : Bool :=
  s.eng.jobs.all (fun j => decide (j.2.tid ≠ tid) || (match j.2.state with
    | .parked _ _ _ => true
    | .queued | .started => false))

/-- The condition of a wait marked `again` holds; the other waits end by an event. -/
def State.waitOver (s : State) (tid : Nat) (w : Why) : Bool :=
  match w with
  | .chan r => (s.thread tid).present r
  | .window tile win off n => match s.windowBlocks (tile * 2 ^ 20 + off) n with
    | some k => decide (k ≠ tile * 8 + win)
    | none => true
  | .sendEntry => (Store.find s.sync.sends tid).isNone
  | .copyEntry | .cvEntry => s.jobReady tid
  | .depEntry => (s.freeEntry tid).isSome
  | .callq => decide ((Store.find s.sync.calls ((s.thread tid).level.toNat * 4 + dieOf tid)).getD [] ≠ [])
  | .fence | .order => decide (s.buffered tid = [])
  | .drain vf q => !s.launches.any (fun l => decide (l.2.vf = vf) && decide (l.2.queue = q) && decide (l.2.phase ≠ .waiting))
  | .stop p => match (s.part p).stop with
    | .none | .stopped _ _ => true
    | .armed _ | .flushing _ _ _ _ => false
  | .time ns => decide (ns ≤ s.time)
  | .quiesce t => s.jobsQuiet t
  | .access _ | .sweep _ | .matrix _ | .semp _ _ | .gen _ _ | .dtwait _ | .phase | .quiet | .migr _ | .tenure _ | .call | .shootdown _
  | .parked => false

/-! ## Fetch (R110, R310) -/

/-- The trap that control meets at a header before or after it is read: the extent of the code node (R110). -/
def State.headerTrap (s : State) (tid : Nat) (code h : Word) (w : Option Word) : Option (Nat × Word) :=
  match s.codeExtent (coreOf tid) (s.mapOf tid) code with
  | none => none
  | some ext =>
    if ext < h.toNat + 8 then some (0x08, h)
    else match w with
      | none => none
      | some w => match headerCheck w with
        | some e => some e
        | none => if ext < h.toNat + 8 * (hdrLen w).toNat + 8 then some (0x08, h) else none

/-- A bundle or a header that does not lie within its code node (R110). -/
def State.beyond (s : State) (tid : Nat) (code pc : Word) : Bool :=
  match s.codeExtent (coreOf tid) (s.mapOf tid) code with
  | some ext => decide (ext < pc.toNat + 8)
  | none => false

/-- The word at an offset of a thread's code, if its instruction cache holds the line. -/
def State.fetched (s : State) (tid : Nat) (off : Nat) : Option Word :=
  match s.cachedLine (coreOf tid) (s.mapOf tid) (s.thread tid).code (off / 64) with
  | some ws => ws[off % 64 / 8]?
  | none => none

/-- The offset whose line the thread's next bundle still misses, if any. -/
def State.missing (s : State) (tid : Nat) : Option Nat :=
  let t := s.thread tid
  let pc := t.pc.toNat
  if t.sys.pend.isSome ∨ s.beyond tid t.code t.pc then none
  else match s.fetched tid pc with
    | none => some pc
    | some w =>
      if t.left ≠ 0 ∨ (s.headerTrap tid t.code t.pc (some w)).isSome then none
      else match s.fetched tid (pc + 8) with
        | none => some (pc + 8)
        | some _ => none

/-! ## Ready (R23) -/

/-- A thread may be given cycles: it holds work and is not halted, its launch runs, its partition is neither stopped nor
gated. -/
def State.scheduled (s : State) (tid : Nat) : Bool :=
  (s.thread tid).work && !(s.thread tid).sys.halted && (isMgmt tid || (match s.launchOf tid with
    | some id => match s.launch id with
      | some l => decide (l.phase = .running) && s.partRuns l.part && !(s.meter l.vf).gated
      | none => false
    | none => false))

/-- R23. -/
def State.ready (s : State) (tid : Nat) : Bool :=
  let t := s.thread tid
  s.scheduled tid && t.waits.all (s.waitOver tid) && (s.missing tid).isNone && (match t.last with
    | none => true
    | some c => decide (c + 8 ≤ s.cycle))

/-- The thread that a core issues on the current cycle (R24). DEDUCED, log entry 67. -/
def State.issuer (s : State) (core : Nat) : Option Nat :=
  let o := s.cycle % 16
  let owner := core * 16 + o
  if s.ready owner then some owner
  else if 3072 ≤ core then none
  else match s.launchOf owner with
    | none => none
    | some l => (((List.range 15).map (fun d => (o + d + 1) % 16)).find? (fun k =>
        decide ((o + 16 - k) % 16 ≤ 8) && decide (s.launchOf (core * 16 + k) = some l) && s.ready (core * 16 + k))).map
          (core * 16 + ·)

/-- The issue registers of a bundle that has not begun. -/
def Issue.idle : Issue := { who := none, snap := none, moved := false, trapped := false, stalled := false }

/-- ISSUE_CYCLE: a core's issue on a cycle. The clock moves on when the core is not above the one that issued last; the
thread chosen stands in `iss.who` and its bundle follows (R24). A core is 0 to 3,071 on tenant tiles, then the twelve of
the management tiles. -/
def execIssueCycle (core : Nat) (s : State) : Host.Outcome State Fault Refusal :=
  .next (
    if 3084 ≤ core then s
    else
      let s0 := if core ≤ s.lastCore then s.nextCycle else s
      let s1 := { s0 with lastCore := core, iss := Issue.idle }
      match s1.issuer core with
      | none => s1
      | some tid =>
        { s1.updThread tid (fun t => { t with last := some s1.cycle, waits := [] }) with
            cur := tid, iss := { Issue.idle with who := some tid } })

/-! ## Line fills -/

/-- Puts a line into a core's instruction cache of 512 lines, the oldest leaving first.
DESIGN CHOICE, log entry 25. -/
def fillLine (lines : List CodeLine) (l : CodeLine) : List CodeLine :=
  let same := lines.filter (fun x => decide (x.core = l.core))
  if same.length < 512 then lines ++ [l]
  else match same with
    | x :: _ => lines.erase x ++ [l]
    | [] => lines ++ [l]

/-- The line at an offset of a code label, read where the label is homed: its code node with its EXTENT, and the line's
words, charged; or the trap that the fetch meets (R26, R59, R308, R310, R359). -/
def State.readLine (s : State) (tid : Nat) (code : Word) (off : Nat) : State × Except (Nat × Word) (Nat × Nat × List Word) :=
  match s.translate tid .fetch code (word (off / 8 * 8)) 8 with
  | (s1, .error e) => (s1, .error e)
  | (s1, .ok tg) =>
    let words := (List.range 8).map (fun i =>
      word (leNat ((s1.bytesOf tg (off / 64 * 64 + 8 * i) 8).map (fun p => s1.homeByte p.1 p.2))))
    let s2 := s1.chargeHome tid (s1.bytesOf tg (off / 64 * 64) 64) false
    if (s2.bytesOf tg off 8).any (fun p => s2.homePoisoned p.1 p.2) then (s2, .error (0x13, Config.poisonValue (word off)))
    else (s2, .ok (tg.node, match s2.node tg.node with
      | some n => n.targetExtent tg.child
      | none => 0, words))

/-- The fetch of a thread's next bundle traps at its program counter (R26, R110). -/
def State.fetchTrap (s : State) (tid c : Nat) (v : Word) : State :=
  (s.updThread tid (fun t => { t with waits := [] })).trapThread tid c v (s.thread tid).pc (s.thread tid).left

/-- A line of a code label joins the cache of a thread's core. -/
def State.putLine (s : State) (tid : Nat) (code : Word) (off : Nat) (ws : List Word) (node : Nat) (far : Option Nat) : State :=
  let l : CodeLine := { core := coreOf tid, vf := s.mapOf tid, label := code, line := off / 64, words := ws, node := node, far := far }
  { s with icache := fillLine s.icache l }

/-- The offset at which a thread that may run misses a line. -/
def State.wantsLine (s : State) (tid : Nat) : Option Nat :=
  match s.missing tid with
  | none => none
  | some off => if ¬ s.scheduled tid ∨ ¬ (s.thread tid).waits.all (s.waitOver tid) then none else some off

/-- INSTRUCTION_LINE_FILL: the line that a thread's next bundle misses arrives, translated as a fetch; a failure traps at
the thread's program counter (R26, R310). A line of a node that another module homes is asked for there (R339).
DESIGN CHOICE, log entry 25. -/
def execInstructionLineFill (tid : Nat) (s : State) : Host.Outcome State Fault Refusal :=
  .next (match s.wantsLine tid with
    | none => s
    | some off =>
      let code := (s.thread tid).code
      match s.farHome (s.mapOf tid) code with
      | some h =>
        if s.mod.link.lost.contains h then s.fetchTrap tid 0x06 code
        else if s.asking (fun a => decide (a.tid = tid) && decide (a.label = code) && decide (a.op = .line off)) then s
        else s.askHome h tid 0 code (.line off)
      | none => match s.readLine tid code off with
        | (s1, .error (c, v)) => s1.fetchTrap tid c v
        | (s1, .ok (node, _, ws)) => s1.putLine tid code off ws node none)

end Sys2Proof.Machine
end

