-- ==== Sys2Proof/Machine/JobEvents.lean ====
section
/-! DEFINITION. The events of engine jobs: JOB_START, JOB_COMPLETE, STREAM_SECTOR_LAND, MERGE_CONTRIBUTION, GRADIENT_BLOCK,
WEIGHT_READ, MATRIX_OP_FINISH and JOB_FAULT. Each comes after its cycle's thread accesses (R231). -/

namespace Sys2Proof.Machine

/-- No core has a bundle left to issue on this cycle, so that the cycle's engine accesses follow (R231). -/
def State.issuesDone (s : State) : Bool :=
  (s.threads.filter (fun t => t.2.work)).all (fun t => decide (t.1 / 16 ≤ s.lastCore) || (s.issuer (t.1 / 16)).isNone)

/-- An engine's part of a cycle. -/
def State.engineCycle (s : State) (f : State → State) : State := if s.issuesDone then f s else s

/-- JOB_START (R217, R232). -/
def execJobStart (id sectors : Nat) (s : State) : Host.Outcome State Fault Refusal := .next (s.engineCycle (·.startJob id sectors))

/-- JOB_COMPLETE (R218). -/
def execJobComplete (id : Nat) (s : State) : Host.Outcome State Fault Refusal := .next (s.engineCycle (·.finishJob id))

/-- STREAM_SECTOR_LAND (R230). -/
def execStreamSectorLand (id : Nat) (s : State) : Host.Outcome State Fault Refusal := .next (s.engineCycle (·.landSector id))

/-- MERGE_CONTRIBUTION (R227). -/
def execMergeContribution (id : Nat) (s : State) : Host.Outcome State Fault Refusal := .next (s.engineCycle (·.contribute id))

/-- A job of a kind that the Forum serves, ready for it: it runs, its edges have completed, it has met no fault. -/
def State.forumReady (s : State) (id kind : Nat) : Option (Job × Word × Word × CopyRec) :=
  match s.job id with
  | some j => match j.op, j.state with
    | .copy k src dst r, .started =>
      if k = kind ∧ j.pos = 0 ∧ s.jobRuns id j ∧ (s.jobHome j).isNone ∧ (s.forumFault id j kind r).isNone then some (j, src, dst, r)
      else none
    | _, _ => none
  | none => none

/-- GRADIENT_BLOCK (R228, R274). -/
def execGradientBlock (id : Nat) (s : State) : Host.Outcome State Fault Refusal :=
  .next (s.engineCycle (fun s => match s.forumReady id 8 with
    | some (j, src, _, r) => if s.unitHeld j 8 src r 0 r.units then s else s.sendGradient id j src r
    | none => s))

/-- WEIGHT_READ (R228, R276). -/
def execWeightRead (id : Nat) (s : State) : Host.Outcome State Fault Refusal :=
  .next (s.engineCycle (fun s => match s.forumReady id 9 with
    | some (j, _, dst, r) => s.serveWeights id j dst r
    | none => s))

/-- MATRIX_OP_FINISH (R234). -/
def execMatrixOpFinish (id : Nat) (s : State) : Host.Outcome State Fault Refusal := .next (s.engineCycle (·.finishMatrix id))

/-- JOB_FAULT (R232). -/
def execJobFault (id : Nat) (s : State) : Host.Outcome State Fault Refusal := .next (s.engineCycle (·.faultJob id))

end Sys2Proof.Machine
end

