-- ==== Sys2Proof/Machine/Meters.lean ====
section
/-! DEFINITION. Time and energy budgets (R329 to R331): the meter records, binding, and the events CHARGE_APPLICATION and
PERIOD_BOUNDARY. -/

namespace Sys2Proof.Machine

/-- The label of the meter node in the system map (R330). -/
def meterLabel : Word := 0xFFE0100000000001

/-- The meter node, where it is mapped as a plain node with its records. -/
def State.meterNode (s : State) : Option Nat :=
  match canonAt s.maps 256 meterLabel with
  | some (_, { node := id, child := none }) => match s.node id with
    | some n => if n.kind = 0 ∧ 16384 ≤ n.extent then some id else none
    | none => none
  | _ => none

/-- `n` bytes of a virtual function's record from a byte up; zero where the node is not mapped. -/
def State.meterRead (s : State) (vf off n : Nat) : Nat :=
  match s.meterNode with
  | some id => leNat ((List.range n).map (fun i => s.homeByte id (64 * vf + off + i)))
  | none => 0

/-- Writes `n` bytes of a record; the hardware makes the page present. -/
def State.meterWrite (s : State) (vf off n : Nat) (v : Int) : State :=
  match s.meterNode with
  | some id => match s.pageCheck 256 id 0 0 with
    | (s1, none) => s1.putHomeBytes id (64 * vf + off) (leBytes n (v.emod (2 ^ (8 * n))).toNat)
    | (_, some _) => s
  | none => s

/-- A signed 64-bit field of a record. -/
def State.meterInt (s : State) (vf off : Nat) : Int := signedField (s.meterRead vf off 8) 64

/-- Fields of Table 20.3: byte offsets. -/
def mPeriod : Nat := 0
def mTbal : Nat := 8
def mEbal : Nat := 16
def mTallot : Nat := 24
def mEallot : Nat := 28
def mTspent : Nat := 32
def mEspent : Nat := 40
def mEfrac : Nat := 48
def mGated : Nat := 56

/-- A virtual function's accrued charges are applied to its balances; at 0 or less it is gated (R331). -/
def State.applyOne (s : State) (vf : Nat) : State :=
  let m := s.meter vf
  let far := if m.trips = 0 then 0 else Config.homeFj s.cycle vf m.trips
  let frac := s.meterRead vf mEfrac 8 + m.eAcc + far
  let nj := frac / 1000000
  let tbal := s.meterInt vf mTbal - m.tAcc
  let ebal := s.meterInt vf mEbal - nj
  let gate := (s.partOfVf vf).isSome && (decide (tbal ≤ 0) || decide (ebal ≤ 0))
  let s1 := if m.tAcc = 0 ∧ m.eAcc = 0 ∧ m.trips = 0 then s else
    ((s.meterWrite vf mTbal 8 tbal).meterWrite vf mEbal 8 ebal).meterWrite vf mEfrac 8 ((frac % 1000000 : Nat) : Int)
  let s2 := if gate ∧ ¬ m.gated then
      s1.meterWrite vf mGated 4 ((Nat.min (s1.meterRead vf mGated 4 + 1) (2 ^ 32 - 1) : Nat) : Int) else s1
  s2.updMeter vf (fun m => { m with tAcc := 0, eAcc := 0, trips := 0, tSpent := m.tSpent + m.tAcc, eSpent := m.eSpent + nj
                                    gated := m.gated || gate })

/-- All charges are applied; they go on accruing where no meter node is mapped. DEDUCED, log entry 35. -/
def State.applyCharges (s : State) : State :=
  if s.meterNode.isNone then s
  else (List.range 256).foldl (fun s vf =>
    if (Store.find s.mod.meters vf).isSome ∨ (s.partOfVf vf).isSome then s.applyOne vf else s) s

/-- CHARGE_APPLICATION: at every cycle count that is a multiple of 1,024. -/
def execChargeApplication (s : State) : Host.Outcome State Fault Refusal :=
  .next (if s.cycle % 1024 = 0 then s.applyCharges else s)

/-- A balance at a boundary: at most one period's allotment is carried; a record of no allotment stays (R331). -/
def refill (still : Bool) (bal allot : Int) : Int := if still then bal else (if bal ≤ allot then bal else allot) + allot

/-- One record at a boundary (R331); PERIOD is written last. A bound virtual function whose balance is still 0 or less stays
gated. DEDUCED, log entry 35. -/
def State.boundaryOne (s : State) (vf idx : Nat) : State :=
  let ta : Int := s.meterRead vf mTallot 4
  let ea : Int := s.meterRead vf mEallot 4
  let m := s.meter vf
  if ta = 0 ∧ ea = 0 ∧ ¬ (s.partOfVf vf).isSome then s
  else
    let still := decide (ta = 0) && decide (ea = 0)
    let tb := refill still (s.meterInt vf mTbal) ta
    let eb := refill still (s.meterInt vf mEbal) ea
    let due := s.meterNode.isSome && (s.partOfVf vf).isSome && (decide (tb ≤ 0) || decide (eb ≤ 0))
    let s1 := if still then s else
      (((s.meterWrite vf mTspent 8 m.tSpent).meterWrite vf mEspent 8 m.eSpent).meterWrite vf mTbal 8 tb).meterWrite vf mEbal 8 eb
    let s2 := if due then
        s1.meterWrite vf mGated 4 ((Nat.min (s1.meterRead vf mGated 4 + 1) (2 ^ 32 - 1) : Nat) : Int) else s1
    (s2.updMeter vf (fun m => { m with tSpent := 0, eSpent := 0, gated := due })).meterWrite vf mPeriod 8 idx

/-- PERIOD_BOUNDARY: when cr.time has reached the next multiple of 100,000 ns the charges are applied and the balances
refilled. -/
def execPeriodBoundary (s : State) : Host.Outcome State Fault Refusal :=
  .next (
    let idx := s.time / 100000
    if idx ≤ s.mod.period then s
    else
      let s1 := s.applyCharges
      let s2 := (List.range 256).foldl (fun s vf => s.boundaryOne vf idx) s1
      { s2 with mod := { s2.mod with period := idx } })

/-- A virtual function is bound: its allotments come from the budgets, and at its first binding its balances (R331); its
key is made (R334) and its page count is shown by the partition (R327); its threads see the positions that it has. One
that starts with a balance of 0 or less is gated at once. DEDUCED, log entry 35. -/
def State.bindMeter (s : State) (p vf : Nat) : State :=
  let x := s.part p
  let m := s.meter vf
  let s1 := (s.meterWrite vf mTallot 4 x.tbudget.toNat).meterWrite vf mEallot 4 x.ebudget.toNat
  let s2 := if m.bound then s1 else (s1.meterWrite vf mTbal 8 x.tbudget.toNat).meterWrite vf mEbal 8 x.ebudget.toNat
  let due := s2.meterNode.isSome && (decide (s2.meterInt vf mTbal ≤ 0) || decide (s2.meterInt vf mEbal ≤ 0))
  let s2 := if due ∧ ¬ m.gated then
      s2.meterWrite vf mGated 4 ((Nat.min (s2.meterRead vf mGated 4 + 1) (2 ^ 32 - 1) : Nat) : Int) else s2
  let s3 := s2.updMeter vf (fun m => { m with bound := true, gated := m.gated || due })
  let s4 : State := { s3 with mod := { s3.mod with keys := { s3.mod.keys with
    dseq := if (Store.find s3.mod.keys.dseq vf).isSome then s3.mod.keys.dseq else Store.put s3.mod.keys.dseq vf 1 } } }
  s4.updPart p (fun y => { y with
    valid := true, vf := vf, pageuse := m.pages, vslots := y.slots, vbanks := y.banks })

/-- A partition becomes non-resident: VALID 0, and the page count stays with the virtual function; cr.pageuse and the other
registers are left as they are (R301, R327, R336, R362). -/
def State.unbind (s : State) (p : Nat) : State :=
  let x := s.part p
  if ¬ x.valid then s
  else (s.updMeter x.vf (fun m => { m with pages := x.pageuse })).updPart p
    (fun y => { y with valid := false, pageuse := BitVec.ofNat 32 (s.pageUse p), stop := .none })

end Sys2Proof.Machine
end

