-- ==== Sys2Proof/Machine/Privileged.lean ====
section
/-! DEFINITION. MFP and MTP (R285 to R287, R296), calls (R293, R294), binding (R362), the debugger (R302 to R304) and
LMINV (R297), with the operations of the table that are their parts: CALL_LATCH, CALL_REPLY, PARTITION_REGISTER_WRITE,
BIND_VF, DEBUG_SELECT, DEBUG_HALT, DEBUG_RELEASE, DEBUG_STEP and DEBUG_DATA_ACCESS. -/

namespace Sys2Proof.Machine

/-! ## Levels and fields of the privileged registers (Tables 18.2, 18.3) -/

/-- Per-partition registers. -/
def perPartition (crn : Nat) : Bool := decide (crn = 0x104) || (decide (0x111 ≤ crn) && decide (crn ≤ 0x11A))

/-- Readable at a level; a service thread reaches no partition's registers (R283). -/
def privReadable (mgmt : Bool) (level crn : Nat) : Bool :=
  if level = 1 then
    (decide (crn ≤ 0x10C) || (decide (0x111 ≤ crn) && decide (crn ≤ 0x11A))) && !(mgmt && perPartition crn)
  else decide (2 ≤ level)

/-- Writable at a level. -/
def privWritable (level crn : Nat) : Bool :=
  match crn with
  | 0x100 | 0x101 | 0x102 | 0x103 | 0x105 | 0x107 | 0x108 | 0x109 | 0x10A | 0x10B | 0x10C => decide (1 ≤ level)
  | 0x104 | 0x110 | 0x111 | 0x112 | 0x113 | 0x114 | 0x115 | 0x116 | 0x117 | 0x119 | 0x11A | 0x11B | 0x126 | 0x127 | 0x128 =>
    decide (2 ≤ level)
  | _ => false

/-- The bits of a writable privileged register that are not reserved. -/
def privMask (crn : Nat) : Word :=
  match crn with
  | 0x100 => 0x000000FFFFFFFFF9
  | 0x101 => 0xB0000000000000FF
  | 0x102 => 0x0000FFFFFFFFFFF8
  | 0x107 => 0x00000000FFFFFFFF
  | 0x108 => 0x000000000000000F
  | 0x10A => 0x000000FFFFFFFFF9
  | 0x10B => 0x000000000000FFFF
  | 0x110 => 0x000000000000000F
  | 0x111 => 0x00000000000001FF
  | 0x112 | 0x114 => 0x000000000000FFFF
  | 0x113 | 0x115 => 0x0000000000FFFFFF
  | 0x116 => 0x0000000000001FFF
  | 0x117 | 0x119 | 0x11A => 0x00000000FFFFFFFF
  | 0x128 => 0x0000000000000001
  | _ => Word.ones

/-- The partition whose copy a thread's access names: its own, or the one in cr.psel (R285). -/
def State.selPart (s : State) (tid : Nat) : Nat :=
  if 2 ≤ (s.thread tid).level.toNat then ((s.thread tid).sys.psel.extractLsb' 0 4).toNat else (s.partOf tid).getD 0

/-- A per-partition register's value; a supervisor reads the positions of its image's numbering (R319). -/
def State.partReg (s : State) (tid crn : Nat) : Word :=
  let p := s.part (s.selPart tid)
  let low := decide ((s.thread tid).level.toNat ≤ 1)
  match crn with
  | 0x104 => p.scode
  | 0x111 => word ((if p.valid then 256 else 0) + p.vf)
  | 0x112 => (if low then p.vslots else p.slots).setWidth 64
  | 0x113 => (if low then p.vbanks else p.banks).setWidth 64
  | 0x114 => p.ways.setWidth 64
  | 0x115 => p.chans.setWidth 64
  | 0x116 => p.qquota.setWidth 64
  | 0x117 => p.pagequota.setWidth 64
  | 0x118 => word (s.pageUse (s.selPart tid))
  | 0x119 => p.tbudget.setWidth 64
  | 0x11A => p.ebudget.setWidth 64
  | _ => 0

/-- A per-thread privileged register that reads at once. -/
def Thread.privReg (t : Thread) (crn : Nat) : Word :=
  match crn with
  | 0x100 => t.sys.svec
  | 0x101 => t.sys.scause
  | 0x102 => t.sys.sepc
  | 0x103 => t.sys.sval
  | 0x105 => t.sys.sxcode
  | 0x106 => t.level.setWidth 64
  | 0x107 => t.sys.dbgsel
  | 0x10B => t.sys.dbgidx
  | 0x110 => t.sys.psel
  | 0x11B => t.sys.stopcycle
  | 0x121 => match t.sys.latch with
    | some c => c.callw
    | none => 0
  | 0x122 | 0x123 | 0x124 | 0x125 => match t.sys.latch with
    | some c => c.args.getD (crn - 0x122) 0
    | none => 0
  | 0x126 => t.sys.cret0
  | 0x127 => t.sys.cret1
  | _ => 0

/-- A write of a per-thread privileged register. -/
def Thread.setPrivReg (t : Thread) (crn : Nat) (v : Word) : Thread :=
  match crn with
  | 0x100 => { t with sys := { t.sys with svec := v } }
  | 0x101 => { t with sys := { t.sys with scause := v } }
  | 0x102 => { t with sys := { t.sys with sepc := v } }
  | 0x103 => { t with sys := { t.sys with sval := v } }
  | 0x105 => { t with sys := { t.sys with sxcode := v } }
  | 0x107 => { t with sys := { t.sys with dbgsel := v } }
  | 0x10B => { t with sys := { t.sys with dbgidx := v } }
  | 0x110 => { t with sys := { t.sys with psel := v } }
  | 0x11B => { t with sys := { t.sys with stopcycle := v } }
  | 0x126 => { t with sys := { t.sys with cret0 := v } }
  | 0x127 => { t with sys := { t.sys with cret1 := v } }
  | _ => t

/-- A global access of system state: performed now, its thread waits for the reply (Table 2.1). -/
def sysReply (d : Reg) (v : Option Word) : Op Unit := opMod (·.sendReply 0 d v none)

/-! ## Checks of R285 -/

def crnWord (crn : BitVec 16) : Word := crn.setWidth 64

def mfpCheck (crn : BitVec 16) : Op Unit := do
  let s ← opGet
  opCheck (privReadable (isMgmt s.cur) s.me.level.toNat crn.toNat) 0x02 (crnWord crn)

def mtpCheck (crn : BitVec 16) (v : Word) : Op Unit := do
  let s ← opGet
  opCheck (privWritable s.me.level.toNat crn.toNat && privReadable (isMgmt s.cur) s.me.level.toNat crn.toNat) 0x02 (crnWord crn)
  opCheck (decide (v &&& ~~~ privMask crn.toNat = 0)) 0x01 v

/-! ## Calls (R293, R294) -/

/-- The call queue that a management thread serves: its level's on its die. -/
def State.callKey (s : State) (tid : Nat) : Nat := (s.thread tid).level.toNat * 4 + dieOf tid

def callLatchOp (d : Reg) : Op Unit := do
  let s ← opGet
  opCheck s.me.sys.latch.isNone 0x01 0x120
  match (Store.find s.sync.calls (s.callKey s.cur)).getD [] with
  | [] => opWait .callq
  | c :: cs =>
    opMod (fun s =>
      ({ s with sync := { s.sync with calls := Store.put s.sync.calls (s.callKey s.cur) cs } }.updMe (fun t =>
        { t with sys := { t.sys with latch := some c, cret0 := 0, cret1 := 0 } })).setReg d c.callw)

/-- CALL_LATCH: MFP of cr.callq. -/
def execCallLatch (d : Reg) (s : State) : Host.Outcome State Fault Refusal :=
  runOp (do mfpCheck 0x120; callLatchOp d) s

/-- A reply to a call record: releases or traps the caller (R294). A withdrawn record names no waiting caller (R295). -/
def State.reply (s : State) (c : CallRec) (fail : Bool) (r0 r1 : Word) : State :=
  let t := s.thread c.tid
  let kind := (c.callw.extractLsb' 44 4).toNat
  if kind = 0 then
    if ¬ t.waits.contains .call then s
    else
      let s1 := s.unblock c.tid .call
      if fail then s1.trapLater c.tid 0x02 (c.callw.extractLsb' 48 16 |>.setWidth 64) t.pc t.left
      else s1.updThread c.tid (fun t => (t.setReg 1 r0).setReg 2 r1)
  else if fail ∨ ¬ t.waits.contains .parked then s
  else
    let w := c.args.getD 2 0
    (s.unblock c.tid .parked).updThread c.tid (fun t => { t with pc := epcPc w, left := epcLeft w, sys := { t.sys with pend := none } })

def callReplyOp (d : Reg) : Op Unit := do
  releaseWait
  let s ← opGet
  match s.me.sys.latch with
  | none => opTrap 0x01 0x128
  | some c =>
    opMod (fun s =>
      let t := s.me
      (s.updMe (fun t => { t with sys := { t.sys with latch := none } })).reply c ((s.reg d).getLsbD 0) t.sys.cret0 t.sys.cret1)

/-- CALL_REPLY: MTP of cr.cdone. -/
def execCallReply (d : Reg) (s : State) : Host.Outcome State Fault Refusal :=
  runOp (do mtpCheck 0x128 (s.reg d); callReplyOp d) s

/-! ## Per-partition registers (R287, R326) -/

/-- Two masks of other partitions' shares meet. -/
def State.sharesMeet (s : State) (p : Nat) (f : Part → Bool) : Bool := s.parts.any (fun x => decide (x.1 ≠ p) && f x.2)

/-- The sum of the other partitions' QUEUES. -/
def State.otherQueues (s : State) (p : Nat) : Nat :=
  s.parts.foldl (fun n x => if x.1 = p then n else n + x.2.qquota.toNat) 0

/-- A queue of a virtual function at or above a number holds packets. -/
def State.queuesAbove (s : State) (vf n : Nat) : Bool :=
  s.mod.host.queues.any (fun q => decide (q.1 / 4096 = vf) && decide (n ≤ q.1 % 4096) && decide (q.2.head ≠ q.2.tail))

/-- The refusals of R287 and of Table 20.1, each cause 0x09. DEDUCED, log entry 65. -/
def State.partRefused (s : State) (p crn : Nat) (v : Word) : Bool :=
  let x := s.part p
  match crn with
  | 0x104 => x.valid
  | 0x111 => x.valid || (v.getLsbD 8 && s.sharesMeet p (fun y => y.valid && decide (y.vf = (v.extractLsb' 0 8).toNat)))
  | 0x112 => x.valid || s.sharesMeet p (fun y => decide (y.slots &&& v.setWidth 16 ≠ 0))
  | 0x113 => x.valid || s.sharesMeet p (fun y => decide (y.banks &&& v.setWidth 24 ≠ 0))
  | 0x116 => decide (4096 < s.otherQueues p + v.toNat) || (x.valid && s.queuesAbove x.vf v.toNat)
  | _ => false

/-- A write of a per-partition register that is not refused; binding is `bindMeter`. -/
def State.setPartReg (s : State) (p crn : Nat) (v : Word) : State :=
  match crn with
  | 0x104 => s.updPart p (fun x => { x with scode := v })
  | 0x111 =>
    if v.getLsbD 8 then s.bindMeter p (v.extractLsb' 0 8).toNat
    else s.updPart p (fun x => { x with vf := (v.extractLsb' 0 8).toNat })
  | 0x112 => s.updPart p (fun x => { x with slots := v.setWidth 16, vslots := v.setWidth 16 })
  | 0x113 => s.updPart p (fun x => { x with banks := v.setWidth 24, vbanks := v.setWidth 24 })
  | 0x114 => s.updPart p (fun x => { x with ways := v.setWidth 16 })
  | 0x115 => s.updPart p (fun x => { x with chans := v.setWidth 24 })
  | 0x116 => s.updPart p (fun x => { x with qquota := v.setWidth 13 })
  | 0x117 => s.updPart p (fun x => { x with pagequota := v.setWidth 32 })
  | 0x119 =>
    let s1 := s.updPart p (fun x => { x with tbudget := v.setWidth 32 })
    if (s1.part p).valid then s1.meterWrite (s1.part p).vf mTallot 4 v.toNat else s1
  | 0x11A =>
    let s1 := s.updPart p (fun x => { x with ebudget := v.setWidth 32 })
    if (s1.part p).valid then s1.meterWrite (s1.part p).vf mEallot 4 v.toNat else s1
  | _ => s

def partWriteOp (d : Reg) (crn : Nat) : Op Unit := do
  let s ← opGet
  let v := s.reg d
  let p := s.selPart s.cur
  opCheck (!s.partRefused p crn v) 0x09 v
  opMod (·.setPartReg p crn v)
  sysReply 0 none

/-- PARTITION_REGISTER_WRITE: MTP to a per-partition register. -/
def execPartitionRegisterWrite (d : Reg) (crn : BitVec 16) (s : State) : Host.Outcome State Fault Refusal :=
  if perPartition crn.toNat then runOp (do mtpCheck crn (s.reg d); partWriteOp d crn.toNat) s else .next s

/-- BIND_VF: MTP to cr.pvf with VALID 1. -/
def execBindVf (d : Reg) (s : State) : Host.Outcome State Fault Refusal :=
  runOp (do
    mtpCheck 0x111 (s.reg d)
    if (s.reg d).getLsbD 8 then partWriteOp d 0x111 else pure ()) s

/-! ## The debugger (R302 to R304) -/

/-- The thread that a core number names for a debugger: in the slots of its own partition, in its numbering, or of the
partition that cr.psel names. DEDUCED, log entry 36. -/
def State.debugTarget (s : State) (tid : Nat) (v : Word) : Option Nat :=
  match parseCore v with
  | none => none
  | some (tile, role, slot) =>
    let t := s.thread tid
    if 2 ≤ t.level.toNat then
      (if (s.part (s.selPart tid)).slots.getLsbD slot then some (tidOf tile role slot) else none)
    else match s.partOf tid with
      | some p => ((s.part p).physSlot slot).map (tidOf tile role)
      | none => none

def debugSelectOp (v : Word) : Op Unit := do
  let s ← opGet
  opCheck (s.debugTarget s.cur v).isSome 0x09 v
  opMod (fun s => s.updMe (·.setPrivReg 0x107 v))

/-- DEBUG_SELECT: MTP of cr.dbgsel. -/
def execDebugSelect (d : Reg) (s : State) : Host.Outcome State Fault Refusal :=
  runOp (do mtpCheck 0x107 (s.reg d); debugSelectOp (s.reg d)) s

/-- The target that cr.dbgsel names now; a selection that would be refused names none. -/
def targetOp : Op Nat := do
  let s ← opGet
  match s.debugTarget s.cur s.me.sys.dbgsel with
  | some t => pure t
  | none => opTrap 0x09 s.me.sys.dbgsel

/-- Halts a thread; its jobs may still have to end (R304). -/
def debugHaltOp (quiesce : Bool) : Op Unit := do
  let t ← targetOp
  opMod (fun s => s.updThread t (fun t => { t with sys := { t.sys with halted := true, stepping := false } }))
  let s ← opGet
  if quiesce && !s.jobsQuiet t then opWait (.quiesce t) else sysReply 0 none

def debugReleaseOp (step : Bool) : Op Unit := do
  let t ← targetOp
  opMod (fun s => s.updThread t (fun t => { t with sys := { t.sys with halted := false, stepping := step } }))
  sysReply 0 none

def debugCtlOp (v : Word) : Op Unit :=
  if v.getLsbD 0 then debugHaltOp (v.getLsbD 1) else debugReleaseOp (v.getLsbD 2)

/-- DEBUG_HALT, DEBUG_RELEASE and DEBUG_STEP: MTP of cr.dbgctl by its bits. -/
def execDebugHalt (d : Reg) (s : State) : Host.Outcome State Fault Refusal :=
  runOp (do mtpCheck 0x108 (s.reg d); if (s.reg d).getLsbD 0 then debugCtlOp (s.reg d) else pure ()) s

def execDebugRelease (d : Reg) (s : State) : Host.Outcome State Fault Refusal :=
  runOp (do
    mtpCheck 0x108 (s.reg d)
    if !(s.reg d).getLsbD 0 && !(s.reg d).getLsbD 2 then debugCtlOp (s.reg d) else pure ()) s

def execDebugStep (d : Reg) (s : State) : Host.Outcome State Fault Refusal :=
  runOp (do
    mtpCheck 0x108 (s.reg d)
    if !(s.reg d).getLsbD 0 && (s.reg d).getLsbD 2 then debugCtlOp (s.reg d) else pure ()) s

/-- An INDEX that Table 18.8 lists. -/
def dbgIndexOk (v : Word) : Bool :=
  let n := v.toNat
  decide (n < 32) || (decide (0x8000 ≤ n) && decide (n ≤ 0x800F))
    || (decide (0x8100 ≤ n) && decide (n ≤ 0x8106) && decide (n ≠ 0x8104))

/-- What cr.dbgdata reads of a halted target. -/
def State.dbgRead (s : State) (t idx : Nat) : Word :=
  if idx < 32 then (if idx = 0 then 0 else (s.thread t).g.toList.getD idx 0)
  else if idx < 0x8100 then s.userCr t (idx - 0x8000)
  else (s.thread t).privReg (idx - 0x8000)

/-- The check that MTS or MTP would make of a write at the target's level; the trap it raises, if any. -/
def State.dbgWriteBad (s : State) (t idx : Nat) (v : Word) : Option (Nat × Word) :=
  let crn := idx - 0x8000
  if idx < 32 then none
  else if idx < 0x8100 then
    if ¬ (decide (6 ≤ crn) && decide (crn ≤ 13) && decide (crn ≠ 12)) then some (0x01, s.bundleWord)
    else if v &&& ~~~ userCrMask crn ≠ 0 then some (0x01, v) else none
  else if ¬ privWritable (s.thread t).level.toNat crn then some (0x02, word crn)
  else if v &&& ~~~ privMask crn ≠ 0 then some (0x01, v) else none

def State.dbgWrite (s : State) (t idx : Nat) (v : Word) : State :=
  if idx < 32 then s.updThread t (·.setReg (BitVec.ofNat 5 idx) v)
  else if idx < 0x8100 then s.updThread t (·.setUserCr (idx - 0x8000) v)
  else s.updThread t (·.setPrivReg (idx - 0x8000) v)

def debugDataOp (write : Bool) (d : Reg) (v : Word) : Op Unit := do
  let t ← targetOp
  let s ← opGet
  let idx := (s.me.sys.dbgidx.extractLsb' 0 16).toNat
  opCheck (s.thread t).sys.halted 0x09 s.me.sys.dbgsel
  if write then
    match s.dbgWriteBad t idx v with
    | some (c, x) => opTrap c x
    | none => do
      opMod (·.dbgWrite t idx v)
      sysReply 0 none
  else sysReply d (some (s.dbgRead t idx))

/-- DEBUG_DATA_ACCESS: MFP or MTP of cr.dbgdata. -/
def execDebugDataAccess (write : Bool) (d : Reg) (s : State) : Host.Outcome State Fault Refusal :=
  runOp (do
    if write then mtpCheck 0x10C (s.reg d) else mfpCheck 0x10C
    debugDataOp write d (s.reg d)) s

/-! ## MFP and MTP (R296) -/

def mfpOp (d : Reg) (crn : Nat) : Op Unit := do
  let s ← opGet
  if perPartition crn then sysReply d (some (s.partReg s.cur crn))
  else match crn with
    | 0x108 => do
      let t ← targetOp
      sysReply d (some (if (s.thread t).sys.halted then 8 else 0))
    | 0x109 => do
      let t ← targetOp
      sysReply d (some (s.thread t).sys.dbgcode)
    | 0x10A => do
      let t ← targetOp
      sysReply d (some (s.thread t).sys.dbgmatch)
    | 0x10C => debugDataOp false d 0
    | 0x120 => callLatchOp d
    | _ => opMod (fun s => s.setReg d (s.me.privReg crn))

def execMfp (d : Reg) (crn : BitVec 16) (s : State) : Host.Outcome State Fault Refusal :=
  runOp (do mfpCheck crn; mfpOp d crn.toNat) s

def mtpOp (d : Reg) (crn : Nat) (v : Word) : Op Unit := do
  let s ← opGet
  if perPartition crn then partWriteOp d crn
  else match crn with
    | 0x107 => debugSelectOp v
    | 0x108 => debugCtlOp v
    | 0x109 => do
      let t ← targetOp
      opMod (fun s => s.updThread t (fun t => { t with sys := { t.sys with dbgcode := v } }))
      sysReply 0 none
    | 0x10A => do
      let t ← targetOp
      opMod (fun s => s.updThread t (fun t => { t with sys := { t.sys with dbgmatch := v } }))
      sysReply 0 none
    | 0x10B => do
      opCheck (dbgIndexOk v) 0x01 v
      opMod (fun s => s.updMe (·.setPrivReg crn v))
    | 0x10C => debugDataOp true d v
    | 0x126 | 0x127 => do
      opCheck s.me.sys.latch.isSome 0x01 (word crn)
      opMod (fun s => s.updMe (·.setPrivReg crn v))
    | 0x128 => callReplyOp d
    | _ => opMod (fun s => s.updMe (·.setPrivReg crn v))

def execMtp (d : Reg) (crn : BitVec 16) (s : State) : Host.Outcome State Fault Refusal :=
  runOp (do mtpCheck crn (s.reg d); mtpOp d crn.toNat (s.reg d)) s

/-! ## LMINV (R297) -/

/-- The virtual function that LMINV and QCTL act on: the issuer's, or the selected partition's, none with VALID 0. -/
def State.sysVf (s : State) : Option Nat :=
  let p := if 2 ≤ s.me.level.toNat then some (s.selPart s.cur) else s.partOf s.cur
  match p with
  | some p => if (s.part p).valid then some (s.part p).vf else none
  | none => none

/-- LMINV: with an invalid label it drops nothing, as with an empty range. -/
def lminvOp (lo hi : Word) (all : Bool) : Op Unit := do
  let s ← opGet
  match s.sysVf with
  | none => pure ()
  | some vf => do
    releaseWait
    opMod (fun s =>
      let (lo, hi) : Word × Word := if all || (lblValid lo && lblValid hi) then (lo, hi) else (BitVec.allOnes 64, 0)
      let (s1, id) := s.startShoot vf lo hi all [] (some s.cur)
      s1.block s1.cur (.shootdown id))

def execLminv (a b : Reg) (s : State) : Host.Outcome State Fault Refusal := runOp (lminvOp (s.reg a) (s.reg b) false) s

def execLminvVf (s : State) : Host.Outcome State Fault Refusal := runOp (lminvOp 0 0 true) s

end Sys2Proof.Machine
end

