-- ==== Sys2Proof/Machine/Queues.lean ====
section
/-! DEFINITION. Launch queues, packets and launches (R33, R35, R42 to R44, R182, R299, R347 to R352): QLAUNCH, QCTL and
the events QUEUE_TAIL_WRITE, LAUNCH_DISPATCH, LAUNCH_PLACEMENT, LAUNCH_START, CIRCUS_TOKEN_PASS, CIRCUS_ROUND and
MSIX_UNMASK. -/

namespace Sys2Proof.Machine

/-! ## Queues (R347, R348) -/

def queueKey (vf q : Nat) : Nat := vf * 4096 + q

/-- A queue register block that nothing has written: every field zero. -/
def Queue.fresh : Queue :=
  { ring := 0, prio := 0, log2 := 0, head := 0, tail := 0, errIdx := 0, err := 0, state := 0, drain := none }

def State.queue (s : State) (vf q : Nat) : Queue := (Store.find s.mod.host.queues (queueKey vf q)).getD Queue.fresh

def State.setQueue (s : State) (vf q : Nat) (x : Queue) : State :=
  { s with mod := { s.mod with host := { s.mod.host with queues := Store.put s.mod.host.queues (queueKey vf q) x } } }

/-- Packets posted and not consumed. -/
def Queue.count (q : Queue) : Nat := (q.tail - q.head).toNat

/-- A packet that waits for placement goes back to the head of its queue when dispatch ceases. -/
def State.unplace (s : State) (vf q : Nat) : State :=
  { s with launches := s.launches.filter (fun l => !(decide (l.2.vf = vf) && decide (l.2.queue = q) && decide (l.2.phase = .waiting))) }

/-- A queue enters STATE 3 and raises vector 1; its dispatch stops (R348). -/
def State.queueError (s : State) (vf q err : Nat) : State :=
  let x := s.queue vf q
  ((s.unplace vf q).setQueue vf q { x with state := 3, err := err, errIdx := x.head }).raiseVector vf 1

/-! ### The host's writes (R347, R348, R352) -/

def State.updHost (s : State) (f : HostState → HostState) : State := { s with mod := { s.mod with host := f s.mod.host } }

/-- The pending vectors of a virtual function that nothing masks any more are sent. -/
def State.sendPending (s : State) (vf : Nat) : State :=
  (List.range 64).foldl (fun s v =>
    if s.mod.host.pending.contains (vf * 64 + v) ∧ s.mod.host.sends vf v then
      (s.updHost (fun h => { h with pending := h.pending.filter (fun x => decide (x ≠ vf * 64 + v)) })).raiseVector vf v
    else s) s

/-- A byte of a queue's ring is written through BAR 2; nothing where the ring has no such byte. -/
def State.ringByte (s : State) (vf : Nat) (ring : Word) (off : Nat) (b : Byte) : State :=
  match s.translateIn vf none none 1 .store ring (word off) 1 with
  | (_, .error _) => s
  | (s1, .ok t) => s1.putBytes noHolder (s1.bytesOf t off 1) 1 b.toNat

/-- A posted write takes effect: RING, PRIO and LOG2 of a queue in STATE 0 alone, and LOG2 from 4 to 14 alone.
DEDUCED, log entry 37. -/
def State.hostWrite (s : State) : HostWrite → State
  | .ring vf q v =>
    let x := s.queue vf q
    if 256 ≤ vf ∨ 4096 ≤ q ∨ x.state ≠ 0 then s else s.setQueue vf q { x with ring := v }
  | .level vf q v =>
    let x := s.queue vf q
    let log2 := (v.extractLsb' 0 4).toNat
    if 256 ≤ vf ∨ 4096 ≤ q ∨ x.state ≠ 0 ∨ log2 < 4 ∨ 14 < log2 ∨ v.extractLsb' 6 58 ≠ 0 then s
    else s.setQueue vf q { x with prio := (v.extractLsb' 4 2).toNat, log2 := log2 }
  | .bytes vf q off data =>
    if 256 ≤ vf ∨ 4096 ≤ q ∨ 2 ^ 20 < off + data.length then s
    else (List.zip (List.range data.length) data).foldl (fun s p => s.ringByte vf (s.queue vf q).ring (off + p.1) p.2) s
  | .entry vf v address data masked =>
    let k := vf * 64 + v
    if 256 ≤ vf ∨ 64 ≤ v then s
    else (s.updHost (fun h => { h with
      entries := Store.put h.entries k (address, data)
      unmasked := if masked then h.unmasked.filter (fun x => decide (x ≠ k)) else if h.unmasked.contains k then h.unmasked else k :: h.unmasked
      })).sendPending vf
  | .mask vf masked =>
    if 256 ≤ vf then s
    else (s.updHost (fun h => { h with
      masked := if masked then (if h.masked.contains vf then h.masked else vf :: h.masked) else h.masked.filter (fun x => decide (x ≠ vf))
      })).sendPending vf

/-- What the host has posted lands, in order. -/
def State.landWrites (s : State) : State :=
  s.mod.host.posted.foldl State.hostWrite (s.updHost (fun h => { h with posted := [] }))

/-- QUEUE_TAIL_WRITE: the host writes TAIL, after everything that it has posted before (R348). -/
def execQueueTailWrite (vf queue : Nat) (tail : BitVec 32) (s0 : State) : Host.Outcome State Fault Refusal :=
  .next (
    let s := s0.landWrites
    if 256 ≤ vf ∨ 4096 ≤ queue then s
    else
      let x := { s.queue vf queue with tail := tail }
      let s1 := s.setQueue vf queue x
      if x.count ≤ 2 ^ x.log2 then s1
      else if x.state = 3 then s.setQueue vf queue { x with err := 0x80, errIdx := x.head }
      else s1.queueError vf queue 0x80)

/-- MSIX_UNMASK: the host unmasks a vector, after everything that it has posted before; a pending one is then sent, unless the
function is masked (R352). -/
def execMsixUnmask (vf vector : Nat) (s0 : State) : Host.Outcome State Fault Refusal :=
  .next (
    let s := s0.landWrites
    let k := vf * 64 + vector
    let h := s.mod.host
    if 256 ≤ vf ∨ 64 ≤ vector then s
    else
      let s1 := s.updHost (fun h => { h with unmasked := if h.unmasked.contains k then h.unmasked else k :: h.unmasked })
      if h.pending.contains k ∧ s1.mod.host.sends vf vector then
        (s1.updHost (fun h => { h with pending := h.pending.filter (fun x => decide (x ≠ k)) })).raiseVector vf vector
      else s1)

/-! ## Packets (R349, R350) -/

/-- A launch packet as its eight words. -/
abbrev Packet8 := List Word

def pkField (ws : Packet8) (w lo n : Nat) : Nat := (ws.getD w 0).toNat / 2 ^ lo % 2 ^ n
def pkCode (ws : Packet8) : Word := ws.getD 0 0
def pkSpill (ws : Packet8) : Word := ws.getD 3 0
def pkStart (ws : Packet8) : Nat := (ws.getD 4 0).toNat
def pkEntry (ws : Packet8) : Word := word (8 * pkField ws 5 32 32)
def pkSlices (ws : Packet8) : Nat := pkField ws 5 8 24
def pkNwait (ws : Packet8) : Nat := pkField ws 5 5 3
def pkPhase (ws : Packet8) : Nat := pkField ws 5 1 4
def pkFuse (ws : Packet8) : Bool := decide (pkField ws 5 0 1 = 1)
def pkSlots (ws : Packet8) : BitVec 16 := BitVec.ofNat 16 (pkField ws 6 48 16)
def pkArrival (ws : Packet8) : Nat := pkField ws 6 42 6
def pkRows (ws : Packet8) : Nat := pkField ws 6 37 5 + 1
def pkCols (ws : Packet8) : Nat := pkField ws 6 32 5 + 1
def pkBbank (ws : Packet8) : Nat := pkField ws 6 28 4
def pkSyncTile (ws : Packet8) : Nat := pkField ws 6 23 5 * 32 + pkField ws 6 18 5
def pkIrq (ws : Packet8) : Bool := decide (pkField ws 6 17 1 = 1)
def pkDn (ws : Packet8) : Bool := decide (pkField ws 6 16 1 = 1)
def pkDone (ws : Packet8) : Nat := pkField ws 6 0 16
def pkWait (ws : Packet8) (w : Nat) : Nat := pkField ws 7 (16 * w) 16
def pkWaits (ws : Packet8) : List Nat := (List.range (Nat.min (pkNwait ws) 4)).map (pkWait ws)

/-- The scratchpad key of a word on the sync tile, from its OFFSET[19:4]; none outside the partition's banks. -/
def State.syncWordKey (s : State) (p tile off : Nat) : Option Nat :=
  match (s.part p).physBank (off / 2 ^ 11) with
  | some b => some (tile * 2 ^ 20 + b * 2 ^ 15 + off % 2 ^ 11 * 16)
  | none => none

/-- The KIND of the node that a valid label names in a map, as LSTAT gives it (R364); that of a label homed on another
module is that module's. -/
def State.labelKind (s : State) (map : Nat) (l : Word) : Option Nat :=
  let h := s.homeOf map l
  if ¬ lblValid l then none
  else if h ≠ 0 ∧ h ≠ s.self then some (Config.farKind l)
  else match canonAt s.maps map l with
    | some (_, t) => (s.node t.node).map (fun n => if t.child.isSome then (if n.kind = 2 then 1 else 0) else n.kind)
    | none => none

/-- The first of rows 1 to 5 of Table 21.6 that a packet fails. -/
def State.packetBad (s : State) (p : Nat) (ws : Packet8) : Option Nat :=
  let x := s.part p
  let codeOk : Bool := decide (s.labelKind x.vf (pkCode ws) = some 5)
  let spillOk : Bool := decide (pkSpill ws = 0) || decide (s.labelKind x.vf (pkSpill ws) = some 0)
  let words := (if pkDn ws then [pkDone ws] else []) ++ pkWaits ws
  if 4 < pkNwait ws ∨ 8 < pkBbank ws ∨ pkSlices ws = 0 then some 1
  else if ¬ codeOk ∨ ¬ spillOk then some 2
  else if pkSlots ws = 0 ∨ pkSlots ws &&& ~~~ x.vslots ≠ 0 then some 3
  else if pkArrival ws = 0 ∨ 48 < pkArrival ws ∨ 3 * popOf (pkSlots ws) < pkArrival ws then some 4
  else if words.any (fun w => (s.syncWordKey p (pkSyncTile ws) w).isNone) then some 5
  else none

/-- Row 6. -/
def State.packetUntagged (s : State) (p : Nat) (ws : Packet8) : Bool :=
  ((if pkDn ws then [pkDone ws] else []) ++ pkWaits ws).any (fun w => match s.syncWordKey p (pkSyncTile ws) w with
    | some k => !s.tagged k
    | none => true)

/-- Physical slots of a set given in a partition's numbering. -/
def Part.physSlots (x : Part) (v : BitVec 16) : BitVec 16 :=
  (List.range 16).foldl (fun (m : BitVec 16) i => if v.getLsbD i then (match x.physSlot i with
    | some k => m ||| ((1 : BitVec 16) <<< k)
    | none => m) else m) 0

/-! ## QLAUNCH (R182) -/

/-- Writes a packet into a ring as the hardware. -/
def State.ringWrite (s : State) (map : Nat) (ring : Word) (off : Nat) : List Word → State × Option (Nat × Word)
  | [] => (s, none)
  | w :: ws => match s.translateIn map none none 1 .store ring (word off) 8 with
    | (s1, .error e) => (s1, some e)
    | (s1, .ok t) =>
      ((s1.putBytes noHolder (s1.bytesOf t off 8) 8 w.toNat).chargeBytes map (s1.bytesOf t off 8) true).ringWrite map ring (off + 8) ws

/-- Reads a packet from a ring as the hardware. -/
def State.ringRead (s : State) (map : Nat) (ring : Word) (off : Nat) : Nat → State × Except (Nat × Word) (List Word)
  | 0 => (s, .ok [])
  | k + 1 => match s.translateIn map none none 1 .load ring (word off) 8 with
    | (s1, .error e) => (s1, .error e)
    | (s1, .ok t) =>
      let at_ := s1.bytesOf t off 8
      let s2 := s1.publishAt at_
      let w := word (leNat (at_.map (fun p => s2.homeByte p.1 p.2)))
      match (s2.chargeBytes map at_ false).ringRead map ring (off + 8) k with
      | (s2, .ok ws) => (s2, .ok (w :: ws))
      | (s2, .error e) => (s2, .error e)

/-- The offset of the packet of an index. -/
def Queue.slotOff (q : Queue) (i : BitVec 32) : Nat := 64 * (i.toNat % 2 ^ q.log2)

def qlaunchOp (d : Reg) (addr qn : Word) : Op Unit := do
  tenantOnly
  let s ← opGet
  let key ← opOk (s.localAddr s.cur addr)
  opCheck (decide (keyTile key = tileOf s.cur)) 0x05 addr
  opCheck (decide (key % 64 = 0)) 0x04 addr
  opCheck (!s.spadPoisoned key 64) 0x13 (Config.poisonValue addr)
  releaseWait
  let p := (s.partOf s.cur).getD 0
  let x := s.part p
  let ws := (List.range 8).map (fun i => word (s.spadRead (key + 8 * i) 8))
  if x.qquota.toNat ≤ qn.toNat ∨ 4096 ≤ qn.toNat then sysReply d (some 2)
  else if (s.packetBad p ws).isSome then sysReply d (some 3)
  else
    let q := s.queue x.vf qn.toNat
    if 2 ^ q.log2 ≤ q.count then sysReply d (some 1)
    else
      match s.ringWrite x.vf q.ring (q.slotOff q.tail) ws with
      | (s1, some (c, v)) => do
        opMod (fun _ => s1)
        opTrap c v
      | (s1, none) => do
        opMod (fun _ => s1.setQueue x.vf qn.toNat { q with tail := q.tail + 1 })
        sysReply d (some 0)

def execQlaunch (d a b : Reg) (s : State) : Host.Outcome State Fault Refusal := runOp (qlaunchOp d (s.reg a) (s.reg b)) s

/-! ## Dispatch (R350, R351) -/

/-- What stands at the head of a queue. -/
inductive HeadState where
  /-- nothing to do: not running, empty, unbound, already dispatched and waiting for a place, or waiting on its words -/
  | idle
  | refused (row : Nat)
  | cancelled (ws : Packet8)
  | ready (ws : Packet8)
  deriving DecidableEq, Repr

/-- A dispatched launch of a queue still waits for placement and holds up its queue. -/
def State.queuePlacing (s : State) (vf q : Nat) : Bool :=
  s.launches.any (fun l => decide (l.2.vf = vf) && decide (l.2.queue = q) && decide (l.2.phase = .waiting))

/-- The packet at the head of a queue, judged. DEDUCED, log entry 37. -/
def State.judgeHead (s : State) (vf q : Nat) : State × HeadState :=
  let x := s.queue vf q
  match s.partOfVf vf with
  | none => (s, .idle)
  | some p =>
    if x.state ≠ 1 ∨ x.count = 0 ∨ ¬ s.partRuns p ∨ s.queuePlacing vf q then (s, .idle)
    else match s.ringRead vf x.ring (x.slotOff x.head) 8 with
      | (s1, .error _) => (s1, .idle)
      | (s1, .ok ws) => match s1.packetBad p ws with
        | some row => (s1, .refused row)
        | none =>
          if s1.packetUntagged p ws then (s1, .refused 6)
          else
            let keys := (pkWaits ws).filterMap (s1.syncWordKey p (pkSyncTile ws))
            if keys.any (fun k => !genPast (s1.word32 k 2) 0) then (s1, .idle)
            else if keys.any (fun k => decide (s1.word32 k 3 % 256 ≠ 0)) then (s1, .cancelled ws)
            else (s1, .ready ws)

/-- A launch from a packet, not yet placed. -/
def State.newLaunch (s : State) (p vf q : Nat) (ws : Packet8) : Launch :=
  { vf := vf, part := p, queue := q, phase := .waiting, row0 := 0, col0 := 0, rows := pkRows ws, cols := pkCols ws
    slots := (s.part p).physSlots (pkSlots ws), fused := pkFuse ws, bbank := pkBbank ws, code := pkCode ws, entry := pkEntry ws
    arg0 := ws.getD 1 0, arg1 := ws.getD 2 0, slices := pkSlices ws, start := pkStart ws, dn := pkDn ws, irq := pkIrq ws
    spill := pkSpill ws, limit := pkArrival ws, allow := pkPhase ws, pend := s.next
    done := (s.syncWordKey p (pkSyncTile ws) (pkDone ws)).getD 0
    work := { dealt := [], deques := [], arrivals := [], token := 0, tokMark := false, tokDue := false, rounds := 0, marks := []
              counts := [], heard := [], steals := [], spilled := [] } }

/-- Consumes the head packet of a queue. -/
def State.popHead (s : State) (vf q : Nat) : State :=
  let x := s.queue vf q
  s.setQueue vf q { x with head := x.head + 1 }

/-- LAUNCH_DISPATCH: the head packet is refused, cancelled by a wait word's status, or becomes a launch that waits for
placement; it stays at the head until it is placed. DEDUCED, log entry 37. -/
def execLaunchDispatch (vf queue : Nat) (s : State) : Host.Outcome State Fault Refusal :=
  .next (match s.judgeHead vf queue with
    | (s1, .refused row) => s1.queueError vf queue row
    | (s1, .cancelled ws) =>
      let s2 := s1.popHead vf queue
      match pkDn ws, (s.partOfVf vf).bind (fun p => s1.syncWordKey p (pkSyncTile ws) (pkDone ws)) with
      | true, some k => (s2.writeStatus k 0 3).charge vf 6000
      | _, _ => s2
    | (s1, .ready ws) =>
      { s1 with
        launches := Store.put s1.launches s1.next (s1.newLaunch ((s1.partOfVf vf).getD 0) vf queue ws), next := s1.next + 1 }
    | (_, .idle) => s)

/-! ## Placement and start (R28, R33 to R35, R234) -/

/-- The tiles of a rectangle. -/
def Launch.tiles (l : Launch) : List Nat :=
  (List.range (l.rows * l.cols)).map (fun t => ((l.row0 + t / l.cols) % 32) * 32 + (l.col0 + t % l.cols) % 32)

/-- Another launch holds a tile's slots or array that this one needs. The spec names only slots and the array; so two
launches that share a tile may differ in FUSE, each with its own holders (DESIGN CHOICE, log entry 68). -/
def Launch.clashes (l m : Launch) : Bool :=
  (decide (m.phase = .placed) || decide (m.phase = .running)) && l.tiles.any m.hasTile
    && ((decide (l.part = m.part) && decide (l.slots &&& m.slots ≠ 0)) || (decide (l.bbank ≠ 0) && decide (m.bbank ≠ 0)))

/-- Deals the slices: slice i to core i mod N, in ascending order (R35). -/
def Launch.deal (l : Launch) : Launch :=
  let n := l.cores
  let l1 := { l with work := { l.work with dealt := (List.range (Nat.min n l.slices)).map (fun j =>
    (j, (List.range ((l.slices - j + n - 1) / n)).map (fun i => j + n * i))) } }
  (List.range n).foldl (fun l j => l.refill j 64) l1

/-- Clears what a launch owns on its tiles at its start: semaphores, and its B bank and accumulators
(R30, R234). DEDUCED, log entry 38. -/
def State.clearTiles (s : State) (l : Launch) : State :=
  let mine (sem : Nat) : Bool := l.slots.getLsbD (sem % 32 / 2) && l.hasTile (sem / 32)
  let s1 := { s with
    sync := { s.sync with sems := s.sync.sems.filter (fun (x : Nat × Nat) => !mine x.1)
                          waiters := s.sync.waiters.filter (fun (x : Nat × List Nat) => !mine x.1) } }
  if l.bbank = 0 then s1
  else { s1 with eng := { s1.eng with
    bbank := s1.eng.bbank.filter (fun (c : Nat × Byte) => !l.hasTile (c.1 / 2 ^ 21))
    bPois := s1.eng.bPois.filter (fun u => !l.hasTile (u * 64 / 2 ^ 21))
    acc := s1.eng.acc.filter (fun (c : Nat × Byte) => !l.hasTile (c.1 / 2 ^ 15)) } }

/-- A launch sets the B bank of its tiles (R14); one without any leaves the bank of a tile whose array another launch holds.
DEDUCED, log entry 38. -/
def State.setBanks (s : State) (id : Nat) (l : Launch) : State :=
  l.tiles.foldl (fun s tile =>
    let kept : Bool := decide (l.bbank = 0) && s.launches.any (fun m => decide (m.1 ≠ id) && decide (m.2.bbank ≠ 0) && m.2.hasTile tile
      && (decide (m.2.phase = .placed) || decide (m.2.phase = .running)))
    if kept then s
    else
      let (c, back) := s.mod.llc.resize tile l.bbank
      ({ s with mod := { s.mod with llc := c } } : State).charge l.vf (1900000 * back)) s

/-- A launch can be placed at an origin: no other launch clashes with it there. -/
def State.fits (s : State) (id : Nat) (l : Launch) (row col : Nat) : Bool :=
  !s.launches.any (fun m => decide (m.1 ≠ id) && { l with row0 := row, col0 := col }.clashes m.2)

/-- The first origin at which a waiting launch fits. -/
def State.originFor (s : State) (id : Nat) (l : Launch) : Option Nat :=
  (List.range 1024).find? (fun k => s.fits id l (k / 32) (k % 32))

/-- A queue of a virtual function goes before another: it has a higher level, or the same level and an earlier place in
the round after the queue that was served last (R351). -/
def State.queueBefore (s : State) (vf a b : Nat) : Bool :=
  let x := s.queue vf a
  let y := s.queue vf b
  let last := (Store.find s.mod.host.turn (vf * 4 + y.prio)).getD 4095
  let round (k : Nat) : Nat := (k + 4095 - last) % 4096
  decide (x.prio < y.prio) || (decide (x.prio = y.prio) && decide (round a < round b))

/-- Placing a launch would overtake a queue that goes before its own and whose head could be placed, or has not been
looked at yet (R351). DEDUCED, log entry 37. -/
def State.overtakes (s : State) (l : Launch) : Bool :=
  s.mod.host.queues.any (fun y => decide (y.1 / 4096 = l.vf) && s.queueBefore l.vf (y.1 % 4096) l.queue
      && (match (s.judgeHead l.vf (y.1 % 4096)).2 with
        | .ready _ => true
        | .idle | .refused _ | .cancelled _ => false))
    || s.launches.any (fun m => decide (m.2.vf = l.vf) && decide (m.2.phase = .waiting) && s.queueBefore l.vf m.2.queue l.queue
      && s.partRuns m.2.part && (s.originFor m.1 m.2).isSome)

/-- LAUNCH_PLACEMENT: a waiting launch is placed whole at a rectangle's origin where every tile has what it needs. -/
def execLaunchPlacement (launch row col : Nat) (s : State) : Host.Outcome State Fault Refusal :=
  .next (match s.launch launch with
    | some l =>
      let l1 := { l with row0 := row, col0 := col, phase := .placed }
      if l.phase ≠ .waiting ∨ (s.queue l.vf l.queue).state ≠ 1 ∨ 32 ≤ row ∨ 32 ≤ col ∨ ¬ s.partRuns l.part ∨ ¬ s.fits launch l row col ∨ s.overtakes l then s
      else
        let s1 := (((s.updLaunch launch (fun _ => l1.deal)).clearTiles l1).setBanks launch l1).popHead l.vf l.queue
        let h := s1.mod.host
        { s1 with mod := { s1.mod with host := { h with turn := Store.put h.turn (l.vf * 4 + (s1.queue l.vf l.queue).prio) l.queue } } }
    | none => s)

/-- LAUNCH_START: cr.time has reached the packet's start time. -/
def execLaunchStart (launch : Nat) (s : State) : Host.Outcome State Fault Refusal :=
  .next (match s.launch launch with
    | some l => if l.phase = .placed ∧ l.start ≤ s.time then s.updLaunch launch (fun l => { l with phase := .running }) else s
    | none => s)

/-! ## Completion (R42 to R44) -/

/-- Every thread of a launch. -/
def Launch.threads (l : Launch) : List Nat := (List.range l.cores).flatMap l.threadsOn

/-- R42. -/
def State.coreIdle (s : State) (lid : Nat) (l : Launch) (j : Nat) : Bool :=
  let (tile, role) := l.coreOfIndex j
  let core := tile * 3 + role
  let ts := l.threadsOn j
  ts.all (fun t => !(s.thread t).work || (s.thread t).waits.contains .quiet)
    && decide (l.deque j = []) && decide (l.arrivals j = []) && decide (l.spilledFor j = 0)
    && ts.all (fun t => (Store.find s.sync.sends t).isNone)
    && s.eng.jobs.all (fun x => decide (x.2.launch ≠ lid) || decide (coreOf x.2.tid ≠ core))
    && s.sync.ctxs.all (fun c => decide (c.2.1.launch ≠ lid) || decide (coreOf c.2.1.sender ≠ core))
    && (match Store.find l.work.steals j with
      | some (.answered _ _ (some _)) => false
      | _ => true)

/-- CIRCUS_TOKEN_PASS: the core that holds the token passes it when it is idle. -/
def execCircusTokenPass (launch : Nat) (s : State) : Host.Outcome State Fault Refusal :=
  .next (match s.launch launch with
    | some l =>
      let j := l.work.token
      if l.phase ≠ .running ∨ ¬ s.partRuns l.part ∨ l.work.tokDue ∨ ¬ s.coreIdle launch l j then s
      else
        let nxt := (j + 1) % l.cores
        (s.chargeAlley l j nxt).updLaunch launch (fun l => { l with work := { l.work with
          token := nxt, tokDue := decide (nxt = 0), tokMark := l.work.tokMark || l.work.marks.contains j
          marks := l.work.marks.filter (fun k => decide (k ≠ j))
          steals := match Store.find l.work.steals j with
            | some .resting => Store.del l.work.steals j
            | _ => l.work.steals } })
    | none => s)

/-- Ends every tenure of a launch as TREL at module scope would, with the halo pushes that are part of it (R81, R87). -/
def State.endTenures (s : State) (lid : Nat) : State :=
  let s1 := (s.tens.filter (fun t => decide (t.2.holder.launch = lid))).foldl (fun s t =>
    match Store.find s.tens t.1 with
    | some x => (s.publish t.1 x Scope.mod.num).pushBytes x.root (overlay x.held x.dirty) x.pois
    | none => s) s
  { s1 with tens := (s1.tens.map (fun (t : Nat × Ten) => if t.2.holder.launch = lid then
      (t.1, { t.2 with mode := .released Scope.mod.num, replica := [], recalled := false }) else t)).filter (fun t => t.2.keeps) }

/-- The modules at which a launch holds tenure or merges learn that it has ended, or that it is reset (R87, R336). -/
def State.tellEnded (s : State) (lid vf : Nat) (drop : Bool) : State :=
  let l := s.mod.link
  if l.reach.any (fun p => decide (p.1 = lid)) then
    let s1 := (l.reach.filter (fun p => decide (p.1 = lid))).foldl (fun s p => s.sendLink p.2 vf (.ended lid drop)) s
    { s1 with mod := { s1.mod with link := { s1.mod.link with reach := l.reach.filter (fun p => decide (p.1 ≠ lid)) } } }
  else s

/-- A launch leaves the module: its slots are free for another. -/
def State.removeLaunch (s : State) (lid : Nat) (l : Launch) : State :=
  let s1 := l.threads.foldl (fun s t => s.updThread t (fun t => { t with work := false, waits := [] })) s
  { s1 with launches := Store.del s1.launches lid
            eng := { s1.eng with merges := s1.eng.merges.filter (fun m => decide (m.2.launch ≠ lid)) } }

/-- The launch completes: its tenures end, DONE is added to where R367 allows, its interrupt is raised (R44, R351, R352). -/
def State.completeLaunch (s : State) (lid : Nat) (l : Launch) : State :=
  let s1 := (s.endTenures lid).tellEnded lid l.vf false
  let s2 := if l.dn ∧ s1.swAddOk l.done then (s1.swAdd l.done 1).charge l.vf 6000 else s1
  let s3 := if l.irq then s2.raiseVector l.vf (2 + l.queue % 62) else s2
  s3.removeLaunch lid l

/-- A launch's completion, a release at module scope, waits for its threads' buffered stores; its interrupt waits for their
writes to host memory as well (R351, R352). DEDUCED, log entry 39. -/
def State.completionHeld (s : State) (l : Launch) : Bool :=
  l.threads.any (fun t => s.relPending t || (l.irq && (s.buffered t).any (fun a => match a.place with
    | .glob n _ _ _ => s.maps.isHost n
    | .spad _ _ | .remote _ _ _ => false)))

/-- CIRCUS_ROUND: core 0 examines the token; two unmarked rounds make a detection (R44). -/
def execCircusRound (launch : Nat) (s : State) : Host.Outcome State Fault Refusal :=
  .next (match s.launch launch with
    | some l =>
      if l.phase ≠ .running ∨ ¬ s.partRuns l.part ∨ ¬ l.work.tokDue then s
      else
        let set (r : Nat) (s : State) : State :=
          s.updLaunch launch (fun l => { l with work := { l.work with rounds := r, tokMark := false, tokDue := false } })
        if l.work.tokMark then set 0 s
        else if l.work.rounds = 0 then set 1 s
        else
          let quiet := l.threads.filter (fun t => (s.thread t).waits.contains .quiet)
          if quiet = [] then (if s.completionHeld l then s else s.completeLaunch launch l)
          else quiet.foldl (fun s t => s.unblock t .quiet) (set 0 s)
    | none => s)

/-! ## Cancelling a launch (R299, R336) -/

/-- The contexts of a launch that wait in its spill area: node, slot and cr.task (Table 2.6). -/
def State.spilledTasks (s : State) (l : Launch) : List (Nat × Nat × Word) :=
  match if l.spill = 0 then none else canonAt s.maps l.vf l.spill with
  | some (_, { node := id, child := none }) =>
    if s.homeWord id 0 / 2 ^ 32 = 0 then []
    else (List.range (s.homeWord id 0 % 2 ^ 32)).filterMap (fun i =>
      if 2 ^ 63 ≤ s.homeWord id (64 + 160 * i)
          ∧ (List.range l.cores).any (fun j =>
              let (tile, role) := l.coreOfIndex j
              decide (s.homeWord id (64 + 160 * i + 16) / 2 ^ 32 = coreName (tile * 3 + role)))
        then some (id, i, word (s.homeWord id (64 + 160 * i + 8))) else none)
  | _ => []

/-- Discards spilled contexts: VALID falls, USED counts them off. -/
def State.dropSpilled (s : State) (xs : List (Nat × Nat × Word)) : State :=
  xs.foldl (fun (s : State) (x : Nat × Nat × Word) =>
    let at_ := 64 + 160 * x.2.1
    (s.putHomeBytes x.1 at_ (leBytes 8 (s.homeWord x.1 at_ % 2 ^ 63))).putHomeBytes x.1 4 (leBytes 4 (s.homeWord x.1 0 / 2 ^ 32 - 1))) s

/-- The sync words of a launch's tasks: threads at work, deques, dealt slices, arrival queues, spilled contexts and
contexts on their way; 0 for a task with none. -/
def State.taskWords (s : State) (l : Launch) : List (Nat × Word) :=
  let first := l.threads.headD 0
  let gone (t : Nat) : Bool := s.sync.ctxs.any (fun c => decide (c.2.1.sender = t) && decide (c.2.2 = .accepted))
  (l.threads.filter (fun t => (s.thread t).work && !gone t)).map (fun t => (t, (s.thread t).task))
    ++ l.work.deques.flatMap (fun q => q.2.map (fun r => (first, r.sync)))
    ++ l.work.steals.filterMap (fun q => match q.2 with
      | .answered _ _ (some r) => some (first, r.sync)
      | _ => none)
    ++ l.work.dealt.flatMap (fun q => q.2.map (fun _ => (first, (0 : Word))))
    ++ l.work.arrivals.flatMap (fun q => q.2.map (fun c => (first, c.task)))
    ++ (s.spilledTasks l).map (fun x => (first, x.2.2))

/-- What the threads of a list have in flight is dropped; stores already acknowledged are still performed. -/
def State.dropThreads (s : State) (ts : List Nat) : State :=
  let mine (t : Nat) : Bool := ts.contains t
  let s1 := ts.foldl (fun s t => s.updThread t (fun t => { t with work := false, waits := [], sonly := false })) s
  { s1 with
    accs := s1.accs.filter (fun a => !mine a.2.tid || decide (a.2.state = .accepted))
    treqs := s1.treqs.filter (fun a => !mine a.2.tid)
    mod := { s1.mod with link := { s1.mod.link with asks := s1.mod.link.asks.filter (fun a => !mine a.2.tid) } }
    sync := { s1.sync with
      sends := s1.sync.sends.filter (fun x => !mine x.1)
      waiters := (s1.sync.waiters.map (fun (w : Nat × List Nat) => (w.1, w.2.filter (fun t => !mine t)))).filter
        (fun (w : Nat × List Nat) => decide (w.2 ≠ []))
      calls := s1.sync.calls.map (fun (q : Nat × List CallRec) => (q.1, q.2.filter (fun c => !mine c.tid)))
      ctxs := s1.sync.ctxs.filter (fun c => !mine c.2.1.sender) }
    eng := { s1.eng with
      sweeps := (s1.eng.sweeps.map (fun (q : Nat × List Sweep) => (q.1, q.2.filter (fun w => !mine w.tid)))).filter
        (fun (q : Nat × List Sweep) => decide (q.2 ≠ []))
      jobs := s1.eng.jobs.filter (fun j => !mine j.2.tid) } }

/-- The spilled contexts of a launch that another module holds: that module, and for each its core (R39, R339). One that
is still on its way there counts as its sender's task. -/
def State.spilledFar (s : State) (l : Launch) : Option (Nat × List Nat) :=
  (s.farHome l.vf l.spill).map (fun h => (h, l.work.spilled.flatMap (fun q =>
    let (tile, role) := l.coreOfIndex q.1
    let core := tile * 3 + role
    let way := s.sync.ctxs.filter (fun c => decide (c.2.1.core = core) && decide (c.2.2 = .spilling))
    List.replicate (q.2 - way.length) core)))

/-- The module that holds spilled contexts of a cancelled launch is told to discard them; their tasks' words are in them. -/
def State.discardFar (s : State) (lid : Nat) (l : Launch) (code : Nat) : Option (Nat × List Nat) → State
  | some (h, cores) =>
    if s.mod.link.lost.contains h then s
    else cores.foldl (fun s core => s.askHome h (l.threads.headD 0) lid l.spill (.discard core code)) s
  | none => s

/-- Cancels a dispatched launch with a status code: its tasks' completion words and its DONE word receive it; its tasks
never issue again. Gives the number of its tasks. -/
def State.cancelLaunch (s : State) (lid : Nat) (l : Launch) (code : Nat) : State × Nat :=
  let tasks := s.taskWords l
  let far := s.spilledFar l
  let s1 := tasks.foldl (fun s t =>
    if t.2 = 0 then s else match s.localAddr t.1 t.2 with
      | .ok k => (s.writeStatus k 0 code).charge l.vf 6000
      | .error _ => s) s
  let s2 := if l.dn then (s1.writeStatus l.done 0 code).charge l.vf 6000 else s1
  let s3 := ((s2.dropSpilled (s.spilledTasks l)).dropThreads l.threads).discardFar lid l code far
  (((s3.endTenures lid).tellEnded lid l.vf false).removeLaunch lid l, tasks.length + (far.elim 0 (·.2.length)))

/-- Cancels every launch dispatched from a queue; with `q` none, from any queue of the virtual function. -/
def State.cancelQueue (s : State) (vf : Nat) (q : Option Nat) (code : Nat) : State × Nat :=
  (s.launches.filter (fun l => decide (l.2.vf = vf) && (match q with
    | some k => decide (l.2.queue = k)
    | none => true))).foldl (fun (p : State × Nat) l =>
      if l.2.phase = .waiting then ({ p.1 with launches := Store.del p.1.launches l.1 }, p.2)
      else match p.1.launch l.1 with
        | some x => let (s1, n) := p.1.cancelLaunch l.1 x code; (s1, p.2 + n)
        | none => p) (s, 0)

/-! ## QCTL (R299) -/

/-- The COUNT and CODE word of QCTL. -/
def qctlWord (count code : Nat) : Word := word (count % 2 ^ 32 * 2 ^ 32 + code)

/-- QCTL on an existing queue of the virtual function that the issuer acts on; NOQUEUE otherwise. -/
def qctlOp (d : Reg) (n : Word) (f : Nat → Nat → Op Unit) : Op Unit := do
  let s ← opGet
  let p := if 2 ≤ s.me.level.toNat then some (s.selPart s.cur) else s.partOf s.cur
  match p, s.sysVf with
  | some p, some vf =>
    if (s.part p).qquota.toNat ≤ n.toNat ∨ 4096 ≤ n.toNat then sysReply d (some (qctlWord 0 1)) else f vf n.toNat
  | _, _ => sysReply d (some (qctlWord 0 1))

def execQstop (d a : Reg) (s : State) : Host.Outcome State Fault Refusal :=
  runOp (qctlOp d (s.reg a) (fun vf q => do
    opMod (fun s => let x := s.queue vf q; (s.unplace vf q).setQueue vf q { x with state := if x.state = 3 then 3 else 0 })
    sysReply d (some (qctlWord 0 0)))) s

def execQstart (d a : Reg) (s : State) : Host.Outcome State Fault Refusal :=
  runOp (qctlOp d (s.reg a) (fun vf q => do
    opMod (fun s =>
      let x := s.queue vf q
      if 2 ^ x.log2 < x.count then s else s.setQueue vf q { x with state := 1, err := 0 })
    sysReply d (some (qctlWord 0 0)))) s

def execQdrain (d a : Reg) (s : State) : Host.Outcome State Fault Refusal :=
  runOp (qctlOp d (s.reg a) (fun vf q => do
    let s ← opGet
    let x := s.queue vf q
    let mine := (s.launches.filter (fun l => decide (l.2.vf = vf) && decide (l.2.queue = q) && decide (l.2.phase ≠ .waiting))).length
    let n := x.drain.getD mine
    if mine = 0 then do
      opMod (fun s => let x := s.queue vf q; (s.unplace vf q).setQueue vf q { x with state := if x.state = 3 then 3 else 0, drain := none })
      sysReply d (some (qctlWord n 0))
    else do
      opMod (fun s => (s.unplace vf q).setQueue vf q { x with state := if x.state = 3 then 3 else 2, drain := some n })
      opWait (.drain vf q))) s

end Sys2Proof.Machine
end

