-- ==== Sys2Proof/Machine/Stops.lean ====
section
/-! DEFINITION. The synchronised stop and images (R298, R300, R301, R315 to R325): SSTOP, PARTX and the events STOP_CYCLE,
FLUSH_TOKEN_HOP and RESTORE_STOP_TIME_PASSED. -/

/-- The image that some bytes hold under a virtual function's key when another module has sealed them, none where the tag
check fails: this module's proofs cannot open them (R301; DESIGN CHOICE, log entry 72). -/
opaque Sys2Proof.Config.foreignImage : List (BitVec 8) → Option Sys2Proof.Machine.Image

/-- The bytes of an image outside its thread records, by their offset: the manual gives the content of each section of Table
19.4 and no layout of it (R317; DESIGN CHOICE, log entry 42). -/
opaque Sys2Proof.Config.imageByte : Sys2Proof.Machine.Image → Nat → BitVec 8

namespace Sys2Proof.Machine

/-! ## SSTOP (R298) -/

/-- The partition number in a register; any value above 15 traps. -/
def partArg (v : Word) : Op Nat := do
  opCheck (decide (v.toNat < 16)) 0x0C v
  pure v.toNat

/-- SSTOP: a stop that has been reached, or is complete, stays as it is. -/
def execSstop (a : Reg) (s : State) : Host.Outcome State Fault Refusal :=
  runOp (do
    let p ← partArg (s.reg a)
    opCheck (decide (s.cycle + 4096 ≤ s.me.sys.stopcycle.toNat)) 0x0C s.me.sys.stopcycle
    opMod (fun s => if (s.part p).stop.due s.cycle then s
      else s.updPart p (fun x => { x with stop := .armed s.me.sys.stopcycle.toNat }))
    sysReply 0 none) s

/-- SSTOP.CANCEL: a stop that has been reached is armed no longer. -/
def execSstopCancel (a : Reg) (s : State) : Host.Outcome State Fault Refusal :=
  runOp (do
    let p ← partArg (s.reg a)
    match (s.part p).stop with
    | .armed c =>
      if c ≤ s.cycle then sysReply 0 none
      else do
        opCheck (decide (s.cycle + 4096 ≤ c)) 0x0C (word c)
        opMod (fun s => s.updPart p (fun x => { x with stop := .none }))
        sysReply 0 none
    | .none | .flushing _ _ _ _ | .stopped _ _ => sysReply 0 none) s

/-! ## Phases 1 and 2 (R315) -/

/-- A thread belongs to a partition's slots. -/
def Part.hasThread (x : Part) (tid : Nat) : Bool := !isMgmt tid && x.slots.getLsbD (slotOf tid)

/-- TACQs that wait in a home's queue are withdrawn: their bundles will be issued again, without the vector slot that was
performed, under the original cycle stamp (R170). -/
def State.withdrawTacqs (s : State) (x : Part) : State :=
  (s.treqs.filter (fun q => x.hasThread q.2.tid && q.2.queued.isSome)).foldl (fun s q =>
    ({ s with treqs := Store.del s.treqs q.1 }.unblock q.2.tid (.tenure q.1)).updThread q.2.tid (fun t =>
      { t with pc := q.2.pc, left := q.2.left, sonly := q.2.hold.sonly, restamp := some q.2.stamp })) s

/-- TACQs of a partition that wait at another module are to be withdrawn there (R170). -/
def State.withdrawFar (s : State) (x : Part) : State :=
  (s.accs.filter (fun a => x.hasThread a.2.tid && decide (a.2.state = .sent) && !s.mod.link.undone.contains a.1)).foldl (fun s a =>
    match a.2.place, a.2.op with
    | .remote h _ _, .far f _ => (match f.op with
      | .tacq .. =>
        let s1 := s.sendLink h x.vf (.withdraw a.1)
        { s1 with mod := { s1.mod with link := { s1.mod.link with undone := a.1 :: s1.mod.link.undone } } }
      | _ => s)
    | _, _ => s) s

/-- Steals of a launch end: a pending request is answered empty, a record in flight goes back to the top of its victim's
deque. -/
def Launch.endSteals (l : Launch) : Launch :=
  let l1 := l.work.steals.foldl (fun l x => match x.2 with
    | .answered _ v (some r) => l.setDeque v (r :: l.deque v)
    | _ => l) l
  { l1 with work := { l1.work with steals := [] } }

/-- STOP_CYCLE: at the armed cycle issue stops and work parks; a partition that is not resident stops trivially. -/
def execStopCycle (part : Nat) (s : State) : Host.Outcome State Fault Refusal :=
  .next (match (s.part part).stop with
    | .armed c =>
      if s.cycle < c then s
      else if ¬ (s.part part).valid then s.updPart part (fun x => { x with stop := .none })
      else
        let s1 := s.updPart part (fun x => { x with stop := .flushing c s.time 0 false })
        let s2 := (s1.withdrawTacqs (s1.part part)).withdrawFar (s1.part part)
        { s2 with launches := s2.launches.map (fun l => if l.2.part = part then (l.1, l.2.endSteals) else l) }
    | .none | .flushing _ _ _ _ | .stopped _ _ => s)

/-! ## Phase 3 (R316) -/

/-- The router at a place of the serpentine order. -/
def serpentine (i : Nat) : Nat :=
  let row := i % 1024 / 32
  let col := i % 32
  row * 32 + (if row % 2 = 0 then col else 31 - col)

/-- The place of a router in the serpentine order. -/
def serpentineAt (router : Nat) : Nat :=
  let row := router / 32
  row * 32 + (if row % 2 = 0 then router % 32 else 31 - router % 32)

/-- A router absorbs a partition's flits that it holds, up to its save buffer of 32. -/
def State.absorb (s : State) (p router : Nat) : State × Bool :=
  let n := s.mod.net
  let held := n.flits.filter (fun f => decide (f.at_ = router) && decide (f.part = p))
  let buf := (Store.find n.saved router).getD []
  let take := held.take (32 - buf.length)
  if take = [] then (s, false)
  else
    let n1 := { n with flits := n.flits.filter (fun f => !take.contains f), saved := Store.put n.saved router (buf ++ take) }
    ({ s with mod := { s.mod with net := n1 } }, true)

/-- A packet whose flits have not all reached its destination. -/
def Packet.travels (p : Packet) : Bool := decide (p.got.length < p.total)

/-- A job's sector is in transfer to another module. A contribution there may wait for its turn, and a weight read for
its step: neither is served yet (R227, R276). -/
def Job.inTransfer (j : Job) : Bool :=
  j.away && j.contribution.isNone && (match j.op with
    | .copy 9 _ _ _ => false
    | _ => true)

/-- Phase 2 has ended: no reply, buffered store, shoot-down or sector of the partition is outstanding, and every access still
unperformed waits at a sync word or a window, or as a packet on its way that is no load, atomic or CAS (R155, R315). -/
def State.phase2Done (s : State) (x : Part) : Bool :=
  s.accs.all (fun a => !x.hasThread a.2.tid || (match a.2.state with
    | .sent => (match Store.find s.mod.net.packets a.1 with
      | some p => p.travels && !a.2.op.reads
      | none => match s.perform a.2 with
        | .later w => decide (w ≠ .order)
        | .done _ _ _ | .trap _ _ => false)
    | .waiting => (match a.2.place with
      | .spad _ _ => true
      | .glob _ _ _ _ | .remote _ _ _ => false)
    | .held | .accepted | .performed _ _ | .failed _ _ => false))
    && s.threads.all (fun t => !x.hasThread t.1 || t.2.waits.all (fun w => match w with
      | .shootdown _ => false
      | _ => true))
    && s.treqs.all (fun q => !x.hasThread q.2.tid)
    && s.eng.jobs.all (fun j => !x.hasThread j.2.tid || !j.2.inTransfer)
    && !s.asking (fun a => x.hasThread a.tid)

/-- A flush token waits for the next Ring Road cycle: it has visited its router of this one, or this one's hops are not
done. -/
def State.tourHeld (s : State) (part : Nat) : Bool :=
  let n := s.mod.net
  decide (Store.find n.visitAt part = some (s.cycle / 2 + 1)) || (decide (n.hopAt ≠ s.cycle / 2 + 1) && !n.flits.isEmpty)

/-- FLUSH_TOKEN_HOP: the token visits a router, one on each Ring Road cycle, after the flits' hops; a tour that absorbs
nothing completes the stop. A TACQ that reaches its home and would wait there after the stop cycle is withdrawn before
the tour. -/
def execFlushTokenHop (part : Nat) (s : State) : Host.Outcome State Fault Refusal :=
  .next (match (s.part part).stop with
    | .flushing c t r ab =>
      if r = 0 ∧ ¬ s.phase2Done (s.part part) then s.withdrawTacqs (s.part part)
      else if s.tourHeld part then s
      else
        let s0 : State := { s with mod := { s.mod with net := { s.mod.net with
          visitAt := Store.put s.mod.net.visitAt part (s.cycle / 2 + 1) } } }
        let (s1, took) := s0.absorb part (serpentine r)
        let ab1 := ab || took
        if (r + 1) % 1024 ≠ 0 then s1.updPart part (fun x => { x with stop := .flushing c t (r + 1) ab1 })
        else if ab1 ∨ ¬ s1.phase2Done (s1.part part) then s1.updPart part (fun x => { x with stop := .flushing c t (r + 1) false })
        else s1.updPart part (fun x => { x with stop := .stopped c t })
    | .none | .armed _ | .stopped _ _ => s)

/-! ## Renumbering (R319) -/

/-- Where each physical slot and bank of one mask lies in another of the same size: lists by old position. -/
structure Renum where
  slot : List Nat
  bank : List Nat
  deriving DecidableEq, Repr

/-- Positions of equal rank. -/
def rankMap {w : Nat} (old new : BitVec w) : List Nat :=
  (List.range w).map (fun i => if old.getLsbD i then (posOf new (rankOf old i)).getD i else i)

def Renum.ofMasks (slots slots' : BitVec 16) (banks banks' : BitVec 24) : Renum :=
  { slot := rankMap slots slots', bank := rankMap banks banks' }

def Renum.tid (r : Renum) (t : Nat) : Nat := if isMgmt t then t else t / 16 * 16 + r.slot.getD (t % 16) (t % 16)
def Renum.key (r : Renum) (k : Nat) : Nat :=
  let b := k % 2 ^ 20 / 2 ^ 15
  k / 2 ^ 20 * 2 ^ 20 + r.bank.getD b b * 2 ^ 15 + k % 2 ^ 15
/-- The two resources of a slot, by tile * 32 + number. -/
def Renum.pair (r : Renum) (k : Nat) : Nat :=
  let s := k % 32 / 2
  k / 32 * 32 + 2 * r.slot.getD s s + k % 2
def Renum.win (r : Renum) (w : Nat) : Nat :=
  let s := 2 * (w % 8)
  w / 8 * 8 + r.slot.getD s s / 2
def Renum.mask (r : Renum) (m : BitVec 16) : BitVec 16 :=
  (List.range 16).foldl (fun (x : BitVec 16) i => if m.getLsbD i then x ||| ((1 : BitVec 16) <<< r.slot.getD i i) else x) 0

/-- Changes the keys of a store. -/
def rekey {α β : Type} (f : Nat → Nat) (g : α → β) (m : Store α) : Store β :=
  m.foldl (fun (r : Store β) p => Store.put r (f p.1) (g p.2)) []

def Renum.why (r : Renum) : Why → Why
  | .semp tile sem => .semp tile (r.pair sem)
  | .gen key v => .gen (r.key key) v
  | .window tile win off n => .window tile (r.win win) (r.key off) n
  | .quiesce t => .quiesce (r.tid t)
  | w => w

/-- A restored thread: its issue cycles were counted by the module that saved it (R151, R301). -/
def Renum.thread (r : Renum) (t : Thread) : Thread := { t with waits := t.waits.map r.why, last := none }
def Renum.held (r : Renum) (h : Held) : Held :=
  { h with bytes := h.bytes.map (fun (p : Nat × Byte) => (r.key p.1, p.2)) }
def Renum.launch (r : Renum) (l : Launch) : Launch :=
  { l with slots := r.mask l.slots, done := r.key l.done
           work := { l.work with arrivals := l.work.arrivals.map (fun (q : Nat × List Ctx) =>
             (q.1, q.2.map (fun c => { c with sender := r.tid c.sender }))) } }
def Renum.job (r : Renum) (j : Job) : Job :=
  { j with tid := r.tid j.tid, entry := j.entry.map r.pair, sem := j.sem.map r.pair }
def Renum.access (r : Renum) (a : Access) : Access :=
  { a with tid := r.tid a.tid, hold := r.held a.hold, place := match a.place with
      | .spad k addr => .spad (r.key k) addr
      | p => p }

/-! ## PARTX SAVE (R300, R301, R317) -/

/-- A launch of a partition. -/
def State.partLaunches (s : State) (p : Nat) : Store Launch :=
  s.launches.filter (fun l => decide (l.2.part = p) && decide (l.2.phase ≠ .waiting))

/-- The B bank and accumulators of a tile are held by a launch of the partition. -/
def State.partArray (s : State) (p tile : Nat) : Bool :=
  match s.arrayHolder tile with
  | some (_, l) => decide (l.part = p)
  | none => false

/-- A thread as it is saved: a call withdrawn is issued again, its vector slot left out (R295, R317). -/
def Thread.saved (t : Thread) : Thread :=
  if t.waits.contains .call then
    { t with waits := t.waits.filter (fun w => decide (w ≠ .call)), pc := t.pc - 8, left := t.left + 1, sonly := true }
  else t

/-- The fault records of a partition that wait, by die, those that have found their buffer full last. -/
def State.partFaults (s : State) (p : Nat) : Store (List FaultRec) :=
  (s.eng.faults.filter (fun q => decide (q.1 / 4 = p))).map (fun (q : Nat × List FaultRec) =>
    (q.1 % 4, q.2 ++ (Store.find s.eng.late q.1).getD []))

/-- The size of an image of `k` slots and `m` banks in bytes: header, thread records, banks, the arrays held, the data of its
tenures, and the rest below 1 GiB (R317; DESIGN CHOICE, log entry 42). -/
def imageSize (k m arrays data : Nat) (rest : List Nat) : Nat :=
  256 + 384 * 3072 * k + 1024 * 32768 * m + arrays * (2 ^ 21 + 2 ^ 15) + data + Config.imageRest rest % 2 ^ 30 + 16

/-- The image of a stopped partition. DEDUCED, log entry 40. -/
def State.imageOf (s : State) (p : Nat) : Image :=
  let x := s.part p
  let (c, t) := match x.stop with
    | .stopped c t => (c, t)
    | _ => (s.cycle, s.time)
  let mine (tid : Nat) : Bool := x.hasThread tid
  let bank (key : Nat) : Bool := x.banks.getLsbD (key % 2 ^ 20 / 2 ^ 15)
  let ids := Store.keys (s.partLaunches p)
  let accs := s.accs.filter (fun a => mine a.2.tid)
  let tens := s.tens.filter (fun q => ids.contains q.2.holder.launch)
  let flits := s.mod.net.saved.flatMap (fun q => (q.2.filter (fun f => decide (f.part = p))).map (fun f => (q.1, f)))
  { vf := x.vf, slots := x.slots, banks := x.banks, vslots := x.vslots, vbanks := x.vbanks, cycle := c, time := t
    threads := (s.threads.filter (fun q => mine q.1)).map (fun (q : Nat × Thread) => (q.1, q.2.saved))
    spad := s.spad.filter (fun q => bank q.1), spadPois := s.spadPois.filter (fun u => bank (u * 64))
    tags := s.tags.filter (fun u => bank (u * 16))
    sems := s.sync.sems.filter (fun q => x.slots.getLsbD (q.1 % 32 / 2))
    waiters := s.sync.waiters.filter (fun q => x.slots.getLsbD (q.1 % 32 / 2))
    sends := s.sync.sends.filter (fun q => mine q.1)
    wins := s.wins.filter (fun q => x.slots.getLsbD (2 * (q.1 % 8)))
    launches := s.partLaunches p
    sweeps := (s.eng.sweeps.map (fun (q : Nat × List Sweep) => (q.1, q.2.filter (fun w => mine w.tid)))).filter
      (fun (q : Nat × List Sweep) => decide (q.2 ≠ []))
    jobs := s.eng.jobs.filter (fun q => mine q.2.tid)
    bbank := s.eng.bbank.filter (fun q => s.partArray p (q.1 / 2 ^ 21))
    bPois := s.eng.bPois.filter (fun u => s.partArray p (u * 64 / 2 ^ 21))
    acc := s.eng.acc.filter (fun q => s.partArray p (q.1 / 2 ^ 15))
    merges := s.eng.merges.filter (fun q => ids.contains q.2.launch)
    flits := flits
    packets := s.mod.net.packets.filter (fun q => (Store.find accs q.1).isSome)
    accs := accs
    faults := s.partFaults p
    ctxs := s.sync.ctxs.filter (fun q => mine q.2.1.sender)
    tens := tens
    queues := s.mod.host.queues.filter (fun q => decide (q.1 / 4096 = x.vf))
    size := imageSize (popOf x.slots) (popOf x.banks) ((List.range 1024).filter (s.partArray p)).length
      (tens.map (fun (q : Nat × Ten) => q.2.dirty.length + q.2.held.length + q.2.replica.length)).sum
      [ids.length, flits.length, tens.length, ((s.partFaults p).map (fun (q : Nat × List FaultRec) => q.2.length)).sum]
    cipher := [] }

/-- Takes a partition's state off the module; its call records are withdrawn, latched ones too (R295).
DEDUCED, log entry 40. -/
def State.takeOff (s : State) (p : Nat) : State :=
  let x := s.part p
  let mine (tid : Nat) : Bool := x.hasThread tid
  let ids := Store.keys (s.launches.filter (fun l => decide (l.2.part = p)))
  let lost (k : Nat) : Bool := match s.acc k with
    | some a => mine a.tid
    | none => false
  let n := s.mod.net
  { s with
    threads := (s.threads.filter (fun q => !mine q.1)).map (fun (q : Nat × Thread) => (q.1, match q.2.sys.latch with
      | some c => if mine c.tid then { q.2 with sys := { q.2.sys with latch := some { c with tid := 65536 } } } else q.2
      | none => q.2))
    accs := s.accs.filter (fun a => !mine a.2.tid)
    treqs := s.treqs.filter (fun a => !mine a.2.tid)
    launches := s.launches.filter (fun l => decide (l.2.part ≠ p))
    wins := s.wins.filter (fun q => !x.slots.getLsbD (2 * (q.1 % 8)))
    sync := { s.sync with
      sems := s.sync.sems.filter (fun q => !x.slots.getLsbD (q.1 % 32 / 2))
      waiters := s.sync.waiters.filter (fun q => !x.slots.getLsbD (q.1 % 32 / 2))
      sends := s.sync.sends.filter (fun q => !mine q.1)
      calls := s.sync.calls.map (fun (q : Nat × List CallRec) => (q.1, q.2.filter (fun c => !mine c.tid)))
      ctxs := s.sync.ctxs.filter (fun q => !mine q.2.1.sender) }
    eng := { s.eng with
      sweeps := (s.eng.sweeps.map (fun (q : Nat × List Sweep) => (q.1, q.2.filter (fun w => !mine w.tid)))).filter
        (fun (q : Nat × List Sweep) => decide (q.2 ≠ []))
      jobs := s.eng.jobs.filter (fun q => !mine q.2.tid)
      bbank := s.eng.bbank.filter (fun q => !s.partArray p (q.1 / 2 ^ 21))
      bPois := s.eng.bPois.filter (fun u => !s.partArray p (u * 64 / 2 ^ 21))
      acc := s.eng.acc.filter (fun q => !s.partArray p (q.1 / 2 ^ 15))
      merges := s.eng.merges.filter (fun q => !ids.contains q.2.launch)
      faults := s.eng.faults.filter (fun q => decide (q.1 / 4 ≠ p)), late := s.eng.late.filter (fun q => decide (q.1 / 4 ≠ p)) }
    mod := { s.mod with net := { n with
      packets := n.packets.filter (fun q => !lost q.1)
      flits := n.flits.filter (fun f => decide (f.part ≠ p))
      saved := (n.saved.map (fun (q : Nat × List Flit) => (q.1, q.2.filter (fun f => decide (f.part ≠ p))))).filter
        (fun (q : Nat × List Flit) => decide (q.2 ≠ [])) } } }

/-- The result word of PARTX (R300). -/
def partxWord (code extent : Nat) : Word := word (extent % 2 ^ 40 * 2 ^ 24 + code)

/-- The node that an image operand names in the system map, by R59 rows 1 to 3. -/
def imageNodeOp (l : Word) : Op Nat := do
  let s ← opGet
  let r := resolve s.maps 256 l
  opMod (fun s => { s with maps := s.maps.countHits r.stubs })
  let (_, t) ← opOk r.result
  pure t.node

/-- The extent of a plain node, 0 for any other. -/
def State.plainExtent (s : State) (id : Nat) : Nat :=
  match s.node id with
  | some n => if n.kind = 0 then n.extent else 0
  | none => 0

/-- The pages of a node's first bytes. -/
def firstPages (id n : Nat) : List (Nat × Nat) := (List.range ((n + 65535) / 65536)).map (fun p => (id, p))

/-! ### The bytes of an image (R301, R317) -/

/-- WAIT of Table 19.5. -/
def Thread.waitCode (t : Thread) : Nat :=
  if t.waits.contains .parked then 4
  else if t.waits.any (fun w => match w with
    | .semp _ _ => true
    | _ => false) then 2
  else if t.sys.halted then 3
  else if !t.work then 5
  else if t.waits = [] then 0 else 1

/-- The control registers of a thread record, in the order of Table 19.5. -/
def Thread.recordCrs (t : Thread) : List Word :=
  [t.fst, t.frm, t.uvec, t.ucause, t.uepc, t.uval, t.task, t.slice.setWidth 64, t.code, t.sys.svec, t.sys.scause, t.sys.sepc,
   t.sys.sval, t.sys.sxcode]

/-- The 384 bytes of a thread record (Table 19.5), resuming at a bundle. -/
def Thread.record (t : Thread) (pc : Word) (sonly : Bool) : List Byte :=
  let (cause, v) := t.sys.pend.getD (0, 0)
  leBytes 8 (cause % 256 * 2 ^ 56 + t.pres.toNat * 2 ^ 48 + t.level.toNat * 2 ^ 46 + t.waitCode * 2 ^ 42
      + (if sonly then 2 ^ 40 else 0) + pc.toNat % 2 ^ 40)
    ++ leBytes 8 v.toNat ++ (List.range 32).flatMap (fun i => leBytes 8 (if i = 0 then 0 else ((t.g.toList.getD i 0).toNat)))
    ++ t.recordCrs.flatMap (fun w => leBytes 8 w.toNat)

/-- The record of a thread in an image; one whose access waits resumes at the access's bundle. -/
def Image.threadRecord (img : Image) (tid : Nat) : List Byte :=
  let t := (Store.find img.threads tid).getD Thread.idle
  match img.accs.find? (fun a => decide (a.2.tid = tid) && decide (a.2.state ≠ .accepted)) with
  | some a => t.record a.2.pc a.2.hold.sonly
  | none => t.record t.pc t.sonly

/-- The threads of an image, by core and slot (DESIGN CHOICE, log entry 42). -/
def Image.tids (img : Image) : List Nat :=
  (List.range 3072).flatMap (fun c => ((List.range 16).filter img.slots.getLsbD).map (fun k => c * 16 + k))

/-- The bytes of an image before it is sealed: header, thread records, the other sections. -/
def Image.bytes (img : Image) : List Byte :=
  let h := (List.range 256).map (Config.imageByte img)
  let r := img.tids.flatMap img.threadRecord
  h ++ r ++ (List.range (img.size - 16 - 256 - r.length)).map (fun i => Config.imageByte img (256 + r.length + i))

/-- The bytes of a 128-bit block, the lowest first (DESIGN CHOICE, log entry 42). -/
def blockBytes (b : BitVec 128) : List Byte := (List.range 16).map (fun i => b.extractLsb' (8 * i) 8)

/-- The sealed bytes of an image: AES-256 in counter mode, then the tag over the ciphertext (R301). -/
def Image.sealed (img : Image) (sid : Nat) : List Byte :=
  let c := img.bytes.zipIdx.map (fun b =>
    b.1 ^^^ (blockBytes (Config.aes img.vf (Config.imageCounter img.vf sid (some (b.2 / 16))))).getD (b.2 % 16) 0)
  c ++ blockBytes (Config.ghash img.vf c ^^^ Config.aes img.vf (Config.imageCounter img.vf sid none))

/-- Writes the sealed bytes of an image from byte 0 of a node. -/
def State.writeSealed (s : State) (id : Nat) (img : Image) : State :=
  img.cipher.zipIdx.foldl (fun s b => s.putHome id b.2 b.1) s

/-- A node holds the sealed bytes of an image. DESIGN CHOICE, log entry 42. -/
def State.holdsSealed (s : State) (id : Nat) (img : Image) : Bool :=
  img.cipher.zipIdx.all (fun b => decide (s.homeByte id b.2 = b.1))

def partxSaveOp (d : Reg) (pv l : Word) : Op Unit := do
  let p ← partArg pv
  let id ← imageNodeOp l
  let s ← opGet
  let x := s.part p
  if !x.valid then sysReply d (some (partxWord 3 0))
  else match x.stop with
    | .none => sysReply d (some (partxWord 1 0))
    | .armed _ | .flushing _ _ _ _ => opWait (.stop p)
    | .stopped _ _ => do
      let img0 := s.imageOf p
      let img := { img0 with cipher := img0.sealed s.next }
      if s.plainExtent id < img.size then sysReply d (some (partxWord 2 img.size))
      else
        let (s1, r) := s.pageChecks 256 0 (firstPages id img.size)
        match r with
        | some (c, v) => do
          opMod (fun _ => s1)
          opTrap c v
        | none => do
          opMod (fun _ =>
            let s2 := s1.writeSealed id img
            let s3 : State := { s2 with next := s2.next + 1, mod := { s2.mod with keys := { s2.mod.keys with
              images := Store.put s2.mod.keys.images s2.next img } } }
            (s3.takeOff p).unbind p)
          sysReply d (some (partxWord 0 0))

def execPartxSave (d a b : Reg) (s : State) : Host.Outcome State Fault Refusal :=
  runOp (partxSaveOp d (s.reg a) (s.reg b)) s

/-! ## PARTX RESTORE (R301, R319, R320) -/

/-! ### Images from other modules (R301) -/

/-- Merges two stores of disjoint keys. -/
def joinStore {α : Type} (a b : Store α) : Store α := b.foldl (fun (r : Store α) p => Store.put r p.1 p.2) a

/-- A wait, with the records it names numbered anew. -/
def Why.shift (k : Nat) : Why → Why
  | .access id => .access (id + k)
  | .matrix id => .matrix (id + k)
  | .dtwait id => .dtwait (id + k)
  | .migr id => .migr (id + k)
  | .tenure id => .tenure (id + k)
  | .shootdown id => .shootdown (id + k)
  | w => w

/-- The records of an image that another module has sealed are numbered from this module's next number up. -/
def Image.shift (img : Image) (k : Nat) : Image :=
  { img with
    threads := img.threads.map (fun (q : Nat × Thread) => (q.1, { q.2 with waits := q.2.waits.map (Why.shift k) }))
    launches := rekey (· + k) id img.launches
    sweeps := img.sweeps.map (fun (q : Nat × List Sweep) => (q.1, q.2.map (fun w => { w with dep := w.dep.map (· + k) })))
    jobs := rekey (· + k) (fun (j : Job) => { j with launch := j.launch + k, edges := j.edges.map (· + k), away := false
                                                     dep := j.dep.map (· + k) }) img.jobs
    merges := rekey (· + k) (fun (m : Merge) => { m with launch := m.launch + k
                                                         seen := m.seen.map (fun (p : Nat × Nat) => (p.1, p.2 + k)) }) img.merges
    flits := img.flits.map (fun (q : Nat × Flit) => (q.1, { q.2 with packet := q.2.packet + k }))
    packets := rekey (· + k) id img.packets
    accs := rekey (· + k) (fun (a : Access) => { a with holder := { a.holder with launch := a.holder.launch + k } }) img.accs
    faults := img.faults.map (fun (q : Nat × List FaultRec) => (q.1, q.2.map (fun (f : FaultRec) => { f with job := f.job + k })))
    ctxs := rekey (· + k) (fun (c : Ctx × CtxState) => ({ c.1 with launch := c.1.launch + k }, c.2)) img.ctxs
    tens := rekey (· + k) (fun (t : Ten) => { t with holder := { t.holder with launch := t.holder.launch + k } }) img.tens }

/-- A number above those of an image's records. -/
def Image.top (img : Image) : Nat :=
  ((Store.keys img.launches ++ Store.keys img.jobs ++ Store.keys img.merges ++ Store.keys img.packets ++ Store.keys img.accs
    ++ Store.keys img.ctxs ++ Store.keys img.tens).foldl Nat.max 0) + 1

/-- The image that a node holds: one whose key this module holds and whose seal the bytes match, the last that was sealed here
so, or sealed by another module (DESIGN CHOICE, log entries 42 and 72); in that case the flag is set. -/
def State.findImage (s : State) (id : Nat) : Option (Image × Bool) :=
  let fits (img : Image) : Bool := (Store.find s.mod.keys.dseq img.vf).isSome && decide (img.size ≤ s.plainExtent id)
  match s.mod.keys.images.reverse.find? (fun q => fits q.2 && s.holdsSealed id q.2) with
  | some q => some (q.2, false)
  | none =>
    if s.plainExtent id < 256 then none
    else match Config.foreignImage ((List.range (s.plainExtent id)).map (s.homeByte id)) with
      | some img => if fits img then some (img, true) else none
      | none => none

/-- What only an image from another module brings with it: its tenure records, and its queue registers. -/
def State.joinForeign (s : State) (img : Image) : State :=
  { s with
    next := s.next + img.top
    tens := joinStore s.tens img.tens
    mod := { s.mod with host := { s.mod.host with queues := joinStore s.mod.host.queues img.queues } } }

/-- Slots and banks of equal rank, and slots of equal parity. -/
def shapeFits (x : Part) (img : Image) : Bool :=
  decide (popOf x.slots = popOf img.slots) && decide (popOf x.banks = popOf img.banks)
    && (List.range 16).all (fun i => !img.slots.getLsbD i || decide ((rankMap img.slots x.slots).getD i i % 2 = i % 2))

/-- Puts an image into a partition: threads, jobs and tiles at the partition's own positions.
DEDUCED, log entry 40. -/
def State.putImage (s : State) (p : Nat) (img : Image) : State :=
  let x := s.part p
  let r := Renum.ofMasks img.slots x.slots img.banks x.banks
  let bank (key : Nat) : Bool := x.banks.getLsbD (key % 2 ^ 20 / 2 ^ 15)
  let s1 := { s with
    threads := joinStore s.threads (rekey r.tid r.thread img.threads)
    spad := Memory.join (s.spad.filter (fun q => !bank q.1)) (img.spad.map (fun (q : Nat × Byte) => (r.key q.1, q.2)))
    spadPois := s.spadPois.filter (fun u => !bank (u * 64)) ++ img.spadPois.map (fun u => r.key (u * 64) / 64)
    tags := s.tags.filter (fun u => !bank (u * 16)) ++ img.tags.map (fun u => r.key (u * 16) / 16)
    sync := { s.sync with
      sems := joinStore s.sync.sems (rekey r.pair id img.sems)
      waiters := joinStore s.sync.waiters (rekey r.pair (fun (l : List Nat) => l.map r.tid) img.waiters)
      sends := joinStore s.sync.sends (rekey r.tid (fun (x : Send) => { x with target := r.tid x.target }) img.sends)
      ctxs := joinStore s.sync.ctxs (img.ctxs.map (fun (q : Nat × Ctx × CtxState) =>
        (q.1, { q.2.1 with sender := r.tid q.2.1.sender, hold := r.held q.2.1.hold }, q.2.2))) }
    wins := joinStore s.wins (rekey r.win id img.wins)
    launches := joinStore s.launches (img.launches.map (fun (q : Nat × Launch) => (q.1, { r.launch q.2 with part := p })))
    accs := joinStore s.accs (img.accs.map (fun (q : Nat × Access) => (q.1, r.access q.2)))
    eng := { s.eng with
      sweeps := img.sweeps.foldl (fun (m : Store (List Sweep)) (q : Nat × List Sweep) =>
        Store.put m q.1 ((Store.find m q.1).getD [] ++ q.2.map (fun (w : Sweep) => { w with tid := r.tid w.tid }))) s.eng.sweeps
      jobs := joinStore s.eng.jobs (img.jobs.map (fun (q : Nat × Job) => (q.1, { r.job q.2 with
        state := match q.2.state with
          | .parked _ _ false => .started
          | st => st })))
      bbank := s.eng.bbank.join img.bbank, bPois := s.eng.bPois ++ img.bPois, acc := s.eng.acc.join img.acc
      merges := joinStore s.eng.merges img.merges
      faults := joinStore s.eng.faults (img.faults.map (fun (q : Nat × List FaultRec) => (p * 4 + q.1, q.2.take 64)))
      late := joinStore s.eng.late ((img.faults.map (fun (q : Nat × List FaultRec) => (p * 4 + q.1, q.2.drop 64))).filter
        (fun (q : Nat × List FaultRec) => decide (q.2 ≠ []))) }
    mod := { s.mod with net := { s.mod.net with
      packets := joinStore s.mod.net.packets img.packets
      flits := s.mod.net.flits ++ img.flits.map (fun (q : Nat × Flit) => { q.2 with at_ := q.1, age := 0, golden := false, again := true, part := p }) } } }
  s1.updPart p (fun x => { x with vslots := img.vslots, vbanks := img.vbanks, stop := .none })

/-- Escalated threads of a restored partition post their records again (R320). DEDUCED, log entry 59. -/
def State.repost (s : State) (p : Nat) : State :=
  (s.threads.filter (fun q => (s.part p).hasThread q.1 && q.2.waits.contains .parked)).foldl (fun s q =>
    match q.2.sys.pend with
    | some (c, v) => (s.unblock q.1 .parked).escalate q.1 c v q.2.pc q.2.left
    | none => s) s

def partxRestoreOp (d : Reg) (pv l : Word) : Op Unit := do
  let p ← partArg pv
  let id ← imageNodeOp l
  let s ← opGet
  let x := s.part p
  if x.valid then sysReply d (some (partxWord 5 0))
  else match s.findImage id with
    | none => sysReply d (some (partxWord 4 0))
    | some (img, foreign) =>
      if (s.partOfVf img.vf).isSome then sysReply d (some (partxWord 5 0))
      else if !shapeFits x img then sysReply d (some (partxWord 6 0))
      else if !s.mod.boot.locked then sysReply d (some (partxWord 7 0))
      else if s.time < img.time then opWait (.time img.time)
      else do
        opMod (fun s =>
          let img1 := if foreign then img.shift s.next else img
          let s1 := (s.bindMeter p img.vf).putImage p img1
          (if foreign then s1.joinForeign img1 else s1).repost p)
        sysReply d (some (partxWord 0 0))

def execPartxRestore (d a b : Reg) (s : State) : Host.Outcome State Fault Refusal :=
  runOp (partxRestoreOp d (s.reg a) (s.reg b)) s

/-! ## Cancelling what is saved (R299, R323, R336) -/

/-- A saved image as the only thing on a module, in partition 16, which no module has. -/
def State.imageModule (s : State) (img : Image) : State :=
  ({ s with
      threads := [], spad := [], spadPois := [], tags := [], launches := [], accs := [], treqs := [], wins := []
      sync := { s.sync with sems := [], waiters := [], sends := [], calls := [], ctxs := [] }
      eng := { s.eng with sweeps := [], jobs := [], bbank := [], bPois := [], acc := [], merges := [], faults := [], late := [] }
      mod := { s.mod with net := { s.mod.net with packets := [], flits := [], saved := [] } }
      parts := [(16, { Part.empty with valid := true, vf := img.vf, slots := img.slots, banks := img.banks })] }.putImage 16 img).updPart
    16 (fun x => { x with stop := .stopped img.cycle img.time })

/-- What such a module has changed goes back: the image, label memory and the tenures. -/
def State.imageBack (s : State) (k : Nat) (img : Image) (t : State) : State :=
  { s with
    maps := t.maps, dram := t.dram, dramPois := t.dramPois, tens := t.tens, pushes := t.pushes, splits := t.splits, next := t.next
    mod := { s.mod with link := t.mod.link, keys := { s.mod.keys with
      images := Store.put s.mod.keys.images k { t.imageOf 16 with flits := img.flits, size := img.size, cipher := img.cipher } } } }

/-- The saved launches of a queue are cancelled in their image: completion words are written there, and none of their tasks
issues after a restoration (R323). -/
def State.cancelSaved (s : State) (vf : Nat) (q : Option Nat) (code : Nat) : State × Nat :=
  (s.mod.keys.images.filter (fun x => decide (x.2.vf = vf))).foldl (fun (p : State × Nat) x =>
    let (t, n) := (p.1.imageModule x.2).cancelQueue vf q code
    if n = 0 ∧ t.launches.length = x.2.launches.length then p else (p.1.imageBack x.1 x.2 t, p.2 + n)) (s, 0)

/-- Cancels every launch dispatched from a queue, or from every queue of a virtual function, wherever it stands. -/
def State.cancelAll (s : State) (vf : Nat) (q : Option Nat) (code : Nat) : State × Nat :=
  let (s1, n) := s.cancelQueue vf q code
  let (s2, m) := s1.cancelSaved vf q code
  (s2, n + m)

def execQreset (d a : Reg) (s : State) : Host.Outcome State Fault Refusal :=
  runOp (qctlOp d (s.reg a) (fun vf q => do
    let s ← opGet
    let (s1, n) := s.cancelAll vf (some q) 3
    let x := s1.queue vf q
    opMod (fun _ => s1.setQueue vf q { x with head := x.tail, state := 0, err := 0 })
    sysReply d (some (qctlWord n 0)))) s

/-- RESTORE_STOP_TIME_PASSED: a RESTORE that waited for cr.time returns to the rotation and is issued again. -/
def execRestoreStopTimePassed (thread : Nat) (s : State) : Host.Outcome State Fault Refusal :=
  .next (match (s.thread thread).waits.find? (fun w => match w with
      | .time _ => true
      | _ => false) with
    | some (.time ns) => if ns ≤ s.time then s.unblock thread (.time ns) else s
    | _ => s)

end Sys2Proof.Machine
end

