-- ==== Sys2Proof/Machine/Services.lean ====
section
/-! DEFINITION. Root services and resets (R332 to R336, R352): PMOVE, DEMOTE, PROMOTE, RESETVF, and the events
PAGE_PLACEMENT_MOVE, FUNCTION_LEVEL_RESET and PF0_FLR. A service begins when the root takes its call record and ends with its
reply; each event is its next step. -/

namespace Sys2Proof.Machine

/-! ## Calls to the root (R292, R332) -/

/-- The call record of a caller with a code, at the root of its die. -/
def State.rootCall (s : State) (caller code : Nat) : Option CallRec :=
  ((Store.find s.sync.calls (12 + dieOf caller)).getD []).find? (fun c => decide (c.tid = caller)
    && decide ((c.callw.extractLsb' 44 4).toNat = 0) && decide ((c.callw.extractLsb' 48 16).toNat = code))

/-- The root takes a record from its queue. -/
def State.takeCall (s : State) (c : CallRec) : State :=
  { s with sync := { s.sync with calls := Store.upd s.sync.calls (12 + dieOf c.tid) (fun q => q.erase c) } }

def State.setService (s : State) (caller : Nat) (x : Option Service) : State :=
  { s with mod := { s.mod with service := match x with
      | some x => Store.put s.mod.service caller x
      | none => Store.del s.mod.service caller } }

/-- A call of a caller at the root's queue that asks for no service of Table 20.5. -/
def State.unlistedCall (s : State) (caller : Nat) : Option CallRec :=
  ((Store.find s.sync.calls (12 + dieOf caller)).getD []).find? (fun c => decide (c.tid = caller)
    && decide ((c.callw.extractLsb' 44 4).toNat = 0) && !(0x40 ≤ (c.callw.extractLsb' 48 16).toNat && (c.callw.extractLsb' 48 16).toNat ≤ 0x43))

/-- The root has no such service to perform for a caller: an unlisted code is answered with FAIL 1 (R332). -/
def State.noService (s : State) (caller : Nat) : State :=
  match Store.find s.mod.service caller, s.unlistedCall caller with
  | none, some c => (s.takeCall c).reply c true 0 0
  | _, _ => s

/-- A service ends: g1 ← status, g2 ← count (R332). -/
def State.endService (s : State) (x : Service) (status count : Nat) : State :=
  (s.setService x.call.tid none).reply x.call false (word status) (word count)

/-- The service at work for a caller, or the one that its record asks for now. -/
def State.serviceOf (s : State) (caller code : Nat) : Option (State × Service) :=
  match Store.find s.mod.service caller with
  | some x => if x.code = code then some (s, x) else none
  | none => match s.rootCall caller code with
    | some c => some (s.takeCall c,
        { call := c, code := code, args := c.args, next := 0, moved := 0, shoot := none })
    | none => none

def Service.arg (x : Service) (i : Nat) : Word := x.args.getD i 0

/-- The bound partition and the storage root that a service's first two arguments name; the label resolves in the
virtual function's map, counting the stubs passed. -/
def State.serviceNode (s : State) (x : Service) : State × Option (Nat × Nat) :=
  let vf := (x.arg 0).toNat
  match if vf < 256 then s.partOfVf vf else none with
  | none => (s, none)
  | some p =>
    let r := resolve s.maps vf (x.arg 1)
    let s1 := { s with maps := s.maps.countHits r.stubs }
    match r.result with
    | .ok (_, t) =>
      let id := storageRoot s.maps t.node
      (s1, if s.maps.isHost id then none else some (p, id))
    | .error _ => (s1, none)

/-- A page-table entry of a node. -/
def State.pageOf (s : State) (id page : Nat) : Option Page := (s.node id).bind (fun n => Store.find n.pages page)

def State.setPage (s : State) (id page : Nat) (p : Page) : State :=
  { s with maps := { s.maps with nodes := Store.upd s.maps.nodes id (fun n => { n with pages := Store.put n.pages page p }) } }

/-! ## Moving pages (R333) -/

/-- The frame of a page that has one. -/
def Page.frame : Page → Option Nat
  | .present f => some f
  | .poisoned _ f => some f
  | .demoted _ => none

/-- The entry with another FRAME; STATE and INTEG stay. -/
def Page.withFrame (p : Page) (f : Nat) : Page :=
  match p with
  | .present _ => .present f
  | .poisoned i _ => .poisoned i f
  | .demoted d => .demoted d

/-- A page holds an element of a tenured rectangle. -/
def State.pageTenured (s : State) (id page : Nat) : Bool :=
  s.tens.any (fun t => t.2.live && decide (t.2.root = id)
    && (s.rectBytes id t.2.rect).any (fun o => decide (o / 65536 = page)))

/-- A free frame on one channel of one die. -/
def Maps.frameOn (m : Maps) (die chan : Nat) : Option Nat :=
  ((List.range (m.frames.length + 1)).map (fun i => 96 * i + 24 * die + chan)).find?
    (fun f => !m.frames.contains f && decide (f < poolPages))

/-- Copies a frame with its poison, gives the page the new frame and starts the shoot-down of its node's translations; the
old frame stays in use until that has completed. -/
def State.movePage (s : State) (id page : Nat) (p : Page) (old new : Nat) : State × Nat :=
  let cells := s.dram.filter (fun c => decide (c.1 / 65536 = old))
  let clean := s.dram.filter (fun c => decide (c.1 / 65536 ≠ new))
  let s1 := { s with
    dram := cells.foldl (fun (m : Memory) (c : Nat × Byte) => m.write (new * 65536 + c.1 % 65536) c.2) clean
    dramPois := s.dramPois ++ (s.dramPois.filter (fun u => decide (u / 1024 = old))).map (fun u => new * 1024 + u % 1024)
    maps := { s.maps with frames := new :: s.maps.frames } }
  let map := match s.node id with
    | some n => n.vf
    | none => 0
  (s1.setPage id page (p.withFrame new)).startShoot map 0 0 true [] none

/-- A frame returns to the pool. -/
def State.freeFrameNow (s : State) (f : Nat) : State :=
  { s with maps := { s.maps with frames := s.maps.frames.filter (fun x => decide (x ≠ f)) }
           dramPois := s.dramPois.filter (fun u => decide (u / 1024 ≠ f)) }

/-- The fields of PMOVE's fourth argument, when its other bits are zero (Table 20.5). -/
def pmoveArg (v : Word) : Option (Nat × Nat × Nat) :=
  let count := (v.extractLsb' 32 32).toNat
  let die := (v.extractLsb' 8 2).toNat
  let chan := (v.extractLsb' 0 5).toNat
  if v &&& 0x00000000FFFFFCE0 = 0 ∧ 1 ≤ count ∧ count ≤ 65536 ∧ chan < 24 then some (count, die, chan) else none

/-- One step of a PMOVE: the next page, or the end. DEDUCED, log entry 45. -/
def State.pmoveStep (s : State) (x : Service) : State :=
  let s0 := match x.shoot with
    | some (_, old) => s.freeFrameNow old
    | none => s
  let (s1, tgt) := if x.next = 0 then s0.serviceNode x else
    (s0, match s0.partOfVf (x.arg 0).toNat with
      | some p => match (resolve s0.maps (x.arg 0).toNat (x.arg 1)).result with
        | .ok (_, t) => some (p, storageRoot s0.maps t.node)
        | .error _ => none
      | none => none)
  match tgt, pmoveArg (x.arg 3) with
  | some (p, id), some (count, die, chan) =>
    if ¬ (s1.part p).chans.getLsbD chan then s1.endService x 1 x.moved
    else if count ≤ x.next then s1.endService x 0 x.moved
    else
      let page := (x.arg 2).toNat + x.next
      let skip := s1.setService x.call.tid (some { x with next := x.next + 1, shoot := none })
      match s1.pageOf id page with
      | none => skip
      | some q => match q.frame with
        | none => s1.endService x 6 x.moved
        | some old =>
          if frameDie old ≠ die ∧ s1.pageTenured id page then skip
          else match s1.maps.frameOn die chan with
            | none => skip
            | some new =>
              let (s2, k) := s1.movePage id page q old new
              s2.setService x.call.tid (some { x with next := x.next + 1, moved := x.moved + 1, shoot := some (k, old) })
  | _, _ => s1.endService x 1 x.moved

/-- PMOVE: takes the call, then moves one page at a time, each after the last one's shoot-down. -/
def execPmove (caller : Nat) (s : State) : Host.Outcome State Fault Refusal :=
  .next (match s.serviceOf caller 0x40 with
    | some (s1, x) => match x.shoot with
      | some (k, _) => if (Store.find s.shoots k).isSome then s else s1.pmoveStep x
      | none => s1.pmoveStep x
    | none => s.noService caller)

/-- PAGE_PLACEMENT_MOVE: the placement logic moves a present page by the same steps, but none that holds an element of a
tenured rectangle (R74); the step that follows the shoot-down is the same event (R15). The move under way is kept as a
service of no caller, by node and page. DEDUCED, log entry 45. -/
def execPagePlacementMove (node page die chan : Nat) (s : State) : Host.Outcome State Fault Refusal :=
  .next (
    let key := 65536 + node * 2 ^ 25 + page
    match Store.find s.mod.service key with
    | some x => match x.shoot with
      | some (k, old) => if (Store.find s.shoots k).isSome then s else (s.freeFrameNow old).setService key none
      | none => s.setService key none
    | none => match s.node node, s.pageOf node page with
      | some n, some q => match q.frame, s.partOfVf n.vf with
        | some old, some p =>
          if 4 ≤ die ∨ 24 ≤ chan ∨ ¬ (s.part p).chans.getLsbD chan ∨ s.maps.isHost node
              ∨ s.pageTenured node page then s
          else match s.maps.frameOn die chan with
            | none => s
            | some new =>
              let (s1, k) := s.movePage node page q old new
              s1.setService key (some { call := { tid := 65536, callw := 0, args := [] }, code := 0x40, args := []
                                        next := 0, moved := 1, shoot := some (k, old) })
        | _, _ => s
      | _, _ => s)

/-! ## Pages that leave the package (R334, R335) -/

/-- Bytes that a sealed page takes in its holding node: ciphertext and tag. -/
def sealedLen : Nat := 65552

/-- The holding node of a fourth argument, resolved in the system map, when it is plain and long enough. -/
def State.holding (s : State) (l : Word) : State × Option Nat :=
  let r := resolve s.maps 256 l
  let s1 := { s with maps := s.maps.countHits r.stubs }
  match r.result with
  | .ok (_, t) => if t.child.isNone ∧ sealedLen ≤ s.plainExtent t.node then (s1, some t.node) else (s1, none)
  | .error _ => (s1, none)

/-- The physical address of a page's leaf entry, divided by 8 (R55, R307). -/
def leafPlace (id page : Nat) : Nat := Config.tableFrame id 2 (page / 256 * 256) % 2 ^ 32 * 8192 + page % 256

/-- The counter block of a 16-byte block of a page, from bit 26 down in `low` (R334). -/
def SealedPage.counter (x : SealedPage) (low : Nat) : BitVec 128 :=
  BitVec.ofNat 128 (x.vf * 2 ^ 120 + leafPlace (x.addr / 2 ^ 25) (x.addr % 2 ^ 25) * 2 ^ 75 + x.dseq * 2 ^ 27 + low)

/-- The ciphertext of a sealed page: AES-256 in counter mode (R334). -/
def SealedPage.ciphertext (x : SealedPage) : List Byte :=
  (List.range 4096).flatMap (fun j => (blockBytes (Config.aes x.vf (x.counter j))).zipIdx.map (fun b =>
    b.1 ^^^ (Store.find x.body (16 * j + b.2)).getD 0))

/-- What a sealed page leaves in its holding node: the ciphertext, then the tag over it, masked (R334). -/
def SealedPage.bytes (x : SealedPage) : List Byte :=
  let c := x.ciphertext
  c ++ blockBytes (Config.ghash x.vf c ^^^ Config.aes x.vf (x.counter (2 ^ 26)))

/-- A node holds the bytes of a sealed page from byte 0 (DESIGN CHOICE, log entry 42). -/
def State.holdsPage (s : State) (id : Nat) (x : SealedPage) : Bool :=
  x.bytes.zipIdx.all (fun b => decide (s.homeByte id b.2 = b.1))

/-- An access under way touches a page: its transfer and the access do not overlap (R335). -/
def State.pageBusy (s : State) (id page : Nat) : Bool :=
  s.accs.any (fun a => (decide (a.2.state = .held) || decide (a.2.state = .sent) || decide (a.2.state = .accepted))
    && (s.placeBytes a.2.place a.2.n).any (fun b => decide (b.1 = id) && decide (b.2 / 65536 = page)))

/-- A present page is sealed into a holding node whose pages are present. DEDUCED, log entry 31. -/
def State.demotePage (s : State) (vf id page hold frame d : Nat) : State :=
  let cells := s.dram.filter (fun c => decide (c.1 / 65536 = frame))
  let x : SealedPage := { vf := vf, dseq := d, addr := entryAddr id page, body := cells.map (fun c => (c.1 % 65536, c.2))
                          pois := (s.dramPois.filter (fun u => decide (u / 1024 = frame))).map (fun u => u % 1024) }
  let s1 := s.putHomeBytes hold 0 x.bytes
  let s2 : State := { s1 with next := s1.next + 1, mod := { s1.mod with keys := { s1.mod.keys with
    dseq := Store.put s1.mod.keys.dseq vf (d + 1), pages := Store.put s1.mod.keys.pages s1.next x } } }
  ((s2.setPage id page (.demoted d)).freeFrameNow frame).addPages vf (-1)

/-- DEMOTE (R334): it waits for the accesses under way to its page. DEDUCED, log entry 46. -/
def execDemote (caller : Nat) (s : State) : Host.Outcome State Fault Refusal :=
  .next (match s.serviceOf caller 0x41 with
    | none => s.noService caller
    | some (s0, x) =>
      let vf := (x.arg 0).toNat
      let page := (x.arg 2).toNat
      let (s1, tgt) := s0.serviceNode x
      let (s2, hold) := s1.holding (x.arg 3)
      match tgt, hold with
      | some (_, id), some h =>
        let enc : Bool := match s2.node id with
          | some n => n.enc
          | none => false
        if ¬ enc then s2.endService x 2 0
        else
          let d := (Store.find s2.mod.keys.dseq vf).getD 1
          if 2 ^ 48 - 1 ≤ d then s2.endService x 5 0
          else match s2.pageOf id page with
            | some (.present f) => if s2.pageBusy id page then s else match s2.pageChecks 256 0 (firstPages h sealedLen) with
              | (s3, none) => (s3.demotePage vf id page h f d).endService x 0 0
              | (s3, some _) => s3.endService x 1 0
            | _ => s2.endService x 6 0
      | _, _ => s2.endService x 1 0)

/-- The sealing that a holding node holds for an entry with a DSEQ: its tag check passes for no other. -/
def State.findSealed (s : State) (vf hold addr d : Nat) : Option (Nat × SealedPage) :=
  if (Store.find s.mod.keys.dseq vf).isNone then none
  else s.mod.keys.pages.find? (fun q => decide (q.2.vf = vf) && decide (q.2.addr = addr) && decide (q.2.dseq = d)
    && s.holdsPage hold q.2)

/-- A promoted page of a parameter set is rolled back, where an abort has met it demoted (R275). DEDUCED, log entry 48. -/
def State.undoDue (s : State) (id page : Nat) : State :=
  match s.node id with
  | some n => if n.kind = 4 ∧ (s.forum id).undo.contains page then s.undoPage id n page else s
  | none => s

/-- PROMOTE (R335): a page is allocated under the quota, then holds the demoted bytes, or zero with STATE 3 and INTEG 1.
DEDUCED, log entry 46. -/
def execPromote (caller : Nat) (s : State) : Host.Outcome State Fault Refusal :=
  .next (match s.serviceOf caller 0x42 with
    | none => s.noService caller
    | some (s0, x) =>
      let vf := (x.arg 0).toNat
      let page := (x.arg 2).toNat
      let (s1, tgt) := s0.serviceNode x
      let (s2, hold) := s1.holding (x.arg 3)
      match tgt, hold with
      | some (_, id), some h => match s2.pageOf id page with
        | some (.demoted d) => match s2.allocPage vf id page 0 with
          | (s3, some _) => s3.endService x 3 0
          | (s3, none) => match (s3.pageOf id page).bind Page.frame with
            | none => s3.endService x 3 0
            | some f => match s2.findSealed vf h (entryAddr id page) d with
              | some (k, y) =>
                let s4 := { s3 with
                  dram := y.body.foldl (fun (m : Memory) (c : Nat × Byte) => m.write (f * 65536 + c.1) c.2) s3.dram
                  dramPois := s3.dramPois ++ y.pois.map (fun u => f * 1024 + u)
                  mod := { s3.mod with keys := { s3.mod.keys with pages := Store.del s3.mod.keys.pages k } } }
                (s4.undoDue id page).endService x 0 0
              | none => (s3.setPage id page (.poisoned true f)).endService x 0x12 0
        | _ => s2.endService x 6 0
      | _, _ => s2.endService x 1 0)

/-! ## Resetting a virtual function (R278, R336, R352) -/

/-- Every tenure of a virtual function ends without writing back; what a release still owes is dropped. -/
def State.dropTenures (s : State) (vf : Nat) : State :=
  let mine (root : Nat) : Bool := match s.node root with
    | some n => decide (n.vf = vf)
    | none => false
  { s with tens := s.tens.filter (fun t => !mine t.2.root)
           treqs := s.treqs.filter (fun t => !mine t.2.root)
           pushes := s.pushes.filter (fun p => !mine p.2.1) }

/-- Its parameter sets roll back and lose their pairings. -/
def State.rollBack (s : State) (vf : Nat) : State :=
  ((s.maps.nodes.filter (fun n => decide (n.2.vf = vf) && decide (n.2.kind = 4))).map (·.1)).foldl (fun s id => s.loseMirror id) s

/-- The labels of the collectives that a virtual function takes part in, in its partition and in saved images (R336, R344). -/
def State.collectives (s : State) (vf : Nat) : List Word :=
  let live := s.eng.jobs.filter (fun j => decide (s.mapOf j.2.tid = vf))
  let saved := (s.mod.keys.images.filter (fun x => decide (x.2.vf = vf))).flatMap (fun x => x.2.jobs)
  (((live ++ saved).filter (fun j => j.2.contribution.isSome)).map (fun j => j.2.labelOf)).eraseDups

/-- The modules that may take part in a collective with this one: its label's home and every module that the fabric has
reached. -/
def State.peersOf (s : State) (vf : Nat) (l : Word) : List Nat :=
  ((s.homeOf vf l :: Store.keys s.mod.link.incs).filter (fun h => decide (h ≠ 0) && decide (h ≠ s.self))).eraseDups

/-- An abort token goes to every peer of the collectives that a reset withdraws from (R336). DEDUCED, log entry 43. -/
def State.sendAborts (s : State) (vf : Nat) (ls : List Word) : State :=
  ls.foldl (fun s l => (s.peersOf vf l).foldl (fun s h => s.sendLink h vf (.abort l)) s) s

/-- What a virtual function does once its reset point has passed; gives the number of tasks cancelled.
DEDUCED, log entry 47. -/
def State.resetVf (s : State) (vf : Nat) : State × Nat :=
  let saved := (s.mod.keys.images.filter (fun x => decide (x.2.vf = vf))).flatMap (fun x => Store.keys x.2.launches)
  let lids := Store.keys (s.launches.filter (fun l => decide (l.2.vf = vf))) ++ saved
  let s0 := lids.foldl (fun s k => s.tellEnded k vf true) (s.dropTenures vf)
  let (s1, n) := s0.cancelAll vf none 2
  let s2 := s1.rollBack vf
  let l := s2.mod.link
  let s3 : State := { s2 with
    eng := { s2.eng with posted := s2.eng.posted.filter (fun (q : Nat × Nat × Nat) => decide (q.1 / 2 ^ 64 ≠ vf)) }
    mod := { s2.mod with
      host := { s2.mod.host with queues := s2.mod.host.queues.map (fun (q : Nat × Queue) =>
        if q.1 / 4096 = vf then (q.1, { q.2 with head := q.2.tail, state := 0, err := 0, drain := none }) else q) }
      link := { l with own := Store.put l.own vf ((Store.find l.own vf).getD 0 + 1) }
      keys := { s2.mod.keys with images := s2.mod.keys.images.filter (fun (q : Nat × Image) => decide (q.2.vf ≠ vf)) } } }
  let s4 := s3.sendAborts vf (s.collectives vf)
  match s4.partOfVf vf with
  | some p => ((s4.takeOff p).unbind p, n)
  | none => (s4, n)

/-- Arms the stop of a reset, or says that its reset point has passed and nothing runs on; a PARTX SAVE at work on the
partition goes first (R336). -/
def State.resetDue (s : State) (vf : Nat) : State × Bool :=
  match s.partOfVf vf with
  | none => (s, true)
  | some p => if s.threads.any (fun t => t.2.waits.contains (.stop p)) then (s, false) else match (s.part p).stop with
    | .none => (s.updPart p (fun x => { x with stop := .armed (s.cycle + 4096) }), false)
    | .armed _ | .flushing _ _ _ _ => (s, false)
    | .stopped _ _ => (s, true)

/-- RESETVF: the call arms the stop; the reset follows it. -/
def execResetvf (caller : Nat) (s : State) : Host.Outcome State Fault Refusal :=
  .next (match s.serviceOf caller 0x43 with
    | none => s.noService caller
    | some (s0, x) =>
      let vf := (x.arg 0).toNat
      if 256 ≤ vf then s0.endService x 1 0
      else match s0.resetDue vf with
        | (s1, true) => let (s2, n) := s1.resetVf vf; s2.endService x 0 n
        | (s1, false) => s1.setService caller (some x))

/-- The virtual function's queue blocks read zero, its MSI-X table and pending bits are at their reset values. -/
def State.clearHost (s : State) (vf : Nat) : State :=
  let h := s.mod.host
  { s with mod := { s.mod with host := { h with
    queues := h.queues.filter (fun q => decide (q.1 / 4096 ≠ vf)), turn := h.turn.filter (fun q => decide (q.1 / 4 ≠ vf))
    entries := h.entries.filter (fun x => decide (x.1 / 64 ≠ vf)), masked := h.masked.filter (fun k => decide (k ≠ vf))
    unmasked := h.unmasked.filter (fun k => decide (k / 64 ≠ vf)), pending := h.pending.filter (fun k => decide (k / 64 ≠ vf)) } } }

/-- A step of a reset that no caller waits for: it is under way until its reset point has passed.
DEDUCED, log entry 47. -/
def State.resetStep (s : State) (vf : Nat) (flr : Bool) : State :=
  match s.resetDue vf with
  | (s1, true) =>
    let s2 := (s1.resetVf vf).1
    let s3 := if flr then s2.clearHost vf else s2
    { s3 with mod := { s3.mod with resets := Store.del s3.mod.resets vf } }
  | (s1, false) => { s1 with mod := { s1.mod with resets := Store.put s1.mod.resets vf flr } }

/-- FUNCTION_LEVEL_RESET: as RESETVF, and the host port's state of the function is cleared. -/
def execFunctionLevelReset (vf : Nat) (s : State) : Host.Outcome State Fault Refusal :=
  .next (if 256 ≤ vf then s else s.resetStep vf true)

/-- PF0_FLR: physical function 0 holds no state of this model's (DEDUCED, log entry 11); no tenant is affected. -/
def execPf0Flr (s : State) : Host.Outcome State Fault Refusal := .next s

end Sys2Proof.Machine
end

