-- ==== Sys2Proof/Machine/Network.lean ====
section
/-! DEFINITION. The Ring Road and the scale-up links (R277, R337 to R343): FLIT_HOP, GOLDEN_TOKEN_STEP, PACKET_REASSEMBLY,
LANE_FAULT, RETRAIN_ATTEMPT, LINK_TRAINING, SCALEUP_PACKET_RECEIVE, MODULE_LOST and COLLECTIVE_ABORT. -/

namespace Sys2Proof.Machine

/-! ## Routing (R338) -/

/-- The neighbour of a router through a port: 0 east, 1 west, 2 south, 3 north. -/
def routerStep (r port : Nat) : Nat :=
  let row := tileRow r
  let col := tileCol r
  match port with
  | 0 => row * 32 + (col + 1) % 32
  | 1 => row * 32 + (col + 31) % 32
  | 2 => (row + 1) % 32 * 32 + col
  | _ => (row + 31) % 32 * 32 + col

/-- The ports that bring a flit nearer to its destination, columns first. DEDUCED, log entry 51. -/
def goodPorts (f : Flit) : List Nat :=
  let dc := (tileCol f.dst + 32 - tileCol f.at_) % 32
  let dr := (tileRow f.dst + 32 - tileRow f.at_) % 32
  (if dc = 0 then [] else if dc ≤ 16 then [0] else [1]) ++ (if dr = 0 then [] else if dr ≤ 16 then [2] else [3])

/-- A flit goes before another: golden, then older, then of lower packet identity (R338); of those to be injected, one that a
stop has absorbed is first (R320). -/
def Flit.before (a b : Flit) : Bool :=
  if a.golden ≠ b.golden then a.golden
  else if a.age ≠ b.age then decide (b.age < a.age)
  else if a.age = 0 ∧ a.again ≠ b.again then a.again
  else if a.src ≠ b.src then decide (a.src < b.src)
  else if a.packet ≠ b.packet then decide (a.packet < b.packet)
  else decide (a.seq ≤ b.seq)

def Flit.insert (f : Flit) : List Flit → List Flit
  | [] => [f]
  | g :: l => if f.before g then f :: g :: l else g :: f.insert l

/-- Flits in the order in which they take outputs. -/
def sortFlits (l : List Flit) : List Flit := l.foldr Flit.insert []

/-- The free output of its router that a flit takes: a minimal one if it can, else the first free one. -/
def Flit.port (f : Flit) (used : List (Nat × Nat)) : Option Nat :=
  (goodPorts f ++ [0, 1, 2, 3]).find? (fun p => !used.contains (f.at_, p))

/-- Moves flits in order; one that is still to be injected waits for a free output (R338). -/
def hopAll : List Flit → List (Nat × Nat) → List Flit
  | [], _ => []
  | f :: l, used => match f.port used with
    | some p => { f with at_ := routerStep f.at_ p, age := Nat.min 255 (f.age + 1) } :: hopAll l ((f.at_, p) :: used)
    | none => f :: hopAll l used

/-- A flit reaches its destination: it is held there for reassembly (R337). -/
def Packet.take (p : Packet) (seq : Nat) : Packet := if p.got.contains seq then p else { p with got := seq :: p.got }

/-- A router has been visited by the flush token of a partition, whose stop goes on (R316). -/
def State.visited (s : State) (p router : Nat) : Bool :=
  match (s.part p).stop with
  | .flushing _ _ r _ => decide (1024 ≤ r) || decide (serpentineAt router < r)
  | .none | .armed _ | .stopped _ _ => false

/-- A flit after its hop: absorbed at a router that the flush token has visited, while its save buffer has room; held at its
destination; or on its way (R316, R337). -/
def State.landFlit (s : State) (f : Flit) : State :=
  let n := s.mod.net
  let buf := (Store.find n.saved f.at_).getD []
  if s.visited f.part f.at_ ∧ buf.length < 32 then
    { s with mod := { s.mod with net := { n with saved := Store.put n.saved f.at_ (buf ++ [f]) } } }.updPart f.part (fun x =>
      { x with stop := match x.stop with
        | .flushing c t r _ => .flushing c t r true
        | st => st })
  else if f.at_ = f.dst then
    { s with mod := { s.mod with net := { n with packets := Store.upd n.packets f.packet (·.take f.seq) } } }
  else { s with mod := { s.mod with net := { n with flits := n.flits ++ [f] } } }

/-- A hop of a flit is charged to its partition's virtual function (R329). -/
def State.chargeHop (s : State) (f g : Flit) : State :=
  if f.part < 16 ∧ f.at_ ≠ g.at_ then s.charge (s.part f.part).vf 15000 else s

/-- A new flit of a partition is not injected while one that its stop absorbed still waits for that (R320). -/
def NetState.waitsFor (n : NetState) (f : Flit) : Bool :=
  decide (f.age = 0) && !f.again && n.flits.any (fun g => g.again && decide (g.age = 0) && decide (g.part = f.part))

/-- FLIT_HOP: one Ring Road cycle, two core cycles (R16). DEDUCED, log entry 51. -/
def execFlitHop (s : State) : Host.Outcome State Fault Refusal :=
  .next (
    let n := s.mod.net
    if n.hopAt = s.cycle / 2 + 1 ∨ n.flits = [] then s
    else
      let order := sortFlits (n.flits.filter (fun f => !n.waitsFor f))
      let moved := hopAll order []
      let s1 : State := { s with mod := { s.mod with net := { n with
        hopAt := s.cycle / 2 + 1, flits := n.flits.filter n.waitsFor } } }
      moved.foldl State.landFlit ((List.zip order moved).foldl (fun s p => s.chargeHop p.1 p.2) s1))

/-- GOLDEN_TOKEN_STEP: the token waits for its golden flit, or makes one at its router, or moves to the next router. -/
def execGoldenTokenStep (s : State) : Host.Outcome State Fault Refusal :=
  .next (
    let n := s.mod.net
    if n.tokAt = s.cycle / 2 + 1 then s
    else
      let n0 := { n with tokAt := s.cycle / 2 + 1 }
      let n1 := match n.golden with
        | some g =>
          if n.flits.any (fun f => decide (f.packet = g.1) && decide (f.seq = g.2)) then n0 else { n0 with golden := none }
        | none => match sortFlits (n.flits.filter (fun f => decide (f.at_ = serpentine n.token) && decide (f.age = 255))) with
          | f :: _ => { n0 with
              golden := some (f.packet, f.seq)
              flits := n.flits.map (fun (x : Flit) => if x = f then { x with golden := true } else x) }
          | [] => { n0 with token := (n.token + 1) % 1024 }
      { s with mod := { s.mod with net := n1 } })

/-- PACKET_REASSEMBLY: the last flit of a packet has arrived; it is delivered once. -/
def execPacketReassembly (packet : Nat) (s : State) : Host.Outcome State Fault Refusal :=
  .next (match Store.find s.mod.net.packets packet with
    | some p =>
      if p.got.length < p.total then s
      else { s with mod := { s.mod with net := { s.mod.net with packets := Store.del s.mod.net.packets packet } } }
    | none => s)

/-! ## Ports (R340, R342) -/

def State.port (s : State) (p : Nat) : Port := (Store.find s.mod.link.ports p).getD Port.fresh

def State.setPort (s : State) (p : Nat) (x : Port) : State :=
  { s with mod := { s.mod with link := { s.mod.link with ports := Store.put s.mod.link.ports p x } } }

/-- LANE_FAULT: one row down Table 21.1. -/
def execLaneFault (port : Nat) (s : State) : Host.Outcome State Fault Refusal :=
  .next (
    let x := s.port port
    if 16 ≤ port ∨ 4 ≤ x.state then s
    else s.setPort port { x with state := x.state + 1, tried := if x.state = 0 then s.time else x.tried })

/-- RETRAIN_ATTEMPT: a degraded port that has not tried for 100 ms; it steps up one row or more where the retrain
succeeds. DESIGN CHOICE, log entry 52. -/
def execRetrainAttempt (port : Nat) (good : Bool) (s : State) : Host.Outcome State Fault Refusal :=
  .next (
    let x := s.port port
    if 16 ≤ port ∨ x.state = 0 ∨ s.time < x.tried + 100000000 then s
    else s.setPort port { x with state := if good then x.state - 1 - Config.retrainRows port s.time else x.state, tried := s.time })

/-! ## Loss of a module (R277, R343) -/

/-- The parameter sets whose partner is a module. -/
def State.pairedWith (s : State) (peer : Nat) : List Nat :=
  (s.maps.nodes.filter (fun n => decide (n.2.kind = 4) && decide (n.2.mirror ≠ 0) && decide (s.homeOf n.2.vf n.2.mirror = peer))).map (·.1)

/-- The operations forwarded to a module whose answers are outstanding. -/
def State.awaited (s : State) (peer : Nat) : Store MirrorOut :=
  s.mod.link.awaits.filter (fun w => decide (w.2.peer = peer))

/-- An access that waits for a lost module: it fails, but for a query that never traps (R343). -/
def Access.lose (peer : Nat) (a : Access) : Access :=
  match a.place, a.state with
  | .remote h l _, .held | .remote h l _, .sent => if h = peer then { a with state := a.op.lost l } else a
  | _, _ => a

/-- The jobs whose sector stands at a lost module fault there with 0x06 (R232, R343). -/
def State.loseSectors (s : State) (peer : Nat) : State :=
  s.eng.jobs.foldl (fun s x =>
    if x.2.away ∧ x.2.state = .started ∧ s.jobHome x.2 = some peer then s.parkJob x.1 x.2 0x06 x.2.labelOf else s) s

/-- A gradient block in flight at the loss is judged again after the roll-back (R277). DEDUCED, log entry 53. -/
def State.loseJob (s : State) (peer : Nat) (j : Job) : Job :=
  let gone := j.mirr.filter (fun k => (Store.find (s.awaited peer) k).isSome)
  match j.op with
  | .copy 8 _ _ _ => if gone = [] then j else { j with pos := 0, sect := 0, mirr := [] }
  | _ => j

/-- What another module answers to a core's hardware: a line joins the instruction cache or the fetch traps, a context
has been spilled or is refused, a spilled context joins its core's arrival queue (R26, R39, R40). A fetch beyond the
code node traps with its own offset (R110). -/
def State.hwAnswer (s : State) (a : HwAsk) (r : HwAns) : State :=
  match a.op, r with
  | .line off, .line ext ws =>
    s.putLine a.tid a.label off ws 0 (some ext)
  | .line off, .failed c v =>
    if s.wantsLine a.tid = some off ∧ (s.thread a.tid).code = a.label then
      s.fetchTrap a.tid c (if c = 0x08 then word off else v) else s
  | .spill _, .spilled => { s with sync := { s.sync with ctxs := Store.upd s.sync.ctxs a.id (fun x => (x.1, .accepted)) } }
  | .spill c, .failed e v =>
    let j (l : Launch) : Nat := l.coreIndex (c.core / 3) (c.core % 3)
    { s.updLaunch c.launch (fun l => l.setSpilled (j l) (l.spilledFor (j l) - 1)) with
      sync := { s.sync with ctxs := Store.upd s.sync.ctxs a.id (fun x => (x.1, .refused e v)) } }
  | .refill core, .context (some cells) => s.queueSpilled a.id a.tid core cells
  | .discard _ code, .context (some cells) =>
    let task := (cells.getD 1 (0, false)).1
    if task = 0 then s else match s.localAddr a.tid task with
      | .ok k => (s.writeStatus k 0 code).chargeSpad a.tid [k]
      | .error _ => s
  | _, _ => s

/-- What a core's hardware has asked a lost module for fails (R343). -/
def State.loseAsks (s : State) (peer : Nat) : State :=
  (s.mod.link.asks.filter (fun a => decide (a.2.peer = peer))).foldl (fun s a => s.hwAnswer a.2 (.failed 0x06 a.2.label))
    { s with mod := { s.mod with link := { s.mod.link with asks := s.mod.link.asks.filter (fun a => decide (a.2.peer ≠ peer)) } } }

/-- A module becomes lost: what waits for it ends, its mirror partners here go on alone (R277, R343).
DEDUCED, log entry 53. -/
def State.loseModule (s : State) (peer : Nat) : State :=
  let sets := s.pairedWith peer
  let l := s.mod.link
  let s1 : State := { s with
    accs := s.accs.map (fun (a : Nat × Access) => (a.1, a.2.lose peer))
    eng := { s.eng with jobs := s.eng.jobs.map (fun (j : Nat × Job) => (j.1, s.loseJob peer j.2)) }
    mod := { s.mod with link := { l with
      lost := if l.lost.contains peer then l.lost else peer :: l.lost } } }
  sets.foldl (fun s id => s.loseMirror id) (((s1.loseSectors peer).loseAsks peer).endAwaits (fun w => decide (w.peer = peer)))

/-- MODULE_LOST. -/
def execModuleLost (peer : BitVec 16) (s : State) : Host.Outcome State Fault Refusal :=
  .next (if peer = 0 ∨ peer.toNat = s.self then s else s.loseModule peer.toNat)

/-- LINK_TRAINING: the handshake learns the peer's incarnation; a changed one is a loss, and then the module is reached
again, its reset numbers unknown. -/
def execLinkTraining (port : Nat) (peer incarnation : BitVec 16) (s : State) : Host.Outcome State Fault Refusal :=
  .next (
    if 16 ≤ port ∨ peer = 0 ∨ incarnation = 0 ∨ 4 ≤ (s.port port).state then s
    else
      let m := peer.toNat
      let changed := match Store.find s.mod.link.incs m with
        | some i => decide (i ≠ incarnation.toNat)
        | none => false
      let s1 := if changed then s.loseModule m else s
      let l := s1.mod.link
      let l1 := { l with incs := Store.put l.incs m incarnation.toNat, lost := l.lost.filter (fun x => decide (x ≠ m))
                         resets := if changed then l.resets.filter (fun (x : Nat × Nat) => decide (x.1 / 256 ≠ m)) else l.resets }
      let s2 : State := { s1 with mod := { s1.mod with link := l1 } }
      s2.setPort port { s2.port port with peer := peer })

/-! ## Packets from other modules (R339, R342) -/

/-- A reply that brings a value to an access sent to a module. -/
def State.remoteReply (s : State) (src req : Nat) (st : AccState) : State :=
  match s.acc req with
  | some a => match a.place, a.state with
    | .remote h _ _, .sent => if h = src then (s.chargeFar a.tid).setAccState req st else s
    | _, _ => s
  | none => s

/-- The answer for the next sector of a job whose label another module homes: codes with their poison, and flags
(R97, R222, R243). -/
def State.remoteSector (s : State) (id : Nat) (j0 : Job) (data : List (Nat × Bool)) (fl : Nat) : State :=
  let j := { j0 with flags := j0.flags ||| fl }
  let done (k : Nat) : State := s.setJob id { j with pos := j.pos + k, sect := j.sect + 1 }
  match j.op with
  | .copy kind src dst r =>
    let n := r.farLen kind j.pos
    let cells (c : Nat × Bool) : List (Byte × Bool) := (leBytes r.width c.1).map (fun b => (b, c.2))
    let finish (e : SectorEnd) (pos : Nat) : State := match e with
      | .done s1 j1 => s1.setJob id { j1 with pos := pos, sect := j.sect + 1 }
      | .fault s1 c v => s1.parkJob id j c v
      | .hold => s
    if kind = 8 then done (j.total - j.pos)
    else if kind = 4 ∨ kind = 5 ∨ kind = 6 then (done n).chargeUnits j kind src r ((List.range n).map (j.pos + ·))
    else if kind = 3 then
      match s.gatherPut j dst 0 ((leBytes 8 data.length).map (fun b => (b, false)) ++ data.flatMap cells) with
      | .ok s1 => finish (.done s1 j) j.total
      | .error (c, v) => finish (.fault s c v) 0
    else if kind = 9 then finish (s.getUnits j 9 dst r 0 (data.map cells)) j.total
    else finish (s.getUnits j kind dst r j.pos ((List.range n).map (fun i =>
      cells (if r.clipped (j.pos + i) then (0, false) else data.getD i (0, false))))) (j.pos + n)
  | .handed _ doff gstr ty cols _ ds => done (sectorLen (handOff doff gstr (unitBytes ty) cols) (fun _ => false) ds.length j.pos)
  | _ => s

/-! ### What another module asks for here (R339) -/

/-- The number here of another module's launch, and of one of its jobs. -/
def farLaunch (src l : Nat) : Nat := 2 ^ 64 + l * 65536 + src

/-- The holder that an agent of another module is here. -/
def farHolder (src : Nat) (a : Agent) : Holder :=
  { fused := a.fused, unit := 4096 * src + (if a.fused then tileOf a.tid else coreOf a.tid), launch := farLaunch src a.launch }

/-- The thread number of an operation that a packet asks for. -/
def guestTid (packet : Nat) : Nat := guestFrom + 16 * packet

/-- An operation of another module takes its thread number here, with its operands in registers 2 and 3. -/
def State.lodge (s : State) (tid : Nat) (g : Guest) (level : Nat) : State :=
  let regs := ((Vector.replicate 32 (0 : Word)).set 2 (g.f.args.getD 0 0)).set 3 (g.f.args.getD 1 0)
  { s with threads := Store.put s.threads tid { Thread.idle with level := BitVec.ofNat 2 level, g := regs }
           mod := { s.mod with link := { s.mod.link with guests := Store.put s.mod.link.guests tid g } } }

/-- It leaves, with whatever of it still waits. -/
def State.dismiss (s : State) (tid : Nat) : State :=
  { s with threads := Store.del s.threads tid
           accs := s.accs.filter (fun a => decide (a.2.tid ≠ tid)), treqs := s.treqs.filter (fun q => decide (q.2.tid ≠ tid))
           mod := { s.mod with link := { s.mod.link with guests := Store.del s.mod.link.guests tid } } }

/-- The instructions that are performed where their label is homed: result in register 1, operands in 2 and 3. -/
def farRun (i : Instr) (s : State) : Host.Outcome State Fault Refusal :=
  match i with
  | .lcan _ _ => execLcan 1 2 s
  | .lstat _ _ => execLstat 1 2 s
  | .lmap _ _ _ => execLmap 1 2 3 s
  | .lins _ _ _ => execLins 1 2 3 s
  | .lmov _ _ _ t => execLmov 1 2 3 t s
  | .lreb _ _ _ t => execLreb 1 2 3 t s
  | .lfre _ _ => execLfre 1 2 s
  | .lunf _ _ _ => execLunf 1 2 3 s
  | .tacq _ _ p w nw => execTacq 1 2 p w nw s
  | .trel _ _ p => execTrel 1 2 p s
  | .tfls _ _ p => execTfls 1 2 p s
  | .tspl _ _ => execTspl 1 2 s
  | .tdsc _ _ p => execTdsc 1 2 p s
  | .tqry _ _ => execTqry 1 2 s
  | .pclose _ _ _ => execPclose 1 2 3 s
  | .pqry _ _ => execPqry 1 2 s
  | _ => .next s

/-- Issues an operation of another module; the bundle in issue here is none of its concern. -/
def State.runGuest (s : State) (tid : Nat) (i : Instr) : State :=
  match farRun i { s with cur := tid, iss := { who := none, snap := none, moved := false, trapped := false, stalled := false } } with
  | .next t => { t with cur := s.cur, iss := s.iss }
  | .fault _ | .refused _ => s

/-- A packet stays at its port. -/
def State.keepPacket (s : State) (packet : Nat) (p : LinkPacket) : State :=
  { s with mod := { s.mod with link := { s.mod.link with inbox := Store.put s.mod.link.inbox packet p } } }

/-- An operation of another module: it is issued, may wait here, and its result or its trap goes back (R339). -/
def State.serveCall (s : State) (packet : Nat) (p : LinkPacket) (req : Nat) (who : Agent) (f : FarCall) : Option State :=
  let src := p.src.toNat
  let tid := guestTid packet
  let t := s.thread tid
  match s.guest tid with
  | none =>
    let g : Guest := { src := src, req := req, vf := p.vf, holder := farHolder src who, core := who.core, f := f }
    some (((s.lodge tid g who.level).runGuest tid f.op).keepPacket packet p)
  | some _ => match t.sys.pend with
    | some (c, v) => some ((s.dismiss tid).sendLink src p.vf (.failed req c v))
    | none =>
      if t.waits = [] then some ((s.dismiss tid).sendLink src p.vf (.value req (some t.g[1]) 0))
      else if t.waits.contains .order then some (((s.unblock tid .order).runGuest tid f.op).keepPacket packet p)
      else none

/-- An access of another module's thread, performed here as a local access is (R59, R84, R145, R339); with the storage bytes
that it names. -/
def State.foreignAccess (s : State) (src vf : Nat) (who : Agent) (l off : Word) (n : Nat) (op : AccOp) :
    Perform × List (Nat × Nat) :=
  match s.translateIn vf none none who.level (if op.writes then .store else .load) l off n with
  | (_, .error (c, v)) => (.trap c v, [])
  | (s1, .ok t) => let at_ := s1.bytesOf t off.toNat n; (s1.atHome (farHolder src who) at_ l off n op, at_)

/-- Sends an answer, after that of a mirror partner where one is awaited (R277). -/
def State.answerTo (s : State) (src vf : Nat) (mirr : List Nat) (b : LinkBody) : State :=
  match mirr with
  | k :: _ => { s with mod := { s.mod with link := { s.mod.link with
      awaits := Store.upd s.mod.link.awaits k (fun w => { w with back := some (src, vf, b) }) } } }
  | [] => s.sendLink src vf b

/-- An engine's sector of another module is answered. -/
inductive AskEnd where
  | answer (s : State) (mirr : List Nat) (data : List (Nat × Bool)) (flags : Nat)
  | fault (s : State) (cause : Nat) (v : Word)
  /-- it has changed something and waits -/
  | wait (s : State)
  | hold

/-- The codes of some units with their poison. -/
def cellCodes (l : List (List (Byte × Bool))) : List (Nat × Bool) := l.map (fun c => (leNat (c.map (·.1)), c.any (·.2)))

/-- What a put or a hand-off of another module has written; the cursor of a merge moves on after the last element. -/
def State.askWritten (merge : Option Nat) : SectorEnd → AskEnd
  | .done s j =>
    let s1 := match merge with
      | some k => if j.total ≤ j.pos then
          { s with eng := { s.eng with merges := Store.upd s.eng.merges k (fun m => { m with cursor := m.cursor + 1 }) } } else s
      | none => s
    .answer s1 j.mirr [] j.flags
  | .fault s c v => .fault s c v
  | .hold => .hold

/-- A contribution of another module's launch merges in its turn at this home (R227, R344). -/
def State.askMerge (s : State) (key : Nat) (j : Job) (ty count off : Nat) (sector : State → SectorEnd) : AskEnd :=
  match s.judgeMerge key j ty count off with
  | .fault c v => .fault s c v
  | .hold => .hold
  | .arrive s1 => .wait s1
  | .turn s1 k => State.askWritten (some k) (sector s1)

/-- The words that a gather of another module reads, node by node. -/
def State.gatherAll (s : State) (j : Job) (r : CopyRec) (l : Word) :
    List (Nat × Option Nat) → List (List (Byte × Bool)) → SectorData
  | [], out => .data s out
  | (id, child) :: ns, out => match s.gatherRead j r l id child with
    | .data s1 d => s1.gatherAll j r l ns (out ++ d)
    | e => e

/-- The label side of a sector that an engine of another module asks for (R222 to R228). -/
def State.serveAsk (s : State) (key : Nat) (j : Job) (data : List (Nat × Bool)) : AskEnd :=
  match j.op with
  | .copy kind src _ r =>
    let us := (List.range (r.farLen kind j.pos)).map (j.pos + ·)
    let loc (u : Nat) : List (Byte × Bool) :=
      let c := data.getD (u - j.pos) (0, false)
      (leBytes r.width c.1).map (fun b => (b, c.2))
    let put (s : State) : SectorEnd := s.writeUnits j kind src r us (j.pos + us.length) loc
    if kind = 3 then match s.gatherFind (s.mapOf j.tid) src r with
      | (s1, .error (c, v)) => .fault s1 c v
      | (s1, .ok nodes) => match s1.gatherAll j r src nodes [] with
        | .data s2 l => .answer s2 [] (cellCodes l) 0
        | .fault s2 c v => .fault s2 c v
        | .hold => .hold
    else if kind = 8 ∨ kind = 9 then match s.forumFault key j kind r, s.forumTarget j (decide (kind = 8)) with
      | some (c, v), _ => .fault s c v
      | none, .ok (node, n, k) =>
        if kind = 8 then match s.takeGradient node n k (r.goff.setWidth 32) data with
          | some (s1, mirr) => .answer s1 mirr [] 0
          | none => .hold
        else match (s.forum node).readNow key n k r.ty r.goff.toNat with
          | some (codes, fl) => .answer (s.dropRead node key) [] codes fl
          | none => .wait (s.waitRead node key k r.ty r.goff.toNat)
      | none, .error (c, v) => .fault s c v
    else if kind = 6 then s.askMerge key j r.ty r.units r.goff.toNat put
    else if kindPuts kind then State.askWritten none (put s)
    else match s.readUnits j kind r us with
      | .data s1 l => .answer s1 [] (cellCodes l) 0
      | .fault s1 c v => .fault s1 c v
      | .hold => .hold
  | .handed l doff gstr ty cols om ds =>
    let put (s : State) : SectorEnd := s.handSector j l doff gstr ty cols om ds
    if om then s.askMerge key j ty ds.length doff put else State.askWritten none (put s)
  | _ => .hold

/-- The sector that an engine of another module asks for, and its answer (R339). It acts under a thread number for the
moment. -/
def State.serveSector (s : State) (packet : Nat) (p : LinkPacket) (id : Nat) (who : Agent) (slice : BitVec 32) (op : JobOp)
    (pos : Nat) (data : List (Nat × Bool)) : Option State :=
  let src := p.src.toNat
  let tid := guestTid packet
  let g : Guest := { src := src, req := id, vf := p.vf, holder := farHolder src who, core := who.core
                     f := { op := .exit, args := [], words := [], fail := none } }
  let j : Job :=
    { tid := tid, launch := farLaunch src who.launch, level := who.level, slice := slice, entry := none, engine := 0, agent := 0
      op := op, sync := 0, sem := none, state := .started, fifo := false, waits := false, edges := [], foot := [], pos := pos
      sect := 0, flags := 0, dep := none, forum := none, mirr := [], away := false, pc := 0, left := 0, used := 0 }
  match (s.lodge tid g who.level).serveAsk (farLaunch src id) j data with
  | .answer s1 mirr d fl => some ((s1.dismiss tid).answerTo src p.vf mirr (.sector id d fl))
  | .fault s1 c v => some ((s1.dismiss tid).sendLink src p.vf (.sectorFailed id c v))
  | .wait s1 => some ((s1.dismiss tid).keepPacket packet p)
  | .hold => none

/-- What the hardware of a core of another module asks for here: a line of code, a spill or a refill (R26, R39, R40, R339). -/
def State.serveHw (s : State) (packet : Nat) (p : LinkPacket) (who : Agent) (l : Word) (op : HwOp) : State × HwAns :=
  let tid := guestTid packet
  let g : Guest := { src := p.src.toNat, req := 0, vf := p.vf, holder := farHolder p.src.toNat who, core := who.core
                     f := { op := .exit, args := [], words := [], fail := none } }
  let s0 := s.lodge tid g who.level
  match op with
  | .line off => match s0.readLine tid l off with
    | (s1, .ok (_, ext, ws)) => (s1.dismiss tid, .line ext ws)
    | (s1, .error (c, v)) => (s1.dismiss tid, .failed c v)
  | .spill c => match s0.spill l { c with sender := tid } with
    | (s1, .ok _) => (s1.dismiss tid, .spilled)
    | (s1, .error (e, v)) => (s1.dismiss tid, .failed e v)
  | .refill core | .discard core _ => let (s1, cells) := s0.takeSpilled tid l core; (s1.dismiss tid, .context cells)

/-- The answer to what a core's hardware has asked a module for. -/
def State.takeHw (s : State) (src req : Nat) (r : HwAns) : State :=
  match Store.find s.mod.link.asks req with
  | some a =>
    if a.peer ≠ src then s
    else ({ s with mod := { s.mod with link := { s.mod.link with asks := Store.del s.mod.link.asks req } } }.chargeFar a.tid).hwAnswer a r
  | none => s

/-- The operation that another module asked for under a number. -/
def State.guestOf (s : State) (src req : Nat) : Option Nat :=
  (s.mod.link.guests.find? (fun g => decide (g.2.src = src) && decide (g.2.req = req))).map (·.1)

/-- A TACQ of another module is withdrawn where it waits here; one that has been answered is not. One that has not been issued
yet is awaited (R170). -/
def State.withdrawGuest (s : State) (src vf req : Nat) : Option State :=
  let asked := s.mod.link.inbox.any (fun q => decide (q.2.src.toNat = src) && (match q.2.body with
    | .call r _ _ => decide (r = req)
    | _ => false))
  match s.guestOf src req with
  | some tid => match s.treqs.find? (fun q => decide (q.2.tid = tid)) with
    | some q =>
      if q.2.queued.isNone then none
      else
        let s1 := s.dismiss tid
        some ({ s1 with mod := { s1.mod with link := { s1.mod.link with
          inbox := Store.del s1.mod.link.inbox ((tid - guestFrom) / 16) } } }.sendLink src vf (.withdrawn req))
    | none => some s
  | none => if asked then none else some s

/-- A TACQ that has been withdrawn at another module will be issued again, without its vector slot (R170). -/
def State.takeBack (s : State) (src req : Nat) : State :=
  match s.acc req with
  | some a => match a.place with
    | .remote h _ _ =>
      if h ≠ src then s
      else ({ s with accs := Store.del s.accs req }.unblock a.tid (.access req)).updThread a.tid (fun t =>
        { t with pc := a.pc, left := a.left, sonly := a.hold.sonly })
    | .spad _ _ | .glob _ _ _ _ => s
  | none => s

/-- A launch of another module has ended, or is reset: what it still asks for here is dropped, its tenures here end as
its home module's do, or without writing back, and its merges (R87, R227, R336). -/
def State.endFar (s0 : State) (lid : Nat) (drop : Bool) : State :=
  let s := (s0.mod.link.guests.filter (fun g => decide (g.2.holder.launch = lid))).foldl (fun s g =>
    let s1 := s.dismiss g.1
    { s1 with mod := { s1.mod with link := { s1.mod.link with
      inbox := Store.del s1.mod.link.inbox ((g.1 - guestFrom) / 16) } } }) s0
  let s1 := if drop then { s with tens := s.tens.filter (fun t => decide (t.2.holder.launch ≠ lid)) } else s.endTenures lid
  { s1 with eng := { s1.eng with merges := s1.eng.merges.filter (fun m => decide (m.2.launch ≠ lid)) } }

/-- A saved image holds a job, which will take its answer once it is restored. -/
def State.jobSaved (s : State) (id : Nat) : Bool := s.mod.keys.images.any (fun x => (Store.find x.2.jobs id).isSome)

/-- A contribution whose collective is withdrawn: its sync word receives STATUS code 4 and its entry is freed (R336, R344).
DEDUCED, log entry 43. -/
def State.withdrawJob (s : State) (id : Nat) (j : Job) : State :=
  (match s.syncKey j with
    | some k => (s.writeStatus k 0 4).chargeSpad j.tid [k]
    | none => s).freeJob id

/-- The started contributions of a virtual function to a label. -/
def State.contributions (s : State) (vf : Nat) (l : Word) : Store Job :=
  s.eng.jobs.filter (fun j => j.2.contribution.isSome && decide (j.2.state = .started) && decide (s.mapOf j.2.tid = vf)
    && decide (j.2.labelOf = l))

/-- What a packet that has been received does; none where it waits: for data that another holder has not published (R83), for
the thread accesses of the cycle (R231), or for its turn. DESIGN CHOICE, log entry 41. -/
def State.receive (s : State) (packet : Nat) (p : LinkPacket) : Option State :=
  let src := p.src.toNat
  let vf := p.vf
  match p.body with
  | .access req who l off n op => match s.foreignAccess src vf who l off n op with
    | (.done s1 v fl, at_) =>
      let (s2, k) := (s1.chargeBytes vf at_ op.writes).forwardWrite (if op.writes then at_ else [])
      some (s2.answerTo src vf k.toList (.value req v fl))
    | (.trap c v, _) => some (s.sendLink src vf (.failed req c v))
    | (.later _, _) => none
  | .call req who f => s.serveCall packet p req who f
  | .ask job who slice op pos data => s.serveSector packet p job who slice op pos data
  | .value req v fl => some (s.remoteReply src req (.performed v fl))
  | .failed req c v => some (s.remoteReply src req (.failed c v))
  | .sector id data fl => match s.job id with
    | some j =>
      if ¬ (s.jobHome j = some src ∧ j.away) then some s
      else if ¬ s.issuesDone then none
      else some ((s.chargeFar j.tid).remoteSector id { j with away := false } data fl)
    | none => if s.jobSaved id then none else some s
  | .sectorFailed id c v => match s.job id with
    | some j => some (if s.jobHome j = some src ∧ j.away then s.parkJob id j c v else s)
    | none => if s.jobSaved id then none else some s
  | .mirror req member op => some { s with
      next := s.next + 1
      eng := { s.eng with mirror := Store.put s.eng.mirror s.next { src := src, member := member, vf := vf, req := req, op := op } } }
  | .mirrorDone req => some (match Store.find s.mod.link.awaits req with
    | some w => if w.peer = src then s.partnerDone req w else s
    | none => s)
  | .abort l => some ((s.contributions vf l).foldl (fun s j => s.withdrawJob j.1 j.2) s)
  | .withdraw req => s.withdrawGuest src vf req
  | .withdrawn req => some (s.takeBack src req)
  | .ended launch drop => some (s.endFar (farLaunch src launch) drop)
  | .hw req who l op => let (s1, r) := s.serveHw packet p who l op; some (s1.sendLink src vf (.hwDone req r))
  | .hwDone req r => some (s.takeHw src req r)

/-- The state in which no record but one still owes released data to its home. -/
def State.onlyOwing (s : State) (keep : Option Nat) : State :=
  { s with tens := s.tens.map (fun (t : Nat × Ten) => if some t.1 = keep then t else (t.1, { t.2 with held := [] })) }

def SectorEnd.holds : SectorEnd → Bool
  | .hold => true
  | .done _ _ | .fault _ _ _ => false

/-- An engine job, or an access from another module, waits for the data of one record alone (R83, R222). -/
def State.heldBack (s : State) (id : Nat) : Bool :=
  let one := s.onlyOwing (some id)
  let free := s.onlyOwing none
  s.eng.jobs.any (fun j => decide (j.2.state = .started) && (one.nextSector j.1 j.2).holds && !(free.nextSector j.1 j.2).holds)
    || s.mod.link.inbox.any (fun p => (one.receive p.1 p.2).isNone && (free.receive p.1 p.2).isSome)

/-- FORCED_PUBLISH: the former holder's released data is written to the home for an acquire that asks for it (R83). -/
def execForcedPublish (id : Nat) (s : State) : Host.Outcome State Fault Refusal :=
  .next (match Store.find s.tens id with
    | some x => if s.owes x ∧ (s.publishDue x ∨ s.heldBack id) then s.forcePublish id x else s
    | none => s)

/-- SCALEUP_PACKET_RECEIVE: a packet at a port is dropped and counted for a wrong incarnation, dropped for an older reset
number of its virtual function, else performed once, when nothing makes it wait. DESIGN CHOICE, log entry 41. -/
def execScaleupPacketReceive (port packet : Nat) (s : State) : Host.Outcome State Fault Refusal :=
  .next (match Store.find s.mod.link.inbox packet with
    | some p =>
      if 16 ≤ port ∨ 4 ≤ (s.port port).state then s
      else
        let l := s.mod.link
        let s1 : State := { s with mod := { s.mod with link := { l with inbox := Store.del l.inbox packet } } }
        let key := p.src.toNat * 256 + p.vf
        let x := s1.port port
        if Store.find l.incs p.src.toNat ≠ some p.inc.toNat then
          (s1.dismiss (guestTid packet)).setPort port { x with stale := x.stale + 1 }
        else if p.reset < (Store.find l.resets key).getD 0 then s1.dismiss (guestTid packet)
        else
          let s2 : State := { s1 with mod := { s1.mod with link := { s1.mod.link with
            resets := Store.put s1.mod.link.resets key p.reset } } }
          (s2.receive packet p).getD s
    | none => s)

/-- COLLECTIVE_ABORT: an abort token ends an ordered contribution that is bound for another module (R336, R344).
DEDUCED, log entry 43. -/
def execCollectiveAbort (id : Nat) (s : State) : Host.Outcome State Fault Refusal :=
  .next (match s.job id with
    | some j => if j.contribution.isNone ∨ (s.jobHome j).isNone ∨ j.state ≠ .started then s else s.withdrawJob id j
    | none => s)

end Sys2Proof.Machine
end

