-- ==== Sys2Proof/Machine/Boot.lean ====
section
/-! DEFINITION. Start-up, freeze and reliability (R353 to R361): PTP_LOCK, TIMEBASE_CORRECTION, COLD_START, WARM_START,
START_TIMEOUT, RECOVERY_IMAGE_LOAD, ATTESTATION_REQUEST, FREEZE_COMMAND, READOUT, UNCORRECTABLE_ERROR, CORRECTED_ERROR,
POWER_REPORT, POWER_EXCURSION and STANDBY_POWER_LOSS. -/

namespace Sys2Proof.Machine

def State.updBoot (s : State) (f : BootState → BootState) : State :=
  { s with mod := { s.mod with boot := f s.mod.boot } }

/-! ## The timebase (R353) -/

/-- PTP_LOCK: the first lock since a cold start; cr.time takes the 1588 time, and never goes back.
DEDUCED, log entry 56. -/
def execPtpLock (ns : Nat) (s : State) : Host.Outcome State Fault Refusal :=
  .next (if s.mod.boot.locked then s
    else { s.updBoot (fun b => { b with locked := true, slew := 0 }) with time := Nat.max s.time ns })

/-- TIMEBASE_CORRECTION: what remains to be corrected, which the clock slews (R151). -/
def execTimebaseCorrection (ns : Int) (s : State) : Host.Outcome State Fault Refusal :=
  .next (if s.mod.boot.locked then s.updBoot (fun b => { b with slew := ns }) else s)

/-! ## Starts (R354 to R356) -/

/-- The incarnation after the next start's step 2: modulo 2^16, skipping 0. -/
def nextInc (i : BitVec 16) : BitVec 16 := if i + 1 = 0 then 1 else i + 1

/-- The first byte of host memory in the model's numbering of page frames (log entry 7). -/
def hostBase : Nat := 2 ^ 25 * 65536

/-- A scale-up port after a start: trained in full, or retrained from its saved settings, the lanes that it had; its
peer is known after the handshake (Table 22.1, step 6). DEDUCED, log entry 54. -/
def Port.retrained (p : Port) : Port := { p with peer := 0 }

/-- The root key store after a cold start: but for the identity key, which is the module's for ever (R357). -/
def KeyState.cleared (k : KeyState) : KeyState := { ModState.reset.keys with identity := k.identity }

/-- The module after a completed start: every memory zero and every map and partition empty; host memory, the schedule,
the always-on domain, and for a warm start the key store, the ports' settings and the timebase stay. The module's number
is the one that management firmware sets. -/
def State.started (s : State) (cold : Bool) (b : BootState) : State :=
  { State.reset with
    agenda := s.agenda, self := if b.number = 0 then s.self else b.number.toNat, next := s.next, time := if cold then 0 else s.time
    dram := s.dram.filter (fun c => decide (hostBase ≤ c.1)), dramPois := s.dramPois.filter (fun u => decide (hostBase ≤ 64 * u))
    mod := { ModState.reset with
      period := if cold then 0 else s.mod.period
      link := if cold then ModState.reset.link
              else { ModState.reset.link with ports := s.mod.link.ports.map (fun (p : Nat × Port) => (p.1, p.2.retrained)) }
      keys := if cold then s.mod.keys.cleared else s.mod.keys
      boot := { b with warmFail := 0, coldFail := 0, safe := false, retained := true, warm := !cold, starting := none
                       up := true, events := ModState.reset.boot.events, power := none, report := none, readout := none, errors := []
                       locked := if cold then false else b.locked, slew := if cold then 0 else b.slew } } }

/-- A start fails: the module stands still, the counter of its kind goes up, and a third failed cold start ends in safe
mode (R356). DEDUCED, log entry 54. -/
def State.startFailed (s : State) (cold : Bool) : State :=
  { s.updBoot (fun b =>
      if cold then { b with coldFail := b.coldFail + 1, safe := decide (3 ≤ b.coldFail + 1), retained := false, starting := none, up := false }
      else { b with warmFail := b.warmFail + 1, starting := none, up := false }) with frozen := true }

/-- The checks of R355 on an image, by its number, under a minimum version. -/
def imageAccepted (minVer image : Nat) : Bool := decide (image % 8 = 7) && decide (minVer ≤ image / 8)

/-- Step 3 of a start: the root image verifies, and then the service firmware and the hypervisor in the same way (R355). -/
def BootState.verified (b : BootState) : Bool :=
  imageAccepted b.minVer b.firmware.root && imageAccepted b.minVer b.firmware.service && imageAccepted b.minVer b.firmware.hyp

/-- The step at which a start fails: the third for an image that does not verify, or an earlier one. -/
def BootState.failing (b : BootState) (failsAt : Nat) : Nat :=
  if b.verified ∨ (1 ≤ failsAt ∧ failsAt ≤ 3) then failsAt else 3

/-- A start of a kind: `fails` names the step of Table 22.1 that reports an error, 0 for none, above 8 for a start that
does not end by itself; an image that does not verify fails the third. DEDUCED, log entry 54. -/
def State.start (s : State) (cold : Bool) (fails : Nat) : State :=
  let failsAt := s.mod.boot.failing fails
  let inc := if failsAt = 1 ∨ failsAt = 2 then s.mod.boot.inc else nextInc s.mod.boot.inc
  let s1 := s.updBoot (fun b => { b with inc := inc })
  if failsAt = 0 then s1.started cold s1.mod.boot
  else
    let s2 : State := if cold ∧ failsAt = 8 then
      { s1 with mod := { s1.mod with keys := s1.mod.keys.cleared } } else s1
    if failsAt ≤ 8 then s2.startFailed cold
    else { s2.updBoot (fun b => { b with starting := some (cold, s.time), up := false }) with frozen := true }

/-- A frozen module's next start is warm, where that is possible (R356, R358). -/
def State.startsWarm (s : State) : Bool := s.frozen && s.mod.boot.retained && decide (s.mod.boot.warmFail < 2)

/-- COLD_START: but the start that follows a freeze is warm (R358). -/
def execColdStart (failsAt : Nat) (s : State) : Host.Outcome State Fault Refusal :=
  .next (if s.mod.boot.safe ∨ s.mod.boot.starting.isSome then s else s.start (!s.startsWarm) failsAt)

/-- WARM_START: possible while the retention registers are valid and fewer than two warm starts have failed; a cold
start otherwise. A step that a warm start skips reports no error of its own, but its substitute may (retention
registers, saved training). -/
def execWarmStart (failsAt : Nat) (s : State) : Host.Outcome State Fault Refusal :=
  .next (
    let b := s.mod.boot
    if b.safe ∨ b.starting.isSome then s else s.start (!b.retained || decide (2 ≤ b.warmFail)) failsAt)

/-- START_TIMEOUT: a start that has not ended within 10 s fails. -/
def execStartTimeout (s : State) : Host.Outcome State Fault Refusal :=
  .next (match s.mod.boot.starting with
    | some (cold, _) => s.startFailed cold
    | none => s)

/-- RECOVERY_IMAGE_LOAD: in safe mode a verified root image leads to a cold start, which may fail as any other (R356). -/
def execRecoveryImageLoad (image : Nat) (s : State) : Host.Outcome State Fault Refusal :=
  .next (if s.mod.boot.safe ∧ imageAccepted s.mod.boot.minVer image then
      (s.updBoot (fun b => { b with firmware := { b.firmware with root := image }, failsAt := 0 })).start true s.mod.boot.failsAt
    else s)

/-- The status register of physical function 0, all that it presents in safe mode (R356). -/
def BootState.pf0Status (b : BootState) : Word := Config.pf0Status b.safe b.up

/-- STANDBY_POWER_LOSS: the always-on domain loses what it holds; the incarnation goes on from a random value.
DEDUCED, log entry 57. -/
def execStandbyPowerLoss (seed : BitVec 16) (s : State) : Host.Outcome State Fault Refusal :=
  .next { s.updBoot (fun b => { b with
    inc := seed, warmFail := 0, coldFail := 0, safe := false, retained := false, starting := none, up := false }) with
    frozen := true }

/-! ## Attestation (R357) -/

/-- The signed bytes of a report, 0 to 287 (Table 22.3). -/
def Report.bytes (r : Report) : List Byte :=
  leBytes 32 r.nonce.toNat ++ leBytes 2 r.number ++ leBytes 2 r.inc.toNat ++ leBytes 4 r.minVer ++ leBytes 1 (if r.warm then 1 else 0)
    ++ leBytes 55 0 ++ leBytes 64 r.root.toNat ++ leBytes 64 r.hyp.toNat ++ leBytes 64 r.service.toNat

/-- The report for a nonce, signed with the identity key. -/
def State.attest (s : State) (nonce : BitVec 256) : Report :=
  let b := s.mod.boot
  let r : Report :=
    { nonce := nonce, number := s.self, inc := b.inc, minVer := b.minVer, warm := b.warm, root := Config.imageDigest b.firmware.root
      hyp := Config.imageDigest b.firmware.hyp, service := Config.imageDigest b.firmware.service, sign := 0 }
  { r with sign := Config.falconSign s.mod.keys.identity r.bytes }

/-- ATTESTATION_REQUEST: a report for a nonce, signed over its first 288 bytes; a running module's root firmware makes it.
DESIGN CHOICE, log entry 55. -/
def execAttestationRequest (nonce : BitVec 256) (s : State) : Host.Outcome State Fault Refusal :=
  .next (
    if s.frozen ∨ ¬ s.mod.boot.up then s
    else s.updBoot (fun b => { b with report := some (s.attest nonce) }))

/-! ## Freeze and read-out (R358) -/

/-- Every clock stops; a freeze during a start fails it (R354, R358). -/
def State.freeze (s : State) : State :=
  match s.mod.boot.starting with
  | some (cold, _) => s.startFailed cold
  | none => { s with frozen := true }

/-- FREEZE_COMMAND. -/
def execFreezeCommand (s : State) : Host.Outcome State Fault Refusal := .next s.freeze

/-- A thread's registers with their presence and poison, its pc and LEFT, and its control and privileged registers, as a
read-out gives them. -/
def State.dumpThread (s : State) (tid : Nat) : List Nat :=
  let t := s.thread tid
  t.g.toList.map (·.toNat) ++ [t.pc.toNat, t.left, t.pres.toNat, t.pois.toNat, t.level.toNat, t.code.toNat]
    ++ ((List.range 16).map (fun crn => (s.userCr tid crn).toNat)) ++ ((List.range 48).map (fun k => (t.privReg (0x100 + k)).toNat))

def Flit.dump (f : Flit) : List Nat := [f.packet, f.seq, f.src, f.dst, f.age, if f.golden then 1 else 0, f.part]

/-- 64 bytes of a memory from a unit's first. -/
def dumpUnit (m : Memory) (u : Nat) : List Nat := (List.range 64).map (fun i => (m.read (u * 64 + i)).toNat)

/-- The module's configuration, by item: 0 to 15 a partition's registers, 16 to 31 a scale-up port, any other the
module's own. -/
def State.dumpConfig (s : State) (item : Nat) : List Nat :=
  if item < 16 then
    let p := s.part item
    [p.scode.toNat, if p.valid then 256 + p.vf else p.vf, p.slots.toNat, p.banks.toNat, p.ways.toNat, p.chans.toNat, p.qquota.toNat
      , p.pagequota.toNat, s.pageUse item, p.tbudget.toNat, p.ebudget.toNat]
  else if item < 32 then
    let x := s.port (item - 16)
    [x.state, x.peer.toNat, x.stale]
  else
    let b := s.mod.boot
    [s.self, b.inc.toNat, b.minVer, b.warmFail, b.coldFail, b.firmware.root, b.firmware.hyp, b.firmware.service]

/-- What a frozen module's components read out, by number: 0 management tiles, 1 error logs, 2 routers, 3 directories
(the records and reservations of a slice, R74, R75), 4 configuration; on a signed command alone 5 scratchpads, 6
register files, 7 stacked SRAM, 8 save buffers, 9 LPDDR6. The key store has no number. DESIGN CHOICE, log entry 55. -/
def State.dump (s : State) (component item : Nat) : Option (List Nat) :=
  match component with
  | 0 => some (s.dumpThread (49152 + item))
  | 1 => some [(Store.find s.mod.boot.errors item).getD 0]
  | 2 => some ((s.mod.net.flits.filter (fun f => decide (f.at_ = item))).flatMap Flit.dump)
  | 3 => some (s.tens.flatMap (fun t =>
      if t.2.slice = item ∨ (t.2.live ∧ t.2.resv.contains item) then
        [t.2.root, t.2.node, t.2.tile, t.2.holder.unit, t.2.holder.launch, t.2.who.toNat] else []))
  | 4 => some (s.dumpConfig item)
  | 5 => some (dumpUnit s.spad item)
  | 6 => some (s.dumpThread item)
  | 7 => some (dumpUnit s.eng.bbank item)
  | 8 => some (((Store.find s.mod.net.saved item).getD []).flatMap Flit.dump)
  | 9 => some (dumpUnit s.dram item)
  | _ => none

/-- READOUT: of a frozen module, to the management port. -/
def execReadout (component item : Nat) (signed : Bool) (s : State) : Host.Outcome State Fault Refusal :=
  .next (
    if ¬ s.frozen ∨ (5 ≤ component ∧ ¬ signed) then s
    else match s.dump component item with
      | some d => s.updBoot (fun b => { b with readout := some (component, item, d) })
      | none => s)

/-! ## Errors (R359) -/

/-- UNCORRECTABLE_ERROR, by component and item: 0 a register (thread * 32 + register), 1 a scratchpad unit, 2 a stacked
SRAM unit of a B bank, 3 an LPDDR6 unit: the data are poisoned; 4 map pool, tags, directories or page tables of a virtual
function: it is reset, and the same event goes on with a reset under way; 5 hypervisor, root or key-store state: a freeze;
6 a page's data as a whole, by node and page: its entry takes STATE 3; 7 a unit of a holder's L1, by tenure record and
unit of the storage root. DESIGN CHOICE, log entry 50. -/
def execUncorrectableError (component item : Nat) (s : State) : Host.Outcome State Fault Refusal :=
  .next (match component with
    | 0 => if item % 32 = 0 then s else
        s.updThread (item / 32) (fun t => { t with pois := t.pois ||| ((1 : BitVec 32) <<< (item % 32)) })
    | 1 => if s.spadPois.contains item then s else { s with spadPois := item :: s.spadPois }
    | 2 => if s.eng.bPois.contains item then s else { s with eng := { s.eng with bPois := item :: s.eng.bPois } }
    | 3 => if s.dramPois.contains item then s else { s with dramPois := item :: s.dramPois }
    | 4 => if 256 ≤ item then s else s.resetStep item ((Store.find s.mod.resets item).getD false)
    | 5 => s.freeze
    | 6 => match s.pageOf (item / 2 ^ 25) (item % 2 ^ 25) with
      | some (.present f) => s.setPage (item / 2 ^ 25) (item % 2 ^ 25) (.poisoned false f)
      | _ => s
    | 7 => { s with tens := Store.upd s.tens (item / 2 ^ 34) (fun t => { t with pois := addUnits t.pois [item % 2 ^ 34] }) }
    | _ => s)

/-- CORRECTED_ERROR: counted in the die's error log. -/
def execCorrectedError (die : Nat) (s : State) : Host.Outcome State Fault Refusal :=
  .next (if 4 ≤ die then s
    else s.updBoot (fun b => { b with errors := Store.put b.errors die ((Store.find b.errors die).getD 0 + 1) }))

/-! ## Power (R361) -/

/-- The two events of R361 in a report: each lasts from the first report that shows it to the first that does not, and
is raised to the management port when it begins. -/
def PowerState.next (e : PowerState) (supply power : Bool) : PowerState :=
  { supplyFor := if supply then e.supplyFor + 1 else 0
    powerFor := if power then e.powerFor + 1 else 0
    supplyRaised := e.supplyRaised + (if supply && decide (e.supplyFor = 0) then 1 else 0)
    powerRaised := e.powerRaised + (if power && decide (e.powerFor = 0) then 1 else 0) }

/-- POWER_REPORT, one each 1 ms: what the dies' sensors show, the core supply in mV that the clock is judged by, module
power in mW, and whether the clock holds. DEDUCED, log entry 57. -/
def execPowerReport (millivolts milliwatts : Nat) (clockHeld : Bool) (s : State) : Host.Outcome State Fault Refusal :=
  .next (s.updBoot (fun b => { b with
    power := some { dies := b.sensors, core := millivolts, total := milliwatts, held := clockHeld }
    events := b.events.next (decide (420 ≤ millivolts) && !clockHeld) (decide (3200000 < milliwatts)) }))

/-- POWER_EXCURSION: an event that has persisted for 10 ms, from one report to the tenth after it, freezes the module. -/
def execPowerExcursion (s : State) : Host.Outcome State Fault Refusal :=
  .next (if 10 < s.mod.boot.events.supplyFor ∨ 10 < s.mod.boot.events.powerFor then s.freeze else s)

end Sys2Proof.Machine
end

