-- ==== Sys2Proof/Machine/Scalar.lean ====
section
/-! DEFINITION. Integer arithmetic: the ALU group (R137, Table 8.1) and the immediate group (R138, Table 8.2). No member
traps, waits or sets a flag. -/

namespace Sys2Proof.Machine

/-- The shift count of a register operand: its low six bits. -/
def shiftCount (b : Word) : Nat := b.toNat % 64

/-- Bits 127 to 64 of the signed product. -/
def mulHigh (a b : Word) : Word := BitVec.ofInt 64 ((a.toInt * b.toInt).ediv (2 ^ 64))
/-- Bits 127 to 64 of the unsigned product. -/
def mulHighN (a b : Word) : Word := word (a.toNat * b.toNat / 2 ^ 64)
/-- Signed division toward zero; all ones for a zero divisor. -/
def divS (a b : Word) : Word := if b = 0 then Word.ones else BitVec.ofInt 64 (a.toInt.tdiv b.toInt)
def divN (a b : Word) : Word := if b = 0 then Word.ones else word (a.toNat / b.toNat)
/-- The remainder that goes with division toward zero; the dividend for a zero divisor. -/
def remS (a b : Word) : Word := if b = 0 then a else BitVec.ofInt 64 (a.toInt - b.toInt * a.toInt.tdiv b.toInt)
def remN (a b : Word) : Word := if b = 0 then a else word (a.toNat % b.toNat)
def sra (a : Word) (k : Nat) : Word := BitVec.ofInt 64 (a.toInt.fdiv (2 ^ k))
def rol (a : Word) (k : Nat) : Word := (a <<< k) ||| (a >>> (64 - k))
def minS (a b : Word) : Word := if a.toInt ≤ b.toInt then a else b
def maxS (a b : Word) : Word := if a.toInt ≤ b.toInt then b else a
def minN (a b : Word) : Word := if a.toNat ≤ b.toNat then a else b
def maxN (a b : Word) : Word := if a.toNat ≤ b.toNat then b else a
/-- Leading zero bits among the low `n` bits of a number. -/
def clzGo (v : Nat) : Nat → Nat
  | 0 => 0
  | n + 1 => if 2 ^ n ≤ v then 0 else clzGo v n + 1
def clz (a : Word) : Word := word (clzGo a.toNat 64)
/-- Trailing zero bits of a number, at most `n`. -/
def ctzGo (v : Nat) : Nat → Nat
  | 0 => 0
  | n + 1 => if v % 2 = 1 then 0 else ctzGo (v / 2) n + 1
def ctz (a : Word) : Word := word (ctzGo a.toNat 64)
def popc (a : Word) : Word := word (popOf a)
def sext (a : Word) (n : Nat) : Word := (a.setWidth n).signExtend 64
def zext (a : Word) (n : Nat) : Word := (a.setWidth n).setWidth 64

/-- A slot that only writes a register. -/
def writeReg (d : Reg) (v : Word) (s : State) : Host.Outcome State Fault Refusal := .next (s.setReg d v)

def execAdd (d a b : Reg) (s : State) : Host.Outcome State Fault Refusal :=
  writeReg d ((s.reg a) + (s.reg b)) s
def execSub (d a b : Reg) (s : State) : Host.Outcome State Fault Refusal :=
  writeReg d ((s.reg a) - (s.reg b)) s
def execMul (d a b : Reg) (s : State) : Host.Outcome State Fault Refusal :=
  writeReg d ((s.reg a) * (s.reg b)) s
def execMulh (d a b : Reg) (s : State) : Host.Outcome State Fault Refusal :=
  writeReg d (mulHigh (s.reg a) (s.reg b)) s
def execMulhn (d a b : Reg) (s : State) : Host.Outcome State Fault Refusal :=
  writeReg d (mulHighN (s.reg a) (s.reg b)) s
def execDiv (d a b : Reg) (s : State) : Host.Outcome State Fault Refusal :=
  writeReg d (divS (s.reg a) (s.reg b)) s
def execDivn (d a b : Reg) (s : State) : Host.Outcome State Fault Refusal :=
  writeReg d (divN (s.reg a) (s.reg b)) s
def execRem (d a b : Reg) (s : State) : Host.Outcome State Fault Refusal :=
  writeReg d (remS (s.reg a) (s.reg b)) s
def execRemn (d a b : Reg) (s : State) : Host.Outcome State Fault Refusal :=
  writeReg d (remN (s.reg a) (s.reg b)) s
def execAnd (d a b : Reg) (s : State) : Host.Outcome State Fault Refusal :=
  writeReg d ((s.reg a) &&& (s.reg b)) s
def execOr (d a b : Reg) (s : State) : Host.Outcome State Fault Refusal :=
  writeReg d ((s.reg a) ||| (s.reg b)) s
def execXor (d a b : Reg) (s : State) : Host.Outcome State Fault Refusal :=
  writeReg d ((s.reg a) ^^^ (s.reg b)) s
def execAndn (d a b : Reg) (s : State) : Host.Outcome State Fault Refusal :=
  writeReg d ((s.reg a) &&& ~~~ (s.reg b)) s
def execShl (d a b : Reg) (s : State) : Host.Outcome State Fault Refusal :=
  writeReg d ((s.reg a) <<< shiftCount (s.reg b)) s
def execShr (d a b : Reg) (s : State) : Host.Outcome State Fault Refusal :=
  writeReg d ((s.reg a) >>> shiftCount (s.reg b)) s
def execSra (d a b : Reg) (s : State) : Host.Outcome State Fault Refusal :=
  writeReg d (sra (s.reg a) (shiftCount (s.reg b))) s
def execRol (d a b : Reg) (s : State) : Host.Outcome State Fault Refusal :=
  writeReg d (rol (s.reg a) (shiftCount (s.reg b))) s
def execMin (d a b : Reg) (s : State) : Host.Outcome State Fault Refusal :=
  writeReg d (minS (s.reg a) (s.reg b)) s
def execMax (d a b : Reg) (s : State) : Host.Outcome State Fault Refusal :=
  writeReg d (maxS (s.reg a) (s.reg b)) s
def execMinn (d a b : Reg) (s : State) : Host.Outcome State Fault Refusal :=
  writeReg d (minN (s.reg a) (s.reg b)) s
def execMaxn (d a b : Reg) (s : State) : Host.Outcome State Fault Refusal :=
  writeReg d (maxN (s.reg a) (s.reg b)) s
def execClz (d a : Reg) (s : State) : Host.Outcome State Fault Refusal :=
  writeReg d (clz (s.reg a)) s
def execCtz (d a : Reg) (s : State) : Host.Outcome State Fault Refusal :=
  writeReg d (ctz (s.reg a)) s
def execPopc (d a : Reg) (s : State) : Host.Outcome State Fault Refusal :=
  writeReg d (popc (s.reg a)) s
def execSext8 (d a : Reg) (s : State) : Host.Outcome State Fault Refusal :=
  writeReg d (sext (s.reg a) 8) s
def execSext16 (d a : Reg) (s : State) : Host.Outcome State Fault Refusal :=
  writeReg d (sext (s.reg a) 16) s
def execSext32 (d a : Reg) (s : State) : Host.Outcome State Fault Refusal :=
  writeReg d (sext (s.reg a) 32) s
def execZext8 (d a : Reg) (s : State) : Host.Outcome State Fault Refusal :=
  writeReg d (zext (s.reg a) 8) s
def execZext16 (d a : Reg) (s : State) : Host.Outcome State Fault Refusal :=
  writeReg d (zext (s.reg a) 16) s
def execZext32 (d a : Reg) (s : State) : Host.Outcome State Fault Refusal :=
  writeReg d (zext (s.reg a) 32) s
def execAddi (d a : Reg) (imm : BitVec 16) (s : State) : Host.Outcome State Fault Refusal :=
  writeReg d (s.reg a + immS imm) s
def execAndi (d a : Reg) (imm : BitVec 16) (s : State) : Host.Outcome State Fault Refusal :=
  writeReg d (s.reg a &&& immZ imm) s
def execOri (d a : Reg) (imm : BitVec 16) (s : State) : Host.Outcome State Fault Refusal :=
  writeReg d (s.reg a ||| immZ imm) s
def execXori (d a : Reg) (imm : BitVec 16) (s : State) : Host.Outcome State Fault Refusal :=
  writeReg d (s.reg a ^^^ immZ imm) s
def execShli (d a : Reg) (imm : BitVec 6) (s : State) : Host.Outcome State Fault Refusal :=
  writeReg d ((s.reg a) <<< imm.toNat) s
def execShri (d a : Reg) (imm : BitVec 6) (s : State) : Host.Outcome State Fault Refusal :=
  writeReg d ((s.reg a) >>> imm.toNat) s
def execSrai (d a : Reg) (imm : BitVec 6) (s : State) : Host.Outcome State Fault Refusal :=
  writeReg d (sra (s.reg a) imm.toNat) s
def execMovi (d : Reg) (imm : BitVec 16) (s : State) : Host.Outcome State Fault Refusal :=
  writeReg d (immS imm) s
def execMovh (d a : Reg) (imm : BitVec 16) (s : State) : Host.Outcome State Fault Refusal :=
  writeReg d ((s.reg a <<< 16) + immZ imm) s
/-- SNOP does nothing (R111). -/
def execSnop (s : State) : Host.Outcome State Fault Refusal := .next s

end Sys2Proof.Machine
end

