-- ==== Sys2Proof/Machine/Steals.lean ====
section
/-! DEFINITION. Steals over the Alleys (R38, R43): STEAL_REQUEST and STEAL_REPLY. -/

namespace Sys2Proof.Machine

/-- STEAL_REQUEST: a victim gives its top record with STOLEN set, or answers empty, or busy while it serves another
thief; giving one sets its mark (R38, R43). It comes after the cycle's bundles, so that a DQPOP of the cycle is served
first (R181), and a thread of the victim's core that wants the record takes it first (R36, R260). A partition whose stop
is due gives nothing: the stop answers (R315). A thief that has found work asks no more. DEDUCED, log entry 23. -/
def execStealRequest (lid thief victim : Nat) (s : State) : Host.Outcome State Fault Refusal :=
  .next (match s.launch lid with
    | some l => match Store.find l.work.steals thief with
      | some (.asking (v :: vs)) =>
        if v ≠ victim ∨ ¬ s.partRuns l.part ∨ ¬ s.issuesDone then s
        else if ¬ s.mayAsk l thief then s.updLaunch lid (·.setSteal thief none)
        else if l.serving thief victim then
          (s.updLaunch lid (·.setSteal thief (some (.answered vs victim none)))).chargeAlley l thief victim
        else match l.takeTop victim with
          | some (r, l1) =>
            if (l.threadsOn victim).any (s.wantsWork l) then s
            else
              let l2 := if l1.work.marks.contains victim then l1
                else { l1 with work := { l1.work with marks := victim :: l1.work.marks } }
              (s.updLaunch lid (fun _ => l2.setSteal thief (some (.answered vs victim (some r))))).chargeAlley l thief victim
          | none => (s.updLaunch lid (·.setSteal thief (some (.answered vs victim none)))).chargeAlley l thief victim
      | _ => s
    | none => s)

/-- STEAL_REPLY: the thief starts the record, tries the next victim if it still has no work, or rests until its next
Circus pass (R38). A record that finds every thread of the core at work goes to the core's deque, once its share has
room (R28); after the stop cycle it stays in flight, and the stop puts it back (R315). DEDUCED, log entry 23. -/
def execStealReply (lid thief : Nat) (s : State) : Host.Outcome State Fault Refusal :=
  .next (match s.launch lid with
    | some l =>
      let set (st : Option StealState) (s : State) : State := s.updLaunch lid (·.setSteal thief st)
      match Store.find l.work.steals thief with
      | some (.answered _ victim (some r0)) =>
        let r := { r0 with stolen := true }
        (match (l.threadsOn thief).find? (fun t => s.wantsWork l t) with
          | some t => (set none (s.chargeAlley l victim thief)).startRec t l.code r
          | none => if ¬ s.partRuns l.part ∨ l.dequeCap ≤ (l.deque thief).length then s
            else set none ((s.chargeAlley l victim thief).updLaunch lid (fun l => l.setDeque thief (l.deque thief ++ [r]))))
      | some (.answered vs victim none) =>
        set (if ¬ s.mayAsk l thief then none else if vs = [] then some .resting else some (.asking vs))
          (s.chargeAlley l victim thief)
      | _ => s
    | none => s)

end Sys2Proof.Machine
end

