-- ==== Sys2Proof/Machine/Dispatch.lean ====
section
/-! DEFINITION. Dispatch: one arm per constructor of `Instr`, each a direct call of its own meaning. -/

namespace Sys2Proof.Machine

/-- The effect of one instruction or event on the machine. A slot instruction acts for the thread in issue. -/
def exec (i : Instr) (s : State) : Host.Outcome State Fault Refusal :=
  match i with
  | .snop => Sys2Proof.Machine.execSnop s
  | .add d a b => Sys2Proof.Machine.execAdd d a b s
  | .sub d a b => Sys2Proof.Machine.execSub d a b s
  | .mul d a b => Sys2Proof.Machine.execMul d a b s
  | .mulh d a b => Sys2Proof.Machine.execMulh d a b s
  | .mulhn d a b => Sys2Proof.Machine.execMulhn d a b s
  | .div d a b => Sys2Proof.Machine.execDiv d a b s
  | .divn d a b => Sys2Proof.Machine.execDivn d a b s
  | .rem d a b => Sys2Proof.Machine.execRem d a b s
  | .remn d a b => Sys2Proof.Machine.execRemn d a b s
  | .and d a b => Sys2Proof.Machine.execAnd d a b s
  | .or d a b => Sys2Proof.Machine.execOr d a b s
  | .xor d a b => Sys2Proof.Machine.execXor d a b s
  | .andn d a b => Sys2Proof.Machine.execAndn d a b s
  | .shl d a b => Sys2Proof.Machine.execShl d a b s
  | .shr d a b => Sys2Proof.Machine.execShr d a b s
  | .sra d a b => Sys2Proof.Machine.execSra d a b s
  | .rol d a b => Sys2Proof.Machine.execRol d a b s
  | .min d a b => Sys2Proof.Machine.execMin d a b s
  | .max d a b => Sys2Proof.Machine.execMax d a b s
  | .minn d a b => Sys2Proof.Machine.execMinn d a b s
  | .maxn d a b => Sys2Proof.Machine.execMaxn d a b s
  | .clz d a => Sys2Proof.Machine.execClz d a s
  | .ctz d a => Sys2Proof.Machine.execCtz d a s
  | .popc d a => Sys2Proof.Machine.execPopc d a s
  | .sext8 d a => Sys2Proof.Machine.execSext8 d a s
  | .sext16 d a => Sys2Proof.Machine.execSext16 d a s
  | .sext32 d a => Sys2Proof.Machine.execSext32 d a s
  | .zext8 d a => Sys2Proof.Machine.execZext8 d a s
  | .zext16 d a => Sys2Proof.Machine.execZext16 d a s
  | .zext32 d a => Sys2Proof.Machine.execZext32 d a s
  | .addi d a imm => Sys2Proof.Machine.execAddi d a imm s
  | .andi d a imm => Sys2Proof.Machine.execAndi d a imm s
  | .ori d a imm => Sys2Proof.Machine.execOri d a imm s
  | .xori d a imm => Sys2Proof.Machine.execXori d a imm s
  | .shli d a imm => Sys2Proof.Machine.execShli d a imm s
  | .shri d a imm => Sys2Proof.Machine.execShri d a imm s
  | .srai d a imm => Sys2Proof.Machine.execSrai d a imm s
  | .movi d imm => Sys2Proof.Machine.execMovi d imm s
  | .movh d a imm => Sys2Proof.Machine.execMovh d a imm s
  | .cmp cond skip a b => Sys2Proof.Machine.execCmp cond skip a b s
  | .cmpi cond skip a imm => Sys2Proof.Machine.execCmpi cond skip a imm s
  | .b off => Sys2Proof.Machine.execB off s
  | .bal off => Sys2Proof.Machine.execBal off s
  | .brx d a => Sys2Proof.Machine.execBrx d a s
  | .ldl d a x sz ord scope sx => Sys2Proof.Machine.execLdl d a x sz ord scope sx s
  | .stl d a x sz ord scope => Sys2Proof.Machine.execStl d a x sz ord scope s
  | .ldg d a x sz ord scope sx => Sys2Proof.Machine.execLdg d a x sz ord scope sx s
  | .stg d a x sz ord scope => Sys2Proof.Machine.execStg d a x sz ord scope s
  | .amol d a x sz ord scope op => Sys2Proof.Machine.execAmol d a x sz ord scope op s
  | .amog d a x sz ord scope op => Sys2Proof.Machine.execAmog d a x sz ord scope op s
  | .casl d a x sz ord scope => Sys2Proof.Machine.execCasl d a x sz ord scope s
  | .casg d a x sz ord scope => Sys2Proof.Machine.execCasg d a x sz ord scope s
  | .fence ord scope => Sys2Proof.Machine.execFence ord scope s
  | .lanc d a b => Sys2Proof.Machine.execLanc d a b s
  | .lrng d a => Sys2Proof.Machine.execLrng d a s
  | .ldep d a => Sys2Proof.Machine.execLdep d a s
  | .lpar d a => Sys2Proof.Machine.execLpar d a s
  | .lchd d a b => Sys2Proof.Machine.execLchd d a b s
  | .ldig d a b => Sys2Proof.Machine.execLdig d a b s
  | .lcan d a => Sys2Proof.Machine.execLcan d a s
  | .lins d a b => Sys2Proof.Machine.execLins d a b s
  | .lmov d a b stub => Sys2Proof.Machine.execLmov d a b stub s
  | .lreb d a b stub => Sys2Proof.Machine.execLreb d a b stub s
  | .lfre d a => Sys2Proof.Machine.execLfre d a s
  | .lmap d a b => Sys2Proof.Machine.execLmap d a b s
  | .lunf d a b => Sys2Proof.Machine.execLunf d a b s
  | .lstat d a => Sys2Proof.Machine.execLstat d a s
  | .tacq d a scope w nw => Sys2Proof.Machine.execTacq d a scope w nw s
  | .trel d a scope => Sys2Proof.Machine.execTrel d a scope s
  | .tspl d a => Sys2Proof.Machine.execTspl d a s
  | .tdsc d a scope => Sys2Proof.Machine.execTdsc d a scope s
  | .tqry d a => Sys2Proof.Machine.execTqry d a s
  | .tfls d a scope => Sys2Proof.Machine.execTfls d a scope s
  | .send d a b => Sys2Proof.Machine.execSend d a b s
  | .clrp a => Sys2Proof.Machine.execClrp a s
  | .waitp a => Sys2Proof.Machine.execWaitp a s
  | .testp d a => Sys2Proof.Machine.execTestp d a s
  | .swarm a b => Sys2Proof.Machine.execSwarm a b s
  | .swadd a b scope => Sys2Proof.Machine.execSwadd a b scope s
  | .swwait a b => Sys2Proof.Machine.execSwwait a b s
  | .bwinit a b => Sys2Proof.Machine.execBwinit a b s
  | .bwarr d a scope => Sys2Proof.Machine.execBwarr d a scope s
  | .bwwait a b => Sys2Proof.Machine.execBwwait a b s
  | .bwfree a => Sys2Proof.Machine.execBwfree a s
  | .semp a k => Sys2Proof.Machine.execSemp a k s
  | .semv a k => Sys2Proof.Machine.execSemv a k s
  | .semt d a k => Sys2Proof.Machine.execSemt d a k s
  | .cpyq a => Sys2Proof.Machine.execCpyq a s
  | .cpyqt d a => Sys2Proof.Machine.execCpyqt d a s
  | .dqpush d a => Sys2Proof.Machine.execDqpush d a s
  | .dqpop d => Sys2Proof.Machine.execDqpop d s
  | .qlaunch d a b => Sys2Proof.Machine.execQlaunch d a b s
  | .exit => Sys2Proof.Machine.execExit s
  | .yield => Sys2Proof.Machine.execYield s
  | .migr a b live wide => Sys2Proof.Machine.execMigr a b live wide s
  | .migrc a live wide => Sys2Proof.Machine.execMigrc a live wide s
  | .phadv => Sys2Proof.Machine.execPhadv s
  | .phqry d => Sys2Proof.Machine.execPhqry d s
  | .quiet => Sys2Proof.Machine.execQuiet s
  | .mfs d crn => Sys2Proof.Machine.execMfs d crn s
  | .mts d crn => Sys2Proof.Machine.execMts d crn s
  | .trap imm => Sys2Proof.Machine.execTrap imm s
  | .pclose d a b => Sys2Proof.Machine.execPclose d a b s
  | .pqry d a => Sys2Proof.Machine.execPqry d a s
  | .dtwait a => Sys2Proof.Machine.execDtwait a s
  | .dtqry d a => Sys2Proof.Machine.execDtqry d a s
  | .swin a b => Sys2Proof.Machine.execSwin a b s
  | .eret => Sys2Proof.Machine.execEret s
  | .hvc imm => Sys2Proof.Machine.execHvc imm s
  | .mfp d crn => Sys2Proof.Machine.execMfp d crn s
  | .mtp d crn => Sys2Proof.Machine.execMtp d crn s
  | .lminv a b => Sys2Proof.Machine.execLminv a b s
  | .lminvVf => Sys2Proof.Machine.execLminvVf s
  | .sstop a => Sys2Proof.Machine.execSstop a s
  | .sstopCancel a => Sys2Proof.Machine.execSstopCancel a s
  | .qstop d a => Sys2Proof.Machine.execQstop d a s
  | .qstart d a => Sys2Proof.Machine.execQstart d a s
  | .qdrain d a => Sys2Proof.Machine.execQdrain d a s
  | .qreset d a => Sys2Proof.Machine.execQreset d a s
  | .partxSave d a b => Sys2Proof.Machine.execPartxSave d a b s
  | .partxRestore d a b => Sys2Proof.Machine.execPartxRestore d a b s
  | .vnop => Sys2Proof.Machine.execVnop s
  | .vadd d a b ty rnd => Sys2Proof.Machine.execVadd d a b ty rnd s
  | .vsub d a b ty rnd => Sys2Proof.Machine.execVsub d a b ty rnd s
  | .vmul d a b ty rnd => Sys2Proof.Machine.execVmul d a b ty rnd s
  | .vdiv d a b ty rnd => Sys2Proof.Machine.execVdiv d a b ty rnd s
  | .vmin d a b ty => Sys2Proof.Machine.execVmin d a b ty s
  | .vmax d a b ty => Sys2Proof.Machine.execVmax d a b ty s
  | .vand d a b ty => Sys2Proof.Machine.execVand d a b ty s
  | .vor d a b ty => Sys2Proof.Machine.execVor d a b ty s
  | .vxor d a b ty => Sys2Proof.Machine.execVxor d a b ty s
  | .vshl d a b ty => Sys2Proof.Machine.execVshl d a b ty s
  | .vshr d a b ty => Sys2Proof.Machine.execVshr d a b ty s
  | .vsra d a b ty => Sys2Proof.Machine.execVsra d a b ty s
  | .vfma d a b ty rnd => Sys2Proof.Machine.execVfma d a b ty rnd s
  | .vfms d a b ty rnd => Sys2Proof.Machine.execVfms d a b ty rnd s
  | .vabs d a ty => Sys2Proof.Machine.execVabs d a ty s
  | .vneg d a ty => Sys2Proof.Machine.execVneg d a ty s
  | .vsqrt d a ty rnd => Sys2Proof.Machine.execVsqrt d a ty rnd s
  | .vrcp d a ty rnd => Sys2Proof.Machine.execVrcp d a ty rnd s
  | .vrsq d a ty rnd => Sys2Proof.Machine.execVrsq d a ty rnd s
  | .vexp d a ty rnd => Sys2Proof.Machine.execVexp d a ty rnd s
  | .vexp2 d a ty rnd => Sys2Proof.Machine.execVexp2 d a ty rnd s
  | .vlog2 d a ty rnd => Sys2Proof.Machine.execVlog2 d a ty rnd s
  | .vtanh d a ty rnd => Sys2Proof.Machine.execVtanh d a ty rnd s
  | .vsigm d a ty rnd => Sys2Proof.Machine.execVsigm d a ty rnd s
  | .vcmp d a b ty pred => Sys2Proof.Machine.execVcmp d a b ty pred s
  | .vsel a b c ty => Sys2Proof.Machine.execVsel a b c ty s
  | .vred d a ty rnd op => Sys2Proof.Machine.execVred d a ty rnd op s
  | .vscan d a ty rnd op => Sys2Proof.Machine.execVscan d a ty rnd op s
  | .vcvt d a ty rnd => Sys2Proof.Machine.execVcvt d a ty rnd s
  | .vpack d a rnd => Sys2Proof.Machine.execVpack d a rnd s
  | .vunpk d a ty rnd => Sys2Proof.Machine.execVunpk d a ty rnd s
  | .vcpy d a ty => Sys2Proof.Machine.execVcpy d a ty s
  | .vbcast d a ty => Sys2Proof.Machine.execVbcast d a ty s
  | .vgath d a b ty => Sys2Proof.Machine.execVgath d a b ty s
  | .vscat d a b ty => Sys2Proof.Machine.execVscat d a b ty s
  | .viota d ty => Sys2Proof.Machine.execViota d ty s
  | .vpart a b c => Sys2Proof.Machine.execVpart a b c s
  | .mldb a b ty => Sys2Proof.Machine.execMldb a b ty s
  | .mma a b c ty rnd => Sys2Proof.Machine.execMma a b c ty rnd s
  | .mzero a => Sys2Proof.Machine.execMzero a s
  | .mdrn a b c ty rnd => Sys2Proof.Machine.execMdrn a b c ty rnd s
  | .mdrnOm a b c ty rnd => Sys2Proof.Machine.execMdrnOm a b c ty rnd s
  | .mstat a => Sys2Proof.Machine.execMstat a s
  | .cvj a b => Sys2Proof.Machine.execCvj a b s
  | .cvjt a b => Sys2Proof.Machine.execCvjt a b s
  | .callLatch d => Sys2Proof.Machine.execCallLatch d s
  | .callReply d => Sys2Proof.Machine.execCallReply d s
  | .partitionRegisterWrite d crn => Sys2Proof.Machine.execPartitionRegisterWrite d crn s
  | .bindVf d => Sys2Proof.Machine.execBindVf d s
  | .debugSelect d => Sys2Proof.Machine.execDebugSelect d s
  | .debugHalt d => Sys2Proof.Machine.execDebugHalt d s
  | .debugRelease d => Sys2Proof.Machine.execDebugRelease d s
  | .debugStep d => Sys2Proof.Machine.execDebugStep d s
  | .debugDataAccess write d => Sys2Proof.Machine.execDebugDataAccess write d s
  | .issueCycle core => Sys2Proof.Machine.execIssueCycle core s
  | .instructionLineFill thread => Sys2Proof.Machine.execInstructionLineFill thread s
  | .remoteScratchpadAccess req => Sys2Proof.Machine.execRemoteScratchpadAccess req s
  | .homeAccess req => Sys2Proof.Machine.execHomeAccess req s
  | .accessReply req => Sys2Proof.Machine.execAccessReply req s
  | .tenureRequest req => Sys2Proof.Machine.execTenureRequest req s
  | .tenureGrant req => Sys2Proof.Machine.execTenureGrant req s
  | .recall tenure => Sys2Proof.Machine.execRecall tenure s
  | .conflictReport reqA reqB => Sys2Proof.Machine.execConflictReport reqA reqB s
  | .forcedPublish publication => Sys2Proof.Machine.execForcedPublish publication s
  | .haloPush push => Sys2Proof.Machine.execHaloPush push s
  | .sendLanding sender => Sys2Proof.Machine.execSendLanding sender s
  | .sweepStart core beats => Sys2Proof.Machine.execSweepStart core beats s
  | .sweepFinish core => Sys2Proof.Machine.execSweepFinish core s
  | .matrixOpFinish job => Sys2Proof.Machine.execMatrixOpFinish job s
  | .jobStart job sectors => Sys2Proof.Machine.execJobStart job sectors s
  | .jobComplete job => Sys2Proof.Machine.execJobComplete job s
  | .streamSectorLand job => Sys2Proof.Machine.execStreamSectorLand job s
  | .jobFault job => Sys2Proof.Machine.execJobFault job s
  | .faultBufferDrain die part => Sys2Proof.Machine.execFaultBufferDrain die part s
  | .faultActionResume vf record => Sys2Proof.Machine.execFaultActionResume vf record s
  | .faultActionCancel vf record => Sys2Proof.Machine.execFaultActionCancel vf record s
  | .mergeContribution job => Sys2Proof.Machine.execMergeContribution job s
  | .gradientBlock job => Sys2Proof.Machine.execGradientBlock job s
  | .weightRead job => Sys2Proof.Machine.execWeightRead job s
  | .mirrorForward op => Sys2Proof.Machine.execMirrorForward op s
  | .takeWork core => Sys2Proof.Machine.execTakeWork core s
  | .stealRequest launch thief victim => Sys2Proof.Machine.execStealRequest launch thief victim s
  | .stealReply launch thief => Sys2Proof.Machine.execStealReply launch thief s
  | .contextArrival ctx => Sys2Proof.Machine.execContextArrival ctx s
  | .contextAnswer ctx => Sys2Proof.Machine.execContextAnswer ctx s
  | .phaseCountMessage launch source target => Sys2Proof.Machine.execPhaseCountMessage launch source target s
  | .circusTokenPass launch => Sys2Proof.Machine.execCircusTokenPass launch s
  | .circusRound launch => Sys2Proof.Machine.execCircusRound launch s
  | .queueTailWrite vf queue tail => Sys2Proof.Machine.execQueueTailWrite vf queue tail s
  | .launchDispatch vf queue => Sys2Proof.Machine.execLaunchDispatch vf queue s
  | .launchPlacement launch row col => Sys2Proof.Machine.execLaunchPlacement launch row col s
  | .launchStart launch => Sys2Proof.Machine.execLaunchStart launch s
  | .shootdownInvalidate shootdown tile => Sys2Proof.Machine.execShootdownInvalidate shootdown tile s
  | .shootdownAck shootdown => Sys2Proof.Machine.execShootdownAck shootdown s
  | .stopCycle part => Sys2Proof.Machine.execStopCycle part s
  | .flushTokenHop part => Sys2Proof.Machine.execFlushTokenHop part s
  | .pmove caller => Sys2Proof.Machine.execPmove caller s
  | .demote caller => Sys2Proof.Machine.execDemote caller s
  | .promote caller => Sys2Proof.Machine.execPromote caller s
  | .resetvf caller => Sys2Proof.Machine.execResetvf caller s
  | .pagePlacementMove node page die chan => Sys2Proof.Machine.execPagePlacementMove node page die chan s
  | .packetReassembly packet => Sys2Proof.Machine.execPacketReassembly packet s
  | .laneFault port => Sys2Proof.Machine.execLaneFault port s
  | .retrainAttempt port good => Sys2Proof.Machine.execRetrainAttempt port good s
  | .linkTraining port peer incarnation => Sys2Proof.Machine.execLinkTraining port peer incarnation s
  | .scaleupPacketReceive port packet => Sys2Proof.Machine.execScaleupPacketReceive port packet s
  | .moduleLost peer => Sys2Proof.Machine.execModuleLost peer s
  | .collectiveAbort collective => Sys2Proof.Machine.execCollectiveAbort collective s
  | .functionLevelReset vf => Sys2Proof.Machine.execFunctionLevelReset vf s
  | .msixUnmask vf vector => Sys2Proof.Machine.execMsixUnmask vf vector s
  | .ptpLock ns => Sys2Proof.Machine.execPtpLock ns s
  | .coldStart failsAt => Sys2Proof.Machine.execColdStart failsAt s
  | .warmStart failsAt => Sys2Proof.Machine.execWarmStart failsAt s
  | .recoveryImageLoad image => Sys2Proof.Machine.execRecoveryImageLoad image s
  | .attestationRequest nonce => Sys2Proof.Machine.execAttestationRequest nonce s
  | .readout component item signed => Sys2Proof.Machine.execReadout component item signed s
  | .uncorrectableError component item => Sys2Proof.Machine.execUncorrectableError component item s
  | .correctedError die => Sys2Proof.Machine.execCorrectedError die s
  | .powerReport millivolts milliwatts clockHeld => Sys2Proof.Machine.execPowerReport millivolts milliwatts clockHeld s
  | .restoreStopTimePassed thread => Sys2Proof.Machine.execRestoreStopTimePassed thread s
  | .standbyPowerLoss seed => Sys2Proof.Machine.execStandbyPowerLoss seed s
  | .timebaseCorrection ns => Sys2Proof.Machine.execTimebaseCorrection ns s
  | .chargeApplication => Sys2Proof.Machine.execChargeApplication s
  | .periodBoundary => Sys2Proof.Machine.execPeriodBoundary s
  | .flitHop => Sys2Proof.Machine.execFlitHop s
  | .goldenTokenStep => Sys2Proof.Machine.execGoldenTokenStep s
  | .pf0Flr => Sys2Proof.Machine.execPf0Flr s
  | .startTimeout => Sys2Proof.Machine.execStartTimeout s
  | .freezeCommand => Sys2Proof.Machine.execFreezeCommand s
  | .powerExcursion => Sys2Proof.Machine.execPowerExcursion s

end Sys2Proof.Machine
end

