-- ==== Sys2Proof/Machine/Bundle.lean ====
section
/-! DEFINITION. One bundle (R109 to R112, R122, R123, R135, R136, R289, R303, R305): header, debug match, decode checks,
sources, both slots, and what a bundle that waits or that may still trap leaves behind. The meaning of an instruction is
the parameter `run`. -/

namespace Sys2Proof.Machine

/-- Goes on after an instruction that answers a next state. -/
def andThen (o : Host.Outcome State Fault Refusal) (k : State → Host.Outcome State Fault Refusal) :
    Host.Outcome State Fault Refusal :=
  match o with
  | .next s => k s
  | .fault f => .fault f
  | .refused r => .refused r

/-- Control reaches the next bundle: a header is checked and passed (R110). None when a trap was taken. -/
def State.enterBlock (s : State) : State × Bool :=
  let t := s.me
  if t.left ≠ 0 then (if s.beyond s.cur t.code t.pc then (s.trap 0x08 t.pc, false) else (s, true))
  else
    let w := s.peekCode s.cur t.code t.pc.toNat
    match s.headerTrap s.cur t.code t.pc w with
    | some (c, v) => (s.trap c v, false)
    | none => match w with
      | some w =>
        (s.updMe (fun t => { t with
          pc := t.pc + 8, left := (hdrLen w).toNat, live := some (hdrLive w), sys := { t.sys with noMatch := false } }), true)
      | none => (s, false)

/-- R303: the debug match on a bundle. -/
def Thread.debugMatch (t : Thread) : Bool :=
  t.sys.dbgmatch.getLsbD 0 && decide (t.code = t.sys.dbgcode) && decide (t.pc = handlerOf t.sys.dbgmatch) && !t.sys.noMatch

/-- Check 2 of Table 6.14: the levels of Table 18.9. -/
def levelOk (op : BitVec 6) (level : BitVec 2) : Bool :=
  match op.toNat with
  | 0x31 => decide (level = 1) || decide (level = 2)
  | 0x32 | 0x33 | 0x34 | 0x36 => decide (level ≠ 0)
  | 0x35 | 0x37 => decide (2 ≤ level.toNat)
  | _ => true

/-- Checks 5 and 6: engine instructions on their own role (R122). -/
def roleOk (role : Nat) (i : Instr) : Bool :=
  match i with
  | .cpyq .. | .cpyqt .. => decide (role = 0)
  | .mldb .. | .mma .. | .mzero .. | .mdrn .. | .mdrnOm .. | .mstat .. => decide (role = 2)
  | .cvj .. | .cvjt .. => decide (role = 1)
  | _ => true

/-- The two slots of a bundle, or the cause of the first decode check that fails (Table 6.14). -/
def decodeChecks (w : Word) (level : BitVec 2) (role : Nat) : Except Nat (Instr × Instr) :=
  if ¬ scalarOpAssigned (Sys2Proof.slotOp (scalarSlot w)) then .error 0x01
  else if ¬ levelOk (Sys2Proof.slotOp (scalarSlot w)) level then .error 0x02
  else match decodeScalar (scalarSlot w), decodeVector (vectorSlot w) with
    | .ok a, .ok b => if roleOk role a && roleOk role b then .ok (a, b) else .error 0x0B
    | _, _ => .error 0x01

/-- The source registers of a slot; the block operand of a drain counts only where it hands off (R239, R240). -/
def State.slotSources (s : State) (i : Instr) : List Reg :=
  match i with
  | .mdrn a b c _ _ | .mdrnOm a b c _ _ => if (s.reg c).getLsbD 24 then [a, b, c] else [a, c]
  | _ => i.sources

/-- The channel registers among some sources, as the mask of their presence bits. -/
def chanMask (rs : List Reg) : BitVec 8 :=
  rs.foldl (fun m r => if 24 ≤ r.toNat then m ||| ((1 : BitVec 8) <<< (r.toNat - 24)) else m) 0

/-- An absent channel register among some sources. -/
def Thread.absent (t : Thread) (rs : List Reg) : Option Nat :=
  (rs.find? (fun r => decide (24 ≤ r.toNat) && !t.present r.toNat)).map (·.toNat)

/-- A poisoned register among some sources (R359). -/
def Thread.poisoned (t : Thread) (rs : List Reg) : Option Reg := rs.find? (fun r => decide (r ≠ 0) && t.pois.getLsbD r.toNat)

/-- TRAP and HVC let the vector slot of their bundle take effect (R152, R292). -/
def lateTrap (i : Instr) : Bool :=
  match i with
  | .trap _ | .hvc _ => true
  | _ => false

/-- A wait in which the bundle stands whole, its vector slot too: it is no event of Table 2.1. DEDUCED, log entry 30. -/
def Why.wholeBundle : Why → Bool
  | .order | .fence | .drain _ _ | .stop _ | .time _ | .callq | .quiesce _ => true
  | .chan _ | .access _ | .sweep _ | .matrix _ | .semp _ _ | .gen _ _ | .window _ _ _ _ | .sendEntry | .copyEntry | .cvEntry
  | .depEntry | .dtwait _ | .phase | .quiet | .migr _ | .tenure _ | .call | .shootdown _ | .parked => false

/-- The bundle in issue waits whole. -/
def State.standsWhole (s : State) : Bool := s.iss.stalled && s.me.waits.any Why.wholeBundle

/-- The wait whose answer may still trap the bundle, as the number of its record. -/
def Thread.pendingReply (t : Thread) : Option Nat :=
  t.waits.findSome? (fun w => match w with
    | .access id | .tenure id | .migr id => some id
    | _ => none)

/-- What a vector slot that is no sweep and no job has written: a register, or the bytes of a record. -/
def State.vectorWrites (s0 : State) (b : Instr) (s : State) : Option (Reg × Word) × List (Nat × Byte) :=
  match b with
  | .mstat d | .cvjt d _ => (some (d, s.me.g[d.toNat]), [])
  | .vpart a _ _ => match s0.localAddr s0.cur (s0.reg a) with
    | .ok k => (none, (List.range 32).map (fun i => (k + i, s.spad.read (k + i))))
    | .error _ => (none, [])
  | _ => (none, [])

/-- What a vector slot has written stands again as it stood in `s0`. -/
def State.withhold (s s0 : State) (h : Held) : State :=
  let s1 : State := { s with spad := h.bytes.foldl (fun (m : Memory) p => m.write p.1 (s0.spad.read p.1)) s.spad }
  match h.reg with
  | some _ => s1.updMe (fun t => { t with g := s0.me.g, pres := s0.me.pres, pois := s0.me.pois })
  | none => s1

/-- An answer may still trap the bundle: the presence it consumes, what its vector slot has written and what it has queued
are held back until then (R135). `s0` is the state before the vector slot. DEDUCED, log entry 30. -/
def State.holdBundle (s s0 : State) (h : Held) (next0 : Nat) : State :=
  match s.me.pendingReply with
  | none => s
  | some id =>
    let s1 := s.withhold s0 h
    let s2 := { s1 with
      accs := Store.upd s1.accs id (fun a => { a with hold := h })
      treqs := Store.upd s1.treqs id (fun a => { a with hold := h })
      sync := { s1.sync with ctxs := Store.upd s1.sync.ctxs id (fun c => ({ c.1 with hold := h }, c.2)) }
      eng := { s1.eng with
        jobs := s1.eng.jobs.map (fun (j : Nat × Job) => if next0 ≤ j.1 ∧ j.2.tid = s.cur then (j.1, { j.2 with dep := some id }) else j)
        sweeps := s1.eng.sweeps.map (fun (q : Nat × List Sweep) => (q.1, q.2.map (fun (w : Sweep) =>
          if w.tid = s.cur ∧ w.dep = none ∧ ¬ w.start then { w with dep := some id } else w))) } }
    s2.updMe (fun t => { t with pres := t.pres ||| h.used })

/-- The scratchpad accesses that an instruction makes in its slot when its address is the issuing tile's.
DEDUCED, log entry 35. -/
def bankAccesses (i : Instr) : Nat :=
  match i with
  | .ldl .. | .stl .. | .amol .. | .casl .. | .swarm .. | .swadd .. | .swwait .. | .bwinit .. | .bwarr .. | .bwwait ..
  | .bwfree .. => 1
  | .vpart .. => 2
  | _ => 0

/-- The scratchpad records that an instruction reads when it is issued, each within 64 bytes. DEDUCED, log entry 35. -/
def recordReads (i : Instr) : Nat :=
  match i with
  | .vadd .. | .vsub .. | .vmul .. | .vdiv .. | .vmin .. | .vmax .. | .vand .. | .vor .. | .vxor .. | .vshl .. | .vshr .. | .vsra ..
  | .vfma .. | .vfms .. | .vcmp .. | .vsel .. | .vgath .. | .vscat .. => 3
  | .vabs .. | .vneg .. | .vsqrt .. | .vrcp .. | .vrsq .. | .vexp .. | .vexp2 .. | .vlog2 .. | .vtanh .. | .vsigm .. | .vscan ..
  | .vcvt .. | .vpack .. | .vunpk .. | .vcpy .. | .vbcast .. | .cvj .. | .cvjt .. => 2
  | .vred .. | .viota .. | .mldb .. | .mma .. | .mdrn .. | .mdrnOm .. | .cpyq .. | .cpyqt .. | .lmap .. | .dqpush ..
  | .qlaunch .. => 1
  | _ => 0

/-- The accesses of a bundle that took effect in its slots, and the records it read, are charged (R329); a scalar access
that is in flight, or will be issued again, where it is performed. -/
def State.chargeSlots (s : State) (a b : Instr) : State :=
  let scalar := if s.iss.stalled then 0 else recordReads a + (if s.me.pendingReply.isSome then 0 else bankAccesses a)
  s.charge (s.mapOf s.cur) (6000 * (scalar + bankAccesses b + recordReads b))

/-- The state after both slots: control moves on, or the bundle stays to be issued again, without the vector slot that it
has performed. `keep` is for ERET, which gives the bundle it resumes its own mark. DEDUCED, log entry 30. -/
def State.endBundle (s s0 : State) (keep : Bool) (usedS : BitVec 8) (h : Held) (next0 : Nat) : State :=
  if s.iss.stalled then
    let s1 := s.updMe (fun t => { t with pres := t.pres ||| usedS, sonly := t.sonly || h.vec })
    match s1.me.pendingReply with
    | some id => { s1 with accs := Store.upd s1.accs id (fun a => { a with hold := { Held.none with sonly := s1.me.sonly } }) }
    | none => s1
  else
    let s1 := if s.iss.moved then s else s.updMe (fun t => { t with pc := t.after.1, left := t.after.2 })
    (s1.updMe (fun t => { t with sonly := keep && t.sonly, restamp := none })).holdBundle s0 h next0

/-- TRAP and HVC wait for a vector slot that has left the rotation, and are then issued alone (R152, R292).
DEDUCED, log entry 30. -/
def State.awaitVector (s : State) (a : Instr) : State :=
  { s.updMe (fun t => { t with sys := { t.sys with hargs := match a with
      | .hvc _ => some s.callArgs
      | _ => t.sys.hargs } }) with iss := { s.iss with stalled := true } }

/-- A bundle that waits to be issued again keeps its exemption from a debug match and its single step; else a single step
ends with it (R303, R304). DEDUCED, log entry 36. -/
def State.endStep (s : State) (who : Nat) (exempt : Bool) : State :=
  { s.updThread who (fun t =>
      if s.iss.stalled then { t with sys := { t.sys with noMatch := t.sys.noMatch || exempt } }
      else if t.sys.stepping then { t with sys := { t.sys with stepping := false, halted := true } } else t) with
      iss := Issue.idle }

/-- Both slots of a decoded bundle. -/
def State.slots (run : Instr → State → Host.Outcome State Fault Refusal) (a b : Instr) (s : State) :
    Host.Outcome State Fault Refusal :=
  let t := s.me
  let srcA := s.slotSources a
  let srcB := s.slotSources b
  match t.absent (srcA ++ srcB) with
  | some r => .next (s.stall (.chan r))
  | none => match t.poisoned (srcA ++ srcB) with
    | some r => .next (s.trap 0x13 (Config.poisonValue (r.setWidth 64)))
    | none =>
      let s0 := { s with iss := { s.iss with snap := some t.g } }
      let used := chanMask (srcA ++ srcB)
      andThen (run a s0) (fun t1 =>
        if t1.iss.trapped ∧ ¬ lateTrap a then .next (t1.updMe (fun t => { t with restamp := none }))
        else if t1.standsWhole then .next t1
        else
          let sv := match a with
            | .mts d crn => if crn = 7 then s0.updMe (fun t => { t with frm := s0.reg d }) else s0
            | _ => s0
          andThen (run b sv) (fun t2 =>
            if t2.iss.trapped then andThen (run b s0) (fun t2' => .next t2')
            else if t2.iss.stalled then andThen (run b s0) (fun t2' => .next t2')
            else
              let use (x : State) : State := x.updMe (fun t => { t with pres := t.pres &&& ~~~ used })
              andThen (run b (use sv)) (fun t3 =>
                let w := (use sv).vectorWrites b t3
                let usedS := chanMask srcA
                let h : Held := { used := used, usedV := chanMask srcB &&& ~~~ usedS, vec := decide (b ≠ .vnop)
                                  sonly := t.sonly, reg := w.1, bytes := w.2 }
                let fin (u : State) : State := (u.chargeSlots a b).endBundle (use sv) (decide (a = .eret)) usedS h s.next
                if lateTrap a ∧ t3.me.waits ≠ [] then .next (fin (t3.awaitVector a))
                else andThen (run a t3) (fun t4 => .next (fin t4)))))

/-- The bundle of the thread in issue (R289 for the order of its traps). -/
def State.bundle (run : Instr → State → Host.Outcome State Fault Refusal) (s : State) : Host.Outcome State Fault Refusal :=
  match s.me.sys.pend with
  | some (c, v) => .next ((s.updMe (fun t => { t with sys := { t.sys with pend := none } })).trap c v)
  | none =>
    let (s1, inBlock) := s.enterBlock
    if ¬ inBlock then .next s1
    else
      let t := s1.me
      let s2 := (s1.charge (s1.mapOf s1.cur) 5000).updMe (fun t => { t with sys := { t.sys with noMatch := false } })
      if t.debugMatch then .next (s2.trap 0x15 t.pc)
      else match s2.peekCode s2.cur t.code t.pc.toNat with
        | none => .next s2
        | some w => match decodeChecks w t.level (roleOf s2.cur) with
          | .error c => .next (s2.trap c w)
          | .ok (a, b) => s2.slots run a (if t.sonly then .vnop else b)

/-- What follows an issue cycle: the bundle of the thread it chose. -/
def State.afterIssue (run : Instr → State → Host.Outcome State Fault Refusal) (s : State) : Host.Outcome State Fault Refusal :=
  match s.iss.who with
  | none => .next s
  | some who => andThen (s.bundle run) (fun s1 => .next (s1.endStep who (s.thread who).sys.noMatch))

end Sys2Proof.Machine
end

