-- ==== Sys2Proof/Machine/Schedule.lean ====
section
/-! DEFINITION. What a step performs (DESIGN CHOICE, log entry 3): the schedule's head, else the first event of the hardware that is due,
else a core's issue cycle. The meaning of an instruction is the parameter `run`. -/

namespace Sys2Proof.Machine

/-! ## Events -/

/-- The rows of the table that happen by themselves; the others are instructions, or parts of one that MFP and MTP
perform. -/
def autonomous (i : Instr) : Bool :=
  match i with
  | .callLatch _ | .callReply _ | .partitionRegisterWrite _ _ | .bindVf _ | .debugSelect _ | .debugHalt _ | .debugRelease _
  | .debugStep _ | .debugDataAccess _ _ => false
  | _ => i.isEvent

/-- The events of the always-on domain and the management port, which reach a module whose clocks stand (R354, R358).
DEDUCED, log entry 58. -/
def managementEvent (i : Instr) : Bool :=
  match i with
  | .coldStart _ | .warmStart _ | .startTimeout | .recoveryImageLoad _ | .freezeCommand | .readout _ _ _
  | .standbyPowerLoss _ | .attestationRequest _ => true
  | _ => false

/-- The causes of a freeze that reach a module whose start is under way as well (R354, R358). -/
def startEvent (i : Instr) : Bool :=
  match i with
  | .uncorrectableError c _ => decide (c = 5)
  | .powerReport _ _ _ | .powerExcursion => true
  | _ => false

/-- An event that cannot reach the module: its clocks stand. -/
def State.shut (s : State) (i : Instr) : Bool :=
  s.frozen && !managementEvent i && !(s.mod.boot.starting.isSome && startEvent i)

/-- Performs an event; an issue cycle goes on with the bundle of the thread it chose. -/
def State.perform1 (run : Instr → State → Host.Outcome State Fault Refusal) (i : Instr) (s : State) :
    Host.Outcome State Fault Refusal :=
  match i with
  | .issueCycle c => andThen (run (.issueCycle c) s) (fun s1 => s1.afterIssue run)
  | i => run i s

/-! ## Events that may be due -/

/-- Accesses, tenure, deliveries and contexts under way. -/
def State.memoryEvents (s : State) : List Instr :=
  (Store.keys s.mod.net.packets).map .packetReassembly
    ++ (Store.keys s.accs).flatMap (fun k => [.remoteScratchpadAccess k, .homeAccess k, .accessReply k])
    ++ (Store.keys s.treqs).flatMap (fun k => [.tenureRequest k, .tenureGrant k])
    ++ (Store.keys s.tens).flatMap (fun k => [.recall k, .forcedPublish k])
    ++ (Store.keys s.treqs).flatMap (fun a => (Store.keys s.treqs).map (.conflictReport a))
    ++ (Store.keys s.pushes).map .haloPush
    ++ (Store.keys s.sync.sends).map .sendLanding
    ++ (Store.keys s.sync.ctxs).flatMap (fun k => [.contextArrival k, .contextAnswer k])
    ++ (Store.keys s.shoots).flatMap (fun k => match Store.find s.shoots k with
      | some x => (match (List.range 1024).find? (fun t => !x.seen.contains t) with
          | some t => [.shootdownInvalidate k t]
          | none => []) ++ [.shootdownAck k]
      | none => [])
    ++ [.flitHop, .goldenTokenStep]

/-- Sweeps, jobs, faults and mirrored operations. -/
def State.engineEvents (s : State) : List Instr :=
  (Store.keys s.eng.sweeps).flatMap (fun c => [.sweepStart c 1, .sweepFinish c])
    ++ (Store.keys s.eng.jobs).flatMap (fun j =>
      [.jobStart j 1, .streamSectorLand j, .mergeContribution j, .gradientBlock j, .weightRead j, .jobComplete j
        , .matrixOpFinish j, .jobFault j])
    ++ (Store.keys s.eng.faults).map (fun k => .faultBufferDrain (k % 4) (k / 4))
    ++ (Store.keys s.eng.posted).flatMap (fun k =>
      [.faultActionResume (k / 2 ^ 64) (k % 2 ^ 64), .faultActionCancel (k / 2 ^ 64) (k % 2 ^ 64)])
    ++ (Store.keys s.eng.mirror).map .mirrorForward

/-- The placement of a waiting launch at the first origin where it fits. -/
def State.placeFor (s : State) (id : Nat) (l : Launch) : List Instr :=
  match s.originFor id l with
  | some k => [.launchPlacement id (k / 32) (k % 32)]
  | none => []

/-- The work of launches: placement, start, stealing, phases and the Circus. -/
def State.launchEvents (s : State) : List Instr :=
  (s.mod.host.queues.map (fun q => .launchDispatch (q.1 / 4096) (q.1 % 4096)))
    ++ s.launches.flatMap (fun l => match l.2.phase with
      | .waiting => s.placeFor l.1 l.2
      | .placed => [.launchStart l.1]
      | .running =>
        (List.range l.2.cores).map (fun j => let (tile, role) := l.2.coreOfIndex j; .takeWork (tile * 3 + role))
          ++ l.2.work.steals.flatMap (fun x => match x.2 with
            | .asking (v :: _) => [.stealRequest l.1 x.1 v]
            | .asking [] | .answered _ _ _ => [.stealReply l.1 x.1]
            | .resting => [])
          ++ l.2.work.counts.flatMap (fun c => (l.2.neighbours c.1).map (.phaseCountMessage l.1 c.1))
          ++ [.circusRound l.1, .circusTokenPass l.1])

/-- Stops, budgets, root services, line fills, packets that wait at the ports, and the rest. -/
def State.moduleEvents (s : State) : List Instr :=
  s.parts.flatMap (fun p => match p.2.stop with
      | .armed _ => [.stopCycle p.1]
      | .flushing _ _ _ _ => [.flushTokenHop p.1]
      | .none | .stopped _ _ => [])
    ++ [.periodBoundary, .chargeApplication]
    ++ ((s.sync.calls.filter (fun q => decide (12 ≤ q.1))).flatMap (fun q => q.2.map (·.tid))
        ++ (Store.keys s.mod.service).filter (fun k => decide (k < 65536))).flatMap
      (fun t => [.pmove t, .demote t, .promote t, .resetvf t])
    ++ ((Store.keys s.mod.service).filter (fun k => decide (65536 ≤ k))).map (fun k =>
      .pagePlacementMove ((k - 65536) / 2 ^ 25) ((k - 65536) % 2 ^ 25) 0 0)
    ++ s.mod.resets.map (fun r => if r.2 then .functionLevelReset r.1 else .uncorrectableError 4 r.1)
    ++ (s.threads.filter (fun t => t.2.waits.any (fun w => match w with
      | .time _ => true
      | _ => false))).map (fun t => .restoreStopTimePassed t.1)
    ++ (s.threads.filter (fun t => t.2.work)).map (fun t => .instructionLineFill t.1)
    ++ ((List.range 16).find? (fun p => decide ((s.port p).state < 4))).toList.flatMap (fun p =>
      (Store.keys s.mod.link.inbox).map (.scaleupPacketReceive p))
    ++ [.powerExcursion]

/-- The first event of the hardware that is due: one that changes the state. DESIGN CHOICE, log entry 63. -/
def State.dueEvent (run : Instr → State → Host.Outcome State Fault Refusal) (s : State) : Option Instr :=
  (s.memoryEvents ++ s.engineEvents ++ s.launchEvents ++ s.moduleEvents).find? (fun i => match run i s with
    | .next t => decide (t ≠ s)
    | .fault _ | .refused _ => false)

/-- The next core with a bundle to issue on this cycle; else core 0, on the next cycle. -/
def State.nextCore (s : State) : Nat :=
  (((s.threads.filter (fun t => t.2.work)).map (fun t => t.1 / 16)).find? (fun c =>
    decide (s.lastCore < c) && (s.issuer c).isSome)).getD 0

/-- One step, of the meanings of `run`. -/
def State.stepWith (run : Instr → State → Host.Outcome State Fault Refusal) (s : State) : Host.Outcome State Fault Refusal :=
  match s.agenda with
  | i :: rest =>
    if s.shut i then .fault .frozen
    else if autonomous i then State.perform1 run i { s with agenda := rest }
    else .next { s with agenda := rest }
  | [] =>
    if s.frozen then .fault .frozen
    else match s.dueEvent run with
      | some i => State.perform1 run i s
      | none => State.perform1 run (.issueCycle s.nextCore) s

/-! ## A word placed for the next fetch -/

/-- The code label of a placed word: root 1. -/
def placedLabel : Word := 0x0010000000000000

/-- The header of a block of one bundle. -/
def placedHeader : Word := 0xFC04000000000000

/-- Management A-cores run what belongs to the hypervisor. -/
def placedMgmt (i : Instr) : Bool :=
  match i with
  | .mfp _ _ | .mtp _ _ | .sstop _ | .sstopCancel _ | .partxSave _ _ _ | .partxRestore _ _ _ => true
  | _ => false

/-- The role whose core runs an instruction. -/
def placedRole (i : Instr) : Nat := if roleOk 0 i then 0 else if roleOk 1 i then 1 else 2

/-- The level that a placed word runs at. -/
def placedLevel (i : Instr) (w : BitVec 32) : BitVec 2 :=
  if placedMgmt i then 2
  else if i.isScalar && decide (0x30 ≤ (Sys2Proof.slotOp w).toNat) then 1 else 0

/-- The partition of a placed word, bound to virtual function 0, with every share. -/
def placedPart (p : Part) : Part :=
  { p with valid := true, vf := 0, slots := 0xFFFF, banks := 0xFFFFFF, ways := 0xFFFF, chans := 0xFFFFFF, pagequota := 0xFFFFFFFF
           vslots := 0xFFFF, vbanks := 0xFFFFFF, stop := .none }

/-- A launch that runs on tile 0 with every slot and the whole B bank. -/
def placedLaunch : Launch :=
  { vf := 0, part := 0, queue := 0, phase := .running, row0 := 0, col0 := 0, rows := 1, cols := 1, slots := 0xFFFF, fused := false
    bbank := 8, code := placedLabel, entry := 0, arg0 := 0, arg1 := 0, slices := 1, start := 0, dn := false, irq := false, spill := 0
    limit := 1, allow := 0, pend := 0, done := 0
    work := { dealt := [], deques := [], arrivals := [], token := 0, tokMark := false, tokDue := false, rounds := 0, marks := []
              counts := [], heard := [], steals := [], spilled := [] } }

/-- The code node of a placed word, with its one page present. -/
def placedNode (map home frame : Nat) : Node :=
  { vf := map, kind := 5, order := 1, enc := false, ro := false, sup := false, extent := 65536, home := home
    words := Vector.replicate 5 0, kids := [], pages := [(0, .present frame)] }

/-- A state whose next step fetches and runs one bundle: an instruction in its slot, the other slot empty. -/
def State.placeWord (s : State) (i : Instr) (w : BitVec 32) : State :=
  let bundle : Word := if i.isVector then w.setWidth 64 else w.setWidth 64 <<< 32
  let mgmt := placedMgmt i
  let map := if mgmt then 256 else 0
  let core := if mgmt then 3074 else placedRole i
  let cyc := if core ≤ s.lastCore then s.cycle + 1 else s.cycle
  let tid := core * 16 + cyc % 16
  let id := s.maps.nextDesc
  let frame := (s.maps.freeFrame 0xFFFFFF).getD 0
  let t := s.thread tid
  let t1 : Thread := { t with
    pc := 0, left := 0, level := placedLevel i w, work := true, waits := [], sonly := false, last := none, code := placedLabel
    sys := { t.sys with halted := false, dbgmatch := 0, pend := none } }
  { s with
    agenda := .issueCycle core :: s.agenda, frozen := false
    threads := Store.put s.threads tid t1
    icache := { core := core, vf := map, label := placedLabel, line := 0, words := [placedHeader, bundle, 0, 0, 0, 0, 0, 0], node := id, far := none } :: s.icache
    dram := ((s.dram.zero (frame * 65536) 65536).writeLe (frame * 65536) 8 placedHeader.toNat).writeLe (frame * 65536 + 8) 8 bundle.toNat
    maps := { s.maps with
      nodes := Store.put s.maps.nodes id (placedNode map s.self frame), roots := Store.put s.maps.roots (map * 4096 + 1) (s.self, id)
      nextDesc := id + 64, frames := frame :: s.maps.frames }
    parts := Store.put s.parts 0 (placedPart (s.part 0))
    launches := if mgmt then s.launches else Store.put s.launches 0 placedLaunch }

end Sys2Proof.Machine
end

