-- ==== Sys2Proof/Machine/Step.lean ====
section
/-! DEFINITION. One step of the machine, and the placing of a word where the next step fetches. -/

namespace Sys2Proof.Machine

/-- One step. -/
def step (s : State) : Host.Outcome State Fault Refusal := s.stepWith exec

/-- The state with a word of the opcode table stored where the next step fetches: a block of one bundle in a code node,
a launch or a management thread that runs it, and the issue cycle of its core at the head of the schedule (DESIGN
CHOICE, log entry 3). -/
def State.withFetchWord (s : State) (nbits w : Nat) : State :=
  match decodeTableWord nbits w with
  | some i =>
    let x := BitVec.ofNat 32 (if nbits ≤ 32 then w else if i.isVector then w else w / 2 ^ 32)
    s.placeWord i x
  | none => s.placeWord .snop (BitVec.ofNat 32 w)

end Sys2Proof.Machine
end

