-- ==== Sys2Proof/Safety.lean ====
section
/-! DEFINITION. What counts as a safe state and a safe run (the memories in canonical form, the clocks running, no step
that stops), and the terms in which claims say what a step leaves alone. -/

namespace Sys2Proof.Machine

/-- Every memory is in canonical form, so that equal memories are equal data. -/
def State.memOk (s : State) : Bool := s.spad.wf && s.dram.wf && s.eng.bbank.wf && s.eng.acc.wf

/-- The module can take a step: its clocks run. -/
def State.live (s : State) : Bool := !s.frozen

/-- A step from here answers a next state. -/
def State.steps (s : State) : Prop := ∃ t, step s = .next t

/-- A run of `n` steps that never stops. -/
def safeRun : Nat → State → Prop
  | 0, _ => True
  | n + 1, s => ∃ t, step s = .next t ∧ safeRun n t

/-- An instruction or event answers a next state, of which `P` holds. -/
def completes (i : Instr) (s : State) (P : State → Prop) : Prop := ∃ t, exec i s = .next t ∧ P t

/-- Every byte of the four memories (scratchpad, package memory, B banks, accumulators) reads as before. -/
def sameBytes (s t : State) : Prop :=
  (∀ a, t.spad.read a = s.spad.read a) ∧ (∀ a, t.dram.read a = s.dram.read a)
    ∧ (∀ a, t.eng.bbank.read a = s.eng.bbank.read a) ∧ (∀ a, t.eng.acc.read a = s.eng.acc.read a)

/-- Nothing differs but one thread's own record. -/
def onlyThread (s t : State) (tid : Nat) : Prop :=
  t = { s with threads := t.threads } ∧ ∀ k, k ≠ tid → t.thread k = s.thread k

/-- Nothing differs but the record of the thread in issue and the issue registers. -/
def onlyIssue (s t : State) : Prop :=
  t = { s with threads := t.threads, iss := t.iss } ∧ ∀ k, k ≠ s.cur → t.thread k = s.thread k

/-- A thread's record after a write of register `d`: g0 discards the value; any other register holds it, free of poison
and, for a channel register, present; the other registers, and everything else of the thread, are as they were. -/
def regWrite (x y : Thread) (d : Reg) (v : Word) : Prop :=
  y = { x with g := y.g, pois := y.pois, pres := y.pres }
    ∧ (d = 0 → y = x)
    ∧ (d ≠ 0 → y.g[d.toNat] = v ∧ y.pois.getLsbD d.toNat = false ∧ (24 ≤ d.toNat → y.present d.toNat = true))
    ∧ ∀ r : Reg, r ≠ d → y.g[r.toNat] = x.g[r.toNat] ∧ y.pois.getLsbD r.toNat = x.pois.getLsbD r.toNat
        ∧ (24 ≤ r.toNat → y.present r.toNat = x.present r.toNat)

/-- The thread in issue wrote register `d` and nothing else changed. -/
def writesReg (s t : State) (d : Reg) (v : Word) : Prop :=
  onlyThread s t s.cur ∧ sameBytes s t ∧ regWrite s.me t.me d v

/-- An instruction's whole effect is a result in register `d`. -/
def results (i : Instr) (s : State) (d : Reg) (v : Word) : Prop := completes i s (fun t => writesReg s t d v)

/-- Control of the thread in issue passed to a place; nothing else changed. -/
def movesTo (s t : State) (pc : Word) (left : Nat) : Prop :=
  onlyIssue s t ∧ sameBytes s t ∧ t.me = { s.me with pc := pc, left := left } ∧ t.iss = { s.iss with moved := true }

/-- A place in a thread's code node holds a block header: it lies in the extent, it is a multiple of 8, and the word there has
the tag 0x3F, a LEN that is not 0 and zero in [3:0] (R110, R141). -/
def State.headerAt (s : State) (tid : Nat) (code t : Word) : Prop :=
  ∃ id n w, s.codeNode (s.mapOf tid) code = some (id, n) ∧ t.toNat < 2 ^ 63 ∧ t.toNat + 8 ≤ n.extent ∧ t.toNat % 8 = 0
    ∧ s.peekCode tid code t.toNat = some w ∧ w.toNat / 2 ^ 58 = 63 ∧ w.toNat / 2 ^ 50 % 256 ≠ 0 ∧ w.toNat % 16 = 0

/-- An access of the thread in issue, as it goes in flight with its bundle's place. -/
def State.access (s : State) (place : Place) (n : Nat) (op : AccOp) (d : Reg) (ord : MemOrd) (scope : Nat) (st : AccState)
    (k : Nat := place.order) : Access :=
  { tid := s.cur, holder := s.holderOf s.cur, place := place, n := n, op := op, dreg := d, ord := ord, scope := scope
    order := k, state := s.lostState place op st, shoot := none, hold := Held.none, pc := s.me.pc, left := s.me.left }

/-- A core's hardware has asked another module for something, for a thread: the request is outstanding, its packet leaves, and
nothing else changes. -/
def State.asksFor (s u : State) (h tid id : Nat) (lab : Word) (op : HwOp) : Prop :=
  let pkt : LinkPacket := { src := BitVec.ofNat 16 s.self, inc := s.mod.boot.inc, vf := s.mapOf tid
                            reset := (Store.find s.mod.link.own (s.mapOf tid)).getD 0, body := .hw s.next (s.agentOf tid) lab op }
  u = { s with next := s.next + 1, mod := { s.mod with link := { s.mod.link with
    asks := Store.put s.mod.link.asks s.next { peer := h, tid := tid, id := id, label := lab, op := op }
    outbox := s.mod.link.outbox ++ [(h, pkt)] } } }

/-- An operation on a label that has been performed at its home: only the reply, with its value, is outstanding. It may
wait for a shoot-down or a push. -/
def State.replyAccess (s : State) (l : Word) (d : Reg) (v : Word) (shoot : Option Nat) : Access :=
  { s.access (.glob 0 none 0 l) 0 (.reply none) d .plain 3 (.performed (some v) 0) with shoot := shoot }

/-- The module once a packet of the thread in issue has left for another one, which gets none when it is lost (R342, R343). -/
def State.modSent (s : State) (h : Nat) (body : LinkBody) : ModState :=
  if s.mod.link.lost.contains h then s.mod
  else
    let pkt : LinkPacket := { src := BitVec.ofNat 16 s.self, inc := s.mod.boot.inc, vf := s.mapOf s.cur
                              reset := (Store.find s.mod.link.own (s.mapOf s.cur)).getD 0, body := body }
    { s.mod with link := { s.mod.link with outbox := s.mod.link.outbox ++ [(h, pkt)] } }

/-- The thread in issue put an access in flight and left the rotation for its reply; nothing else changed. -/
def sends (s t : State) (a : Access) : Prop :=
  t = { s with accs := t.accs, threads := t.threads, next := s.next + 1 }
    ∧ Store.find t.accs s.next = some a ∧ (∀ k, k ≠ s.next → Store.find t.accs k = Store.find s.accs k)
    ∧ (∀ k, k ≠ s.cur → t.thread k = s.thread k)
    ∧ t.me = { s.me with waits := .access s.next :: s.me.waits }

/-- The instruction is an operation on another module's map, directory or Forum, and goes there in a packet of its own,
with the thread's identity and level; `v` is the answer of a query should that module be lost (R339, R343). A TACQ
leaves a note that its launch may hold tenure there (R87). -/
def calls (i : Instr) (s : State) (h : Nat) (f : FarCall) (d : Reg) (v : Option Word) : Prop :=
  completes i s (fun u =>
    let m := s.modSent h (.call s.next (s.agentOf s.cur) f)
    let note := ((s.holderOf s.cur).launch, h)
    u.mod = (match f.op with
      | .tacq .. => if s.mod.link.lost.contains h || s.mod.link.reach.contains note then m
                    else { m with link := { m.link with reach := note :: m.link.reach } }
      | _ => m)
    ∧ sends { s with mod := u.mod } u (s.access (.remote h (f.args.getD 0 0) 0) 0 (.far f v) d .plain 3 .sent))

/-- The reply of an access that has been performed reaches its thread in every state in which what it waits for is over: its
value is in the register, and the thread waits for it no more. -/
def answers (k : Nat) (a : Access) (v : Option Word) : Prop :=
  ∀ u : State, u.acc k = some a → u.shootDone a = true → completes (.accessReply k) u (fun w =>
    w = { u with accs := Store.del u.accs k, threads := w.threads } ∧ (∀ j, j ≠ a.tid → w.thread j = u.thread j)
    ∧ let x := { u.thread a.tid with waits := (u.thread a.tid).waits.filter (fun x => decide (x ≠ .access k)) }
      match v with
      | some v => regWrite x (w.thread a.tid) a.dreg v
      | none => w.thread a.tid = x)

/-- An instruction's own effect is that state change `s` to `s1`, with a reply on its way that writes register `d`. -/
def replies (i : Instr) (s s1 : State) (l : Word) (d : Reg) (v : Word) (shoot : Option Nat) : Prop :=
  completes i s (fun t => sends s1 t (s1.replyAccess l d v shoot)) ∧ answers s1.next (s1.replyAccess l d v shoot) (some v)

/-- The same, for a write of system state: the reply brings no value. -/
def acks (i : Instr) (s s1 : State) : Prop :=
  let a := s1.access (.glob 0 none 0 0) 0 (.reply none) 0 .plain 3 (.performed none 0)
  completes i s (fun t => sends s1 t a) ∧ answers s1.next a none

/-- The record operands of a sweep member, in the order of its checks, with the type each must have (none: the member's own
rule), the record it writes, its rounding field and VRED's register (Tables 10.3 to 10.8). -/
def sweepForm : Instr → Option (List (Reg × Option Nat) × Option Nat × Rnd × Reg)
  | .vadd d a b t r | .vsub d a b t r | .vmul d a b t r | .vdiv d a b t r | .vfma d a b t r | .vfms d a b t r =>
    some ([(d, some t.code.toNat), (a, some t.code.toNat), (b, some t.code.toNat)], some 0, r, 0)
  | .vmin d a b t | .vmax d a b t | .vand d a b t | .vor d a b t | .vxor d a b t | .vshl d a b t | .vshr d a b t
  | .vsra d a b t =>
    some ([(d, some t.code.toNat), (a, some t.code.toNat), (b, some t.code.toNat)], some 0, Rnd.none, 0)
  | .vabs d a t | .vneg d a t | .vcpy d a t | .vbcast d a t =>
    some ([(d, some t.code.toNat), (a, some t.code.toNat)], some 0, Rnd.none, 0)
  | .vsqrt d a t r | .vrcp d a t r | .vrsq d a t r | .vexp d a t r | .vexp2 d a t r | .vlog2 d a t r | .vtanh d a t r
  | .vsigm d a t r | .vscan d a t r _ => some ([(d, some t.code.toNat), (a, some t.code.toNat)], some 0, r, 0)
  | .vcmp d a b t _ => some ([(d, some 4), (a, some t.code.toNat), (b, some t.code.toNat)], some 0, Rnd.none, 0)
  | .vsel a b c t => some ([(a, some t.code.toNat), (b, some 4), (c, some t.code.toNat)], some 0, Rnd.none, 0)
  | .vred d a t r _ => some ([(a, some t.code.toNat)], none, r, d)
  | .vcvt d a t r => some ([(d, some t.code.toNat), (a, none)], some 0, r, 0)
  | .vpack d a r => some ([(d, some 12), (a, none)], some 0, r, 0)
  | .vunpk d a t r => some ([(d, some t.code.toNat), (a, some 12)], some 0, r, 0)
  | .vgath d a b t | .vscat d a b t =>
    some ([(d, some t.code.toNat), (a, some t.code.toNat), (b, some 6)], some 0, Rnd.none, 0)
  | .viota d t => some ([(d, some t.code.toNat)], some 0, Rnd.none, 0)
  | _ => none

/-- The record that an address on the issuing tile names passes rows 1 to 4 of Table 10.1 and holds no poison. -/
def State.recordHere (s : State) (a : Word) (r : Shape) : Prop :=
  s.cur < 49152 ∧ ∃ key, s.localAddr s.cur a = .ok key ∧ key % 32 = 0 ∧ key / 2 ^ 20 = s.cur / 48
    ∧ s.spadPoisoned key 32 = false ∧ shapeOk (s.shapeWords key) = true ∧ shapeOf (s.shapeWords key) = r

/-- A record that is no channel and whose elements, or the first few of them that are read, are aligned, on the issuing tile
and, for a destination, in no tagged unit (rows 6 to 8 of Table 10.1). -/
def State.placed (s : State) (r : Shape) (dest : Bool) (few : Option Nat) : Prop :=
  r.chan = false ∧ (r.ty = 12 ∨ r.base.toNat % r.width = 0)
    ∧ s.outsideOf s.cur r (match few with
      | some n => r.places.take n
      | none => r.places) = none
    ∧ (dest = true → s.taggedIn s.cur r = none)

/-- A channel record that names a thread to send to, as a destination, or the issuing core, as a source (R193). -/
def State.chanPlaced (s : State) (r : Shape) (dest : Bool) : Prop :=
  r.chan = true ∧ (dest = true → ∃ t, s.sendTarget (r.base &&& 0xFFFFFFFF) = some t)
    ∧ (dest = false → r.base.setWidth 32 = s.coreWord s.cur)

/-- A job entered the tile's table under the next number, with the edges that its footprint takes from the launch's
incomplete jobs on the tile; of the rest only thread records may differ. -/
def issuesJob (s t : State) (j : Job) : Prop :=
  t = { s with threads := t.threads, next := s.next + 1, eng := { s.eng with jobs := t.eng.jobs } }
    ∧ Store.find t.eng.jobs s.next = some { j with edges := s.edgesFor j.tid j.launch j.foot }
    ∧ ∀ k, k ≠ s.next → Store.find t.eng.jobs k = Store.find s.eng.jobs k

/-- The registers, flags, mode and control state of a thread are as before; only the reasons for which it is out of the
rotation may differ. -/
def waitsOnly (x y : Thread) : Prop := y = { x with waits := y.waits }

end Sys2Proof.Machine
end

