-- ==== Sys2Proof/Certificates/Slice0/Obligations.lean ====
section
/-! DEFINITION. What the provers are asked to prove, each from the spec's numbered rules. -/

open Sys2Proof Sys2Proof.Machine

/-! ## Scalar -/

/-- (a) R137, Table 8.1: arithmetic of the ALU group on 64-bit values `a`, `b`; nothing but g[d] changes.
(b) R137, Table 8.1: bitwise members, shifts by the low six bits of the second operand, extensions and bit counts.
(c) R137, Table 8.1: CLZ, CTZ and POPC count leading zeros, trailing zeros and ones, from 0 to 64. -/
def Obligations.AluResults : Prop :=
  (∀ (s : State) (d a b : Reg), let x := s.reg a; let y := s.reg b
       results (.add d a b) s d (BitVec.ofNat 64 (x.toNat + y.toNat))
       ∧ results (.sub d a b) s d (BitVec.ofNat 64 (x.toNat + 2 ^ 64 - y.toNat))
       ∧ results (.mul d a b) s d (BitVec.ofNat 64 (x.toNat * y.toNat))
       ∧ results (.mulh d a b) s d (BitVec.ofInt 64 (x.toInt * y.toInt / 2 ^ 64))
       ∧ results (.mulhn d a b) s d (BitVec.ofNat 64 (x.toNat * y.toNat / 2 ^ 64))
       ∧ results (.div d a b) s d (if y = 0 then BitVec.allOnes 64 else BitVec.ofInt 64 (x.toInt.tdiv y.toInt))
       ∧ results (.divn d a b) s d (if y = 0 then BitVec.allOnes 64 else BitVec.ofNat 64 (x.toNat / y.toNat))
       ∧ results (.rem d a b) s d (if y = 0 then x else BitVec.ofInt 64 (x.toInt - y.toInt * x.toInt.tdiv y.toInt))
       ∧ results (.remn d a b) s d (if y = 0 then x else BitVec.ofNat 64 (x.toNat % y.toNat))
       ∧ results (.min d a b) s d (if x.toInt < y.toInt then x else y)
       ∧ results (.max d a b) s d (if x.toInt < y.toInt then y else x)
       ∧ results (.minn d a b) s d (BitVec.ofNat 64 (Nat.min x.toNat y.toNat))
       ∧ results (.maxn d a b) s d (BitVec.ofNat 64 (Nat.max x.toNat y.toNat)))
  ∧ (∀ (s : State) (d a b : Reg), let x := s.reg a; let y := s.reg b; let k := y.toNat % 64
       results (.and d a b) s d (x &&& y)
       ∧ results (.or d a b) s d (x ||| y)
       ∧ results (.xor d a b) s d (x ^^^ y)
       ∧ results (.andn d a b) s d (x &&& ~~~y)
       ∧ results (.shl d a b) s d (BitVec.ofNat 64 (x.toNat * 2 ^ k))
       ∧ results (.shr d a b) s d (BitVec.ofNat 64 (x.toNat / 2 ^ k))
       ∧ results (.sra d a b) s d (BitVec.ofInt 64 (x.toInt / 2 ^ k))
       ∧ results (.rol d a b) s d (BitVec.ofNat 64 (x.toNat * 2 ^ k) ||| BitVec.ofNat 64 (x.toNat / 2 ^ (64 - k)))
       ∧ results (.sext8 d a) s d (BitVec.ofInt 64 (x.setWidth 8).toInt)
       ∧ results (.sext16 d a) s d (BitVec.ofInt 64 (x.setWidth 16).toInt)
       ∧ results (.sext32 d a) s d (BitVec.ofInt 64 (x.setWidth 32).toInt)
       ∧ results (.zext8 d a) s d (BitVec.ofNat 64 (x.toNat % 2 ^ 8))
       ∧ results (.zext16 d a) s d (BitVec.ofNat 64 (x.toNat % 2 ^ 16))
       ∧ results (.zext32 d a) s d (BitVec.ofNat 64 (x.toNat % 2 ^ 32)))
  ∧ (∀ (s : State) (d a : Reg), let x := s.reg a
       (∃ n : Nat, n ≤ 64 ∧ (∀ i, i < n → x.getLsbD (63 - i) = false) ∧ (n < 64 → x.getLsbD (63 - n) = true)
         ∧ results (.clz d a) s d (BitVec.ofNat 64 n))
       ∧ (∃ n : Nat, n ≤ 64 ∧ (∀ i, i < n → x.getLsbD i = false) ∧ (n < 64 → x.getLsbD n = true)
         ∧ results (.ctz d a) s d (BitVec.ofNat 64 n))
       ∧ results (.popc d a) s d (BitVec.ofNat 64 ((List.range 64).countP (fun i => x.getLsbD i))))

/-- R138, Table 8.2, with the immediates of Table 6.5; SNOP and VNOP have no effect (R111). -/
def Obligations.ImmediateResults : Prop :=
  ∀ (s : State) (d a : Reg) (i : BitVec 16) (k : BitVec 6), let x := s.reg a
    results (.addi d a i) s d (BitVec.ofInt 64 ((x.toNat : Int) + i.toInt))
    ∧ results (.andi d a i) s d (x &&& BitVec.ofNat 64 i.toNat)
    ∧ results (.ori d a i) s d (x ||| BitVec.ofNat 64 i.toNat)
    ∧ results (.xori d a i) s d (x ^^^ BitVec.ofNat 64 i.toNat)
    ∧ results (.shli d a k) s d (BitVec.ofNat 64 (x.toNat * 2 ^ k.toNat))
    ∧ results (.shri d a k) s d (BitVec.ofNat 64 (x.toNat / 2 ^ k.toNat))
    ∧ results (.srai d a k) s d (BitVec.ofInt 64 (x.toInt / 2 ^ k.toNat))
    ∧ results (.movi d i) s d (BitVec.ofInt 64 i.toInt)
    ∧ results (.movh d a i) s d (BitVec.ofNat 64 (x.toNat * 2 ^ 16 + i.toNat))
    ∧ exec .snop s = .next s ∧ exec .vnop s = .next s

/-- R139, R140, R25: where the condition holds nothing changes; else the next SKIP bundles are passed over, but none
beyond the end of the block, at whose end the next header follows (`left` is 0). -/
def Obligations.CompareAndSkip : Prop :=
  ∀ (s : State) (c : Cond) (k : BitVec 2) (a b : Reg) (i : BitVec 16),
    let holds (x y : Word) : Prop := match c with
      | .eq => x = y
      | .ne => x ≠ y
      | .lt => x.toInt < y.toInt
      | .ge => y.toInt ≤ x.toInt
      | .ltn => x.toNat < y.toNat
      | .gen => y.toNat ≤ x.toNat
      | .bs => x.getLsbD (y.toNat % 64) = true
      | .bc => x.getLsbD (y.toNat % 64) = false
    let imm : Word := match c with
      | .eq | .ne | .lt | .ge => BitVec.ofInt 64 i.toInt
      | .ltn | .gen | .bs | .bc => BitVec.ofNat 64 i.toNat
    let skipped := Nat.min k.toNat (s.me.left - 1)
    let skips (j : Instr) : Prop := completes j s (fun t =>
      movesTo s t (s.me.pc + BitVec.ofNat 64 (8 * (skipped + 1))) (s.me.left - 1 - skipped))
    (holds (s.reg a) (s.reg b) → exec (.cmp c k a b) s = .next s)
    ∧ (¬ holds (s.reg a) (s.reg b) → skips (.cmp c k a b))
    ∧ (holds (s.reg a) imm → exec (.cmpi c k a i) s = .next s)
    ∧ (¬ holds (s.reg a) imm → skips (.cmpi c k a i))

/-- (a) R141: a branch to a header within its code node passes control to it (`headerAt`, in the words of R141), and so does one
whose target passes the check (`targetCheck`); a target that fails it traps at the branch, with no link written. BAL writes
g30 and BRX g[d] with the link, the first header after their block; BRX takes its target from g[a] as it stood.
(b) R141: the target check. A code label that does not resolve gives its own trap; a target beyond the code node's extent
gives 0x08, one that is not a multiple of 8 gives 0x03, a word there that is no header 0x03 and that word, or 0x01 for LEN 0
or a non-zero [3:0]; a header passes. Where the page of the word holds no readable data the check passes and the fetch traps
(log entry 5), and so where another module homes the code and no line of it has come (log entry 41). -/
def Obligations.BranchesAndTargets : Prop :=
  (∀ (s : State) (d a : Reg) (off : BitVec 26),
       let t := s.me.pc + BitVec.ofInt 64 (8 * off.toInt)
       let link := s.me.pc + BitVec.ofNat 64 (8 * s.me.left)
       let good (x : Word) : Prop := s.headerAt s.cur s.me.code x ∨ s.targetCheck s.cur s.me.code x = none
       let bad (i : Instr) (x : Word) : Prop := ∀ c v, s.targetCheck s.cur s.me.code x = some (c, v) → exec i s = .next (s.trap c v)
       let goes (i : Instr) (x : Word) (r : Reg) : Prop := completes i s (fun u =>
         onlyIssue s u ∧ sameBytes s u ∧ u.iss = { s.iss with moved := true } ∧ u.me.pc = x ∧ u.me.left = 0
           ∧ regWrite { s.me with pc := x, left := 0 } u.me r link)
       (good t → completes (.b off) s (fun u => movesTo s u t 0)) ∧ bad (.b off) t
       ∧ (good t → goes (.bal off) t 30) ∧ bad (.bal off) t
       ∧ (good (s.reg a) → goes (.brx d a) (s.reg a) d) ∧ bad (.brx d a) (s.reg a))
  ∧ (∀ (s : State) (tid : Nat) (code t : Word),
       (∀ c v, s.codeExtent (coreOf tid) (s.mapOf tid) code = none → s.farHome (s.mapOf tid) code = none → (resolve s.maps (s.mapOf tid) code).result = .error (c, v) →
         s.targetCheck tid code t = some (c, v))
       ∧ (s.headerAt tid code t → s.targetCheck tid code t = none)
       ∧ (∀ (id : Nat) (n : Node), s.codeNode (s.mapOf tid) code = some (id, n) →
         s.codeExtent (coreOf tid) (s.mapOf tid) code = some n.extent)
       ∧ (∀ h, s.codeExtent (coreOf tid) (s.mapOf tid) code = none → s.farHome (s.mapOf tid) code = some h →
         s.peekCode tid code t.toNat = none → t.toNat < 2 ^ 63 → t.toNat % 8 = 0 → s.targetCheck tid code t = none)
       ∧ ∀ ext, s.codeExtent (coreOf tid) (s.mapOf tid) code = some ext →
       (2 ^ 63 ≤ t.toNat ∨ ext < t.toNat + 8 → s.targetCheck tid code t = some (0x08, t))
       ∧ (t.toNat < 2 ^ 63 → t.toNat + 8 ≤ ext →
         (t.toNat % 8 ≠ 0 → s.targetCheck tid code t = some (0x03, t))
         ∧ (t.toNat % 8 = 0 → s.peekCode tid code t.toNat = none → s.targetCheck tid code t = none)
         ∧ (t.toNat % 8 = 0 → ∀ w, s.peekCode tid code t.toNat = some w →
           (w.toNat / 2 ^ 58 ≠ 63 → s.targetCheck tid code t = some (0x03, w))
           ∧ (w.toNat / 2 ^ 58 = 63 → (w.toNat / 2 ^ 50 % 256 = 0 ∨ w.toNat % 16 ≠ 0) → s.targetCheck tid code t = some (0x01, w)))))

/-! ## Control registers, traps and returns -/

/-- (a) R150, R151, R286, R319, Tables 8.5 and 5.6: what MFS reads of every user control register, in a tenant thread and, for
cr.core, cr.slot and cr.lbase, in a management thread (its cr.part and cr.vf the spec leaves open). cr.lbase is the lowest bank
of those that the partition's threads see, 0 with no banks.
(b) R113, R151, Tables 5.6 and 8.5: MTS of a writable register stores the whole value and changes nothing else; a
reserved bit that is not zero traps with cause 0x01 and the value written, and nothing is stored.
Log entry 6: what the model chose here. -/
def Obligations.ControlRegisters : Prop :=
  (∀ (s : State) (d : Reg), let t := s.me
       results (.mfs d 4) s d (BitVec.ofNat 64 s.cycle)
       ∧ results (.mfs d 5) s d (BitVec.ofNat 64 s.time)
       ∧ results (.mfs d 6) s d t.fst ∧ results (.mfs d 7) s d t.frm ∧ results (.mfs d 8) s d t.uvec
       ∧ results (.mfs d 9) s d t.ucause ∧ results (.mfs d 10) s d t.uepc ∧ results (.mfs d 11) s d t.uval
       ∧ results (.mfs d 13) s d t.task ∧ results (.mfs d 14) s d (BitVec.ofNat 64 t.slice.toNat)
       ∧ results (.mfs d 15) s d t.code
       ∧ (49152 ≤ s.cur → s.cur < 49344 →
           results (.mfs d 0) s d
             (BitVec.ofNat 64 (2 ^ 31 + (s.cur - 49152) / 48 * 2 ^ 28 + s.cur / 16 % 3 * 64 + s.cur % 16))
           ∧ results (.mfs d 1) s d (BitVec.ofNat 64 (s.cur % 16)))
       ∧ (∀ p, s.partOf s.cur = some p → let view := (s.part p).viewSlot (s.cur % 16)
           results (.mfs d 0) s d (BitVec.ofNat 64
             ((s.cur / 1536 * 0x2000 + s.cur / 48 % 32 * 0x100 + s.cur / 16 % 3 * 0x40 + view) % 2 ^ 32))
           ∧ results (.mfs d 1) s d (BitVec.ofNat 64 view)
           ∧ results (.mfs d 2) s d (BitVec.ofNat 64 p)
           ∧ results (.mfs d 3) s d (BitVec.ofNat 64 (s.part p).vf)
           ∧ ((s.part p).vbanks = 0 → results (.mfs d 12) s d 0)
           ∧ ∀ b, (s.part p).vbanks.getLsbD b = true → (∀ i, i < b → (s.part p).vbanks.getLsbD i = false) →
               results (.mfs d 12) s d (BitVec.ofNat 64 b))
       ∧ (49152 ≤ s.cur → results (.mfs d 12) s d 0)
       ∧ ∀ crn : BitVec 16, ∃ v, results (.mfs d crn) s d v)
  ∧ (∀ (s : State) (d : Reg), let v := s.reg d
       let writes (crn : BitVec 16) (reserved : Word) (after : Thread) : Prop :=
         (v &&& reserved = 0 → completes (.mts d crn) s (fun t => onlyThread s t s.cur ∧ sameBytes s t ∧ t.me = after))
         ∧ (v &&& reserved ≠ 0 → exec (.mts d crn) s = .next (s.trap 0x01 v))
       writes 6 0xFFFFFFFFFFFFFF80 { s.me with fst := v }
       ∧ writes 7 0xFFFFFFFFFFFFFFFC { s.me with frm := v }
       ∧ writes 8 0xFFFFFF0000000006 { s.me with uvec := v }
       ∧ writes 9 0x7FFFFFFFFFFFFF00 { s.me with ucause := v }
       ∧ writes 10 0xFFFF000000000007 { s.me with uepc := v }
       ∧ writes 11 0 { s.me with uval := v }
       ∧ writes 13 0 { s.me with task := v })

/-- R153, Table 8.5: which traps go to the user handler, what that entry writes and leaves, and what a failed target check does.
`s1` is the state after the three saved registers are written. That a resumption point whose vector slot has been performed
is kept as such is SONLY of Table 19.5 (log entry 30); thread numbers from 2^20 up stand for operations of other modules (log
entry 41).
Log entry 41: what the model chose here. -/
def Obligations.UserTrapEntry : Prop :=
  ∀ (s : State) (tid cause : Nat) (v pc : Word) (left : Nat), tid < 2 ^ 20 → cause < 256 →
    let t := s.thread tid
    let eligible := t.level = 0 ∧ (cause = 0x0C ∨ cause = 0x0F ∨ cause = 0x14 ∨ cause = 0x16)
      ∧ t.uvec.getLsbD 0 = true ∧ t.ucause.getLsbD 63 = false
    let saved : Thread := { t with
      ucause := BitVec.ofNat 64 (2 ^ 63 + cause), uepc := epcWord pc left, uval := v, uonly := t.sonlyWord pc left }
    let s1 := s.setThread tid saved
    let target := t.uvec &&& 0xFFFFFFFFF8
    (¬ eligible → s.trapThread tid cause v pc left = s.enterFrame tid cause v pc left)
    ∧ (eligible → s.targetCheck tid t.code target = none →
        let u := s.trapThread tid cause v pc left
        onlyThread s u tid ∧ sameBytes s u ∧ u.thread tid = { saved with pc := target, left := 0, sonly := false })
    ∧ (eligible → ∀ c x, s.targetCheck tid t.code target = some (c, x) →
        s.trapThread tid cause v pc left = s1.enterFrame tid c x pc left)
    ∧ (epcWord pc left).extractLsb' 40 8 = BitVec.ofNat 8 left ∧ (epcWord pc left).extractLsb' 3 37 = pc.extractLsb' 3 37
    ∧ (epcWord pc left).extractLsb' 48 16 = 0 ∧ (epcWord pc left).extractLsb' 0 3 = 0

/-- R288: entry into the trapping thread's own frame: what it writes, the level and code it takes, and the two ways in
which it escalates instead. No general register and no user control register changes. That a resumption point whose vector
slot has been performed is kept as such is SONLY of Table 19.5 (log entry 30). -/
def Obligations.FrameEntry : Prop :=
  ∀ (s : State) (tid cause : Nat) (v pc : Word) (left : Nat), cause < 256 →
    let t := s.thread tid
    let saved : Thread := { t with sys := { t.sys with
      scause := BitVec.ofNat 64 (2 ^ 63 + t.level.toNat * 2 ^ 60 + cause), sepc := epcWord pc left, sval := v, sxcode := t.code
      sonly := t.sonlyWord pc left } }
    let s1 := s.setThread tid saved
    let target := t.sys.svec &&& 0xFFFFFFFFF8
    let u := s.enterFrame tid cause v pc left
    let enters (code : Word) : Prop := onlyThread s u tid ∧ sameBytes s u
      ∧ u.thread tid = { saved with level := if t.level = 0 then 1 else t.level, code := code, pc := target, left := 0, sonly := false }
    let node : Word := if 49152 ≤ tid then t.code else (s.part ((s.partOf tid).getD 0)).scode
    (t.sys.scause.getLsbD 63 = true ∨ t.sys.svec.getLsbD 0 = false → u = s.escalate tid cause v pc left)
    ∧ (t.sys.scause.getLsbD 63 = false → t.sys.svec.getLsbD 0 = true →
        (s.targetCheck tid node target = none → enters node)
        ∧ ∀ c x, s.targetCheck tid node target = some (c, x) → u = s1.escalate tid c target pc left)

/-- R290: escalation parks the thread and posts a call record of KIND 1 to the call queue of the level above on its die
(hypervisor 2, root firmware 3), with CODE and carg0 the cause, carg1 the value, carg2 the resumption word and carg3
cr.code; its frame registers stay; a root thread freezes the module. That the thread keeps the cause for a later
restoration is R295 and R320.
Log entry 59: what the model chose here. -/
def Obligations.Escalation : Prop :=
  ∀ (s : State) (tid cause : Nat) (v pc : Word) (left : Nat), cause < 256 →
    let t := s.thread tid
    let u := s.escalate tid cause v pc left
    let key := (if t.level.toNat ≤ 1 then 2 else 3) * 4 + dieOf tid
    (t.level = 3 → u = { s with frozen := true })
    ∧ (t.level ≠ 3 →
        u = { s with threads := u.threads, sync := { s.sync with calls := u.sync.calls } }
        ∧ (∀ k, k ≠ tid → u.thread k = s.thread k)
        ∧ u.thread tid = { t with waits := .parked :: t.waits, sonly := t.sonlyAt pc left, pc := pc, left := left, sys := { t.sys with pend := some (cause, v) } }
        ∧ (∀ k, k ≠ key → Store.find u.sync.calls k = Store.find s.sync.calls k)
        ∧ ∃ r : CallRec, (Store.find u.sync.calls key).getD [] = (Store.find s.sync.calls key).getD [] ++ [r]
            ∧ r.tid = tid ∧ r.args = [BitVec.ofNat 64 cause, v, epcWord pc left, t.code]
            ∧ r.callw.extractLsb' 48 16 = BitVec.ofNat 16 cause ∧ r.callw.extractLsb' 44 4 = 1)

/-- R154, R291: ERET returns from the user handler at user level, and through the frame above it, where FROM is not
above the level and the saved place passes its check (a header as a branch target, a bundle by the first two rows of
R141); else it traps with 0x02 and 0, or with the check's cause, and the state is as it was, INH still 1. It is the one
opcode from 0x30 to 0x37 that decode permits at user level. That the thread's next bundle is exempt from one debug
match is R303.
Log entry 30: what the model chose here. -/
def Obligations.Returns : Prop :=
  ∀ (s : State), let t := s.me
    let placeOk (code w : Word) : Option (Nat × Word) :=
      if w.extractLsb' 40 8 = 0 then s.targetCheck s.cur code (w &&& 0xFFFFFFFFF8)
      else s.offsetCheck s.cur code (w &&& 0xFFFFFFFFF8)
    let lands (u : State) (after : Thread) : Prop :=
      onlyIssue s u ∧ sameBytes s u ∧ u.iss = { s.iss with moved := true } ∧ u.me = after
    (t.level = 0 → t.ucause.getLsbD 63 = false → exec .eret s = .next (s.trap 0x02 0))
    ∧ (t.level = 0 → t.ucause.getLsbD 63 = true → ∀ c x, placeOk t.code t.uepc = some (c, x) →
        exec .eret s = .next (s.trap c x))
    ∧ (t.level = 0 → t.ucause.getLsbD 63 = true → placeOk t.code t.uepc = none →
        completes .eret s (fun u => lands u { t with
          ucause := t.ucause &&& 0x7FFFFFFFFFFFFFFF, live := none, sonly := decide (t.uonly = some t.uepc), uonly := none
          pc := t.uepc &&& 0xFFFFFFFFF8
          left := (t.uepc.extractLsb' 40 8).toNat, sys := { t.sys with noMatch := true } }))
    ∧ (t.level ≠ 0 → t.sys.scause.getLsbD 63 = false ∨ t.level.toNat < (t.sys.scause.extractLsb' 60 2).toNat →
        exec .eret s = .next (s.trap 0x02 0))
    ∧ (t.level ≠ 0 → t.sys.scause.getLsbD 63 = true → (t.sys.scause.extractLsb' 60 2).toNat ≤ t.level.toNat →
        (∀ c x, placeOk t.sys.sxcode t.sys.sepc = some (c, x) → exec .eret s = .next (s.trap c x))
        ∧ (placeOk t.sys.sxcode t.sys.sepc = none → completes .eret s (fun u => lands u { t with
            code := t.sys.sxcode, level := t.sys.scause.extractLsb' 60 2, live := none
            sonly := decide (t.sys.sonly = some t.sys.sepc), pc := t.sys.sepc &&& 0xFFFFFFFFF8
            left := (t.sys.sepc.extractLsb' 40 8).toNat
            sys := { t.sys with scause := t.sys.scause &&& 0x7FFFFFFFFFFFFFFF, noMatch := true, sonly := none } })))
    ∧ (decodeScalar 0xC0000000 = .ok .eret ∧ ∀ (w : Word) (role : Nat) (a b : Instr), 0x30 ≤ w.toNat / 2 ^ 58 → w.toNat / 2 ^ 58 ≤ 0x37 →
        decodeChecks w 0 role = .ok (a, b) → a = .eret ∧ w.toNat / 2 ^ 32 = 0xC0000000)

/-- (a) R152: TRAP raises cause 0x14 with its code, resuming after its bundle; at user level with an enabled user handler it
enters there, else it enters the thread's frame.
(b) R292, R294: HVC takes its thread out of the rotation, to resume after its bundle, and posts a record of KIND 0 with its
code and g1 to g4 as they stood at issue to the level above on its die: a supervisor's to the hypervisor (2), a hypervisor's
to the root (3). It first waits for the thread's stores that have been acknowledged and not performed (log entry 30: `hargs`
holds the arguments while it waits).
(c) R292 to R294: a thread of level 2 or 3 latches the oldest record of its level's call queue on its die by MFP of
cr.callq, which traps while it holds one and waits while there is none; MTP of cr.cdone answers it: a call returns its
caller with g1 and g2 written, or traps it with 0x02 and its code, and an escalated thread goes on where it was; the answer
is a release and waits for its thread's buffered stores.
Log entries 14, 30: what the model chose here. -/
def Obligations.TrapsAndCalls : Prop :=
  (∀ (s : State) (imm : BitVec 16), s.cur < 2 ^ 20 → let t := s.me
       let v := BitVec.ofNat 64 imm.toNat
       let gone (u : State) : Prop := onlyIssue s u ∧ sameBytes s u ∧ u.iss = { s.iss with moved := true, trapped := true }
       let node : Word := if 49152 ≤ s.cur then t.code else (s.part ((s.partOf s.cur).getD 0)).scode
       (t.level = 0 → t.uvec.getLsbD 0 = true → t.ucause.getLsbD 63 = false →
         s.targetCheck s.cur t.code (t.uvec &&& 0xFFFFFFFFF8) = none →
         completes (.trap imm) s (fun u => gone u ∧ u.me = { t with
           ucause := 0x8000000000000014, uepc := epcWord (t.pc + 8) (t.left - 1), uval := v, uonly := none
           pc := t.uvec &&& 0xFFFFFFFFF8, left := 0, sonly := false }))
       ∧ (t.level ≠ 0 ∨ t.uvec.getLsbD 0 = false ∨ t.ucause.getLsbD 63 = true →
         t.sys.scause.getLsbD 63 = false → t.sys.svec.getLsbD 0 = true →
         s.targetCheck s.cur node (t.sys.svec &&& 0xFFFFFFFFF8) = none →
         completes (.trap imm) s (fun u => gone u ∧ u.me = { t with
           level := if t.level = 0 then 1 else t.level, code := node, pc := t.sys.svec &&& 0xFFFFFFFFF8, left := 0, sonly := false
           sys := { t.sys with scause := BitVec.ofNat 64 (2 ^ 63 + t.level.toNat * 2 ^ 60 + 0x14)
                               sepc := epcWord (t.pc + 8) (t.left - 1), sval := v, sxcode := t.code
                               sonly := none } })))
  ∧ (∀ (s : State) (imm : BitVec 16), let t := s.me
       let key := (if t.level.toNat ≤ 1 then 2 else 3) * 4 + dieOf s.cur
       (s.relPending s.cur = true → exec (.hvc imm) s = .next (s.stall .order))
       ∧ (s.relPending s.cur = false → completes (.hvc imm) s (fun u =>
         u = { s with threads := u.threads, iss := { s.iss with moved := true }, sync := { s.sync with calls := u.sync.calls } }
         ∧ (∀ k, k ≠ s.cur → u.thread k = s.thread k)
         ∧ u.me = { t with waits := .call :: t.waits, pc := t.pc + 8, left := t.left - 1, sys := { t.sys with hargs := none } }
         ∧ (∀ k, k ≠ key → Store.find u.sync.calls k = Store.find s.sync.calls k)
         ∧ ∃ r : CallRec, (Store.find u.sync.calls key).getD [] = (Store.find s.sync.calls key).getD [] ++ [r]
             ∧ r.tid = s.cur ∧ (t.sys.hargs = none → r.args = [s.reg 1, s.reg 2, s.reg 3, s.reg 4])
             ∧ (∀ l, t.sys.hargs = some l → r.args = l) ∧ r.callw.extractLsb' 48 16 = imm ∧ r.callw.extractLsb' 44 4 = 0)))
  ∧ (∀ (s : State) (d : Reg), let t := s.me
       let key := t.level.toNat * 4 + dieOf s.cur
       let queue (u : State) : List CallRec := (Store.find u.sync.calls key).getD []
       let v := s.reg d
       2 ≤ t.level.toNat →
       (∀ i : Instr, i = .mfp d 0x120 ∨ i = .callLatch d →
         (t.sys.latch ≠ none → exec i s = .next (s.trap 0x01 0x120))
         ∧ (t.sys.latch = none → queue s = [] → exec i s = .next (s.stall .callq))
         ∧ (∀ c cs, t.sys.latch = none → queue s = c :: cs → completes i s (fun u =>
             u = { s with threads := u.threads, sync := { s.sync with calls := u.sync.calls } } ∧ queue u = cs
             ∧ (∀ k, k ≠ key → Store.find u.sync.calls k = Store.find s.sync.calls k) ∧ (∀ k, k ≠ s.cur → u.thread k = s.thread k)
             ∧ regWrite { t with sys := { t.sys with latch := some c, cret0 := 0, cret1 := 0 } } u.me d c.callw)))
       ∧ (∀ i : Instr, i = .mtp d 0x128 ∨ i = .callReply d → v.toNat ≤ 1 → s.relPending s.cur = true → exec i s = .next (s.stall .order))
       ∧ (∀ i : Instr, i = .mtp d 0x128 ∨ i = .callReply d → v.toNat ≤ 1 → s.relPending s.cur = false →
         (t.sys.latch = none → exec i s = .next (s.trap 0x01 0x128))
         ∧ (∀ c, t.sys.latch = some c → c.tid ≠ s.cur →
           let free : Thread := { t with sys := { t.sys with latch := none } }
           let kind := c.callw.toNat / 2 ^ 44 % 16
           let x := s.thread c.tid
           let code : Word := BitVec.ofNat 64 (c.callw.toNat / 2 ^ 48)
           (kind = 0 → Why.call ∈ x.waits → v = 0 → completes i s (fun u => u = { s with threads := u.threads } ∧ u.me = free
             ∧ (∀ k, k ≠ s.cur → k ≠ c.tid → u.thread k = s.thread k)
             ∧ u.thread c.tid = ((({ x with waits := x.waits.filter (fun w => decide (w ≠ Why.call)) } : Thread).setReg 1 t.sys.cret0).setReg 2 t.sys.cret1)))
           ∧ (kind = 0 → Why.call ∈ x.waits → v = 1 → exec i s
             = .next (((s.setThread s.cur free).unblock c.tid .call).trapLater c.tid 0x02 code x.pc x.left))
           ∧ (kind = 1 → Why.parked ∈ x.waits → v = 0 → completes i s (fun u => u = { s with threads := u.threads } ∧ u.me = free
             ∧ (∀ k, k ≠ s.cur → k ≠ c.tid → u.thread k = s.thread k)
             ∧ let w := c.args.getD 2 0
               u.thread c.tid = { x with waits := x.waits.filter (fun w => decide (w ≠ .parked)), pc := w &&& 0xFFFFFFFFF8
                                         left := (w.extractLsb' 40 8).toNat, sys := { x.sys with pend := none } }))
           ∧ (kind = 1 → v = 1 → completes i s (fun u => u = { s with threads := u.threads } ∧ u.me = free
             ∧ ∀ k, k ≠ s.cur → u.thread k = s.thread k)))))

/-! ## Memory -/

/-- R4: `n` bytes are written and read little-endian, byte `i` holding bits [8i+7:8i]; every other byte is as it was;
and writing keeps the canonical form of a memory. -/
def Obligations.LittleEndianMemory : Prop :=
  ∀ (m : Memory) (a n v : Nat), let m' := m.writeLe a n v
    (∀ i, i < n → m'.read (a + i) = BitVec.ofNat 8 (v / 256 ^ i))
    ∧ (∀ b, b < a ∨ a + n ≤ b → m'.read b = m.read b)
    ∧ m'.readLe a n = v % 256 ^ n
    ∧ (m.wf = true → m'.wf = true)

/-- R70, R365, R319: the scratchpad place of a tenant thread's local address, by its forms (bit 62 the own tile, else
bit 63 a distance on the torus, else a tile), and the trap 0x05 of a non-zero reserved bit or a bank that the thread's
partition does not have. A place is tile * 2^20 + bank * 2^15 + offset. -/
def Obligations.LocalAddressing : Prop :=
  ∀ (s : State) (tid p : Nat) (a : Word), s.partOf tid = some p →
    let row := a.toNat / 2 ^ 53 % 32
    let col := a.toNat / 2 ^ 48 % 32
    let bank := a.toNat / 2 ^ 15 % 32
    let own := tid / 48
    let tile := if a.getLsbD 62 then own else if a.getLsbD 63 then (own / 32 + row) % 32 * 32 + (own % 32 + col) % 32
      else row * 32 + col
    (a.toNat / 2 ^ 58 % 16 ≠ 0 ∨ a.toNat / 2 ^ 20 % 2 ^ 28 ≠ 0 ∨ 23 < bank ∨ (s.part p).physBank bank = none →
      s.localAddr tid a = .error (0x05, a))
    ∧ (∀ b, a.toNat / 2 ^ 58 % 16 = 0 → a.toNat / 2 ^ 20 % 2 ^ 28 = 0 → bank ≤ 23 → (s.part p).physBank bank = some b →
      s.localAddr tid a = .ok (tile * 2 ^ 20 + b * 2 ^ 15 + a.toNat % 2 ^ 15))

/-- (a) R143, R146, R147: loads, stores, atomics and CAS on the issuing tile. `key` is the place of g[a] + g[x], `old` the
bytes there; the register result, the bytes written and the frame are as the rules give them. An access of release order
waits for the thread's stores (`relPending`). Flags are those of .fadd's one rounding.
(b) R143, R146, R147, R337, Table 2.1: a local access to another tile, or by a management thread, goes in flight with its place,
bytes and operation, on a packet of its own unless the tile is where the thread's router stands, and its thread leaves the
rotation.
(c) R146, Table 8.3: what an atomic writes, for values of `n` bytes.
(d) R143, R126, R142, R146, R147, R230, R359: the traps of a local access, in their order, with nothing changed before the trap: a
bad address, a misaligned one, a store, atomic or CAS to a tagged 16-byte unit, and a load, atomic or CAS of a poisoned unit
(whose value is open, log entry 4); and its waits, out of the rotation: a release for the thread's acknowledged stores, a load
for a stream window's watermark.
Log entries 12, 74: what the model chose here. -/
def Obligations.LocalAccessResults : Prop :=
  (∀ (s : State) (d a x : Reg) (sz : Size) (o : MemOrd) (p : Scope) (key : Nat),
       s.localAddr s.cur (s.reg a + s.reg x) = .ok key → key % sz.bytes = 0 → s.cur < 49152 → key / 2 ^ 20 = s.cur / 48 →
       (o = .rel ∨ o = .acqRel → s.relPending s.cur = false) →
       let n := sz.bytes
       let old := s.spad.readLe key n
       let cut (v : Word) : Nat := v.toNat % 2 ^ (8 * n)
       let stores (u : State) (v : Nat) : Prop :=
         u = { s with threads := u.threads, spad := u.spad } ∧ (∀ k, k ≠ s.cur → u.thread k = s.thread k)
         ∧ u.spad.readLe key n = v % 256 ^ n ∧ ∀ b, b < key ∨ key + n ≤ b → u.spad.read b = s.spad.read b
       let clean := s.tagged key = false ∧ s.spadPoisoned key n = false
       (s.windowBlocks key n = none → s.spadPoisoned key n = false → ∀ sx : Bool,
         results (.ldl d a x sz o p sx) s d
           (if sx = true ∧ 2 ^ (8 * n - 1) ≤ old then BitVec.ofInt 64 ((old : Int) - 2 ^ (8 * n)) else BitVec.ofNat 64 old))
       ∧ (s.tagged key = false → completes (.stl d a x sz o p) s (fun u => stores u (cut (s.reg d)) ∧ u.me = s.me))
       ∧ (clean → ∀ f : Aop, let r := amoNew f old (cut (s.reg d)) n (frmMode s.me.frm)
           completes (.amol d a x sz o p f) s (fun u => stores u r.1
             ∧ regWrite { s.me with fst := if r.2 = 0 then s.me.fst else s.me.fst ||| BitVec.ofNat 64 r.2 } u.me d (BitVec.ofNat 64 old)))
       ∧ (clean → completes (.casl d a x sz o p) s (fun u =>
           stores u (if old = cut (s.reg d) then cut (s.reg (d + 1)) else old) ∧ regWrite s.me u.me d (BitVec.ofNat 64 old))))
  ∧ (∀ (s : State) (d a x : Reg) (sz : Size) (o : MemOrd) (p : Scope) (key : Nat),
       let addr := s.reg a + s.reg x
       s.localAddr s.cur addr = .ok key → key % sz.bytes = 0 → (49152 ≤ s.cur ∨ key / 2 ^ 20 ≠ s.cur / 48) →
       (o = .rel ∨ o = .acqRel → s.relPending s.cur = false) →
       let cut (v : Word) : Nat := v.toNat % 2 ^ (8 * sz.bytes)
       let flies (i : Instr) (op : AccOp) : Prop := completes i s (fun u =>
         u.mod = { s.mod with net := u.mod.net }
         ∧ (routerOf s.cur = key / 2 ^ 20 → u.mod = s.mod)
         ∧ (routerOf s.cur ≠ key / 2 ^ 20 → Store.find u.mod.net.packets s.next = some { total := 1, got := [] }
             ∧ ∀ f, f ∈ u.mod.net.flits ↔ f ∈ s.mod.net.flits ∨ f =
                 { packet := s.next, seq := 0, src := routerOf s.cur, dst := key / 2 ^ 20, at_ := routerOf s.cur, age := 0
                   golden := false, again := false, part := (s.partOf s.cur).getD 16 })
         ∧ sends { s with mod := u.mod } u (s.access (.spad key addr) sz.bytes op d o p.code.toNat .sent))
       (∀ sx, flies (.ldl d a x sz o p sx) (.load sx))
       ∧ flies (.stl d a x sz o p) (.store (cut (s.reg d)))
       ∧ (∀ f, flies (.amol d a x sz o p f) (.amo f (cut (s.reg d)) (frmMode s.me.frm)))
       ∧ flies (.casl d a x sz o p) (.cas (cut (s.reg d)) (cut (s.reg (d + 1)))))
  ∧ (∀ (old v n : Nat) (md : RMode), old < 2 ^ (8 * n) → v < 2 ^ (8 * n) → 0 < n →
       let sg (z : Nat) : Int := if 2 ^ (8 * n - 1) ≤ z then (z : Int) - 2 ^ (8 * n) else z
       let gives (f : Aop) (w : Nat) : Prop := amoNew f old v n md = (w, 0)
       gives .add ((old + v) % 2 ^ (8 * n)) ∧ gives .and (old &&& v) ∧ gives .or (old ||| v) ∧ gives .xor (old ^^^ v)
       ∧ gives .swap v ∧ gives .min (if sg v < sg old then v else old) ∧ gives .max (if sg old < sg v then v else old)
       ∧ gives .minn (if v < old then v else old) ∧ gives .maxn (if old < v then v else old)
       ∧ amoNew .fadd old v n md = addF32 md old v)
  ∧ (∀ (s : State) (d a x : Reg) (sz : Size) (o : MemOrd) (p : Scope) (sx : Bool) (f : Aop) (i : Instr),
       i = .ldl d a x sz o p sx ∨ i = .stl d a x sz o p ∨ i = .amol d a x sz o p f ∨ i = .casl d a x sz o p →
       let addr := s.reg a + s.reg x
       let cut (v : Word) : Nat := v.toNat % 2 ^ (8 * sz.bytes)
       let op : AccOp := match i with
         | .ldl .. => .load sx
         | .stl .. => .store (cut (s.reg d))
         | .amol .. => .amo f (cut (s.reg d)) (frmMode s.me.frm)
         | _ => .cas (cut (s.reg d)) (cut (s.reg (d + 1)))
       (∀ c v, s.localAddr s.cur addr = .error (c, v) → exec i s = .next (s.trap c v))
       ∧ (∀ key, s.localAddr s.cur addr = .ok key →
           (key % sz.bytes ≠ 0 → exec i s = .next (s.trap 0x04 addr))
           ∧ (key % sz.bytes = 0 → s.cur < 49152 → key / 2 ^ 20 = s.cur / 48 →
               (o = .rel ∨ o = .acqRel → s.relPending s.cur = false) → i ≠ .ldl d a x sz o p sx → s.tagged key = true →
               exec i s = .next (s.trap 0x0D addr))
           ∧ (key % sz.bytes = 0 → s.cur < 49152 → key / 2 ^ 20 = s.cur / 48 →
               (o = .rel ∨ o = .acqRel → s.relPending s.cur = false) → s.spadPoisoned key sz.bytes = true →
               i ≠ .stl d a x sz o p → (i = .ldl d a x sz o p sx ∧ s.windowBlocks key sz.bytes = none
                 ∨ i ≠ .ldl d a x sz o p sx ∧ s.tagged key = false) → exec i s = .next (s.trap 0x13 (Config.poisonValue addr)))
           ∧ (∀ w, key % sz.bytes = 0 → s.cur < 49152 → key / 2 ^ 20 = s.cur / 48 →
               (o = .rel ∨ o = .acqRel → s.relPending s.cur = false) → i = .ldl d a x sz o p sx →
               s.windowBlocks key sz.bytes = some w →
               completes i s (fun u => sends s u (s.access (.spad key addr) sz.bytes op d o p.code.toNat .sent)))
           ∧ (key % sz.bytes = 0 → (o = .rel ∨ o = .acqRel) → s.relPending s.cur = true →
               completes i s (fun u => sends s u (s.access (.spad key addr) sz.bytes op d o p.code.toNat .held)))))

/-- (a) R144, R146, R147, R247, R339, Table 2.1: an access to a label on this module that passes the checks of Translate goes in
flight with its place, bytes, operation and the ORDER kind of the descriptor that it found, and its thread leaves the rotation;
the translation's effects (`s1`) stay, and a trap of the checks is taken with the bundle. A label of another module goes in
flight to it, its packet with the thread's identity and level, label and operation, unless that module is lost, which fails it
with 0x06. It leaves the core only after the thread's stores that have been acknowledged and not performed where Table 12.1
orders it so (`mustWait`), and at once where there is none.
(b) R59 rows 4 to 6: the checks of the node that an access of `len` bytes reaches, in their order: 0x08 beyond the extent, 0x04
for an offset that is not a multiple of the length, 0x09 where RO, SUP or the code-node rule forbids the access. `size` is the
bytes of the node, or of the implicit child that the label names (R57, R269).
(c) R15, R55, R307, R308, R327, Table 19.1: the fields of a page-table entry by the page's state, and of an entry of the two
upper levels; and the page part of Translate: a present page passes, a demoted one traps with 0x10, a poisoned one with 0x12
or 0x13 by INTEG, and a page that has no entry is made present and zero in a free frame of a channel of its partition, with
all other frames as they were, or traps with 0x11 where no frame is free or the quota or the module's pool leaves no room.
(d) R148: FENCE of acquire or plain order has no effect on a thread none of whose accesses is outstanding; one of release
order waits until the thread's acknowledged stores have been performed, and then has none.
Log entries 7, 12, 26, 41: what the model chose here. -/
def Obligations.GlobalIssueAndFences : Prop :=
  (∀ (s : State) (d a x : Reg) (sz : Size) (o : MemOrd) (p : Scope),
       let l := s.reg a
       let off := s.reg x
       let home := s.homeOf (s.mapOf s.cur) l
       let cut (v : Word) : Nat := v.toNat % 2 ^ (8 * sz.bytes)
       let starts (s1 : State) (place : Place) (k : Nat) : AccState := if s1.mustWait s.cur place sz.bytes o k then .held else .sent
       let does (i : Instr) (kind : AccKind) (op : State → AccOp) : Prop :=
         (lblValid l = true ∧ home ≠ 0 ∧ home ≠ s.self → let place : Place := .remote home l off
           completes i s (fun u =>
             let who : Agent := { tid := s.cur, level := s.me.level.toNat, fused := (s.holderOf s.cur).fused
                                  launch := (s.holderOf s.cur).launch, core := s.coreWord s.cur }
             u.mod = (if s.mustWait s.cur place sz.bytes o 0 then s.mod else s.modSent home (.access s.next who l off sz.bytes (op s)))
             ∧ sends { s with mod := u.mod } u (s.access place sz.bytes (op s) d o p.code.toNat (starts s place 0) 0)))
         ∧ (¬ (lblValid l = true ∧ home ≠ 0 ∧ home ≠ s.self) → ∀ s1 r, s.translate s.cur kind l off sz.bytes = (s1, r) →
             (∀ c v, r = .error (c, v) → exec i s = .next (s1.trap c v))
             ∧ (∀ t : Target, r = .ok t → let place : Place := .glob t.node t.child off.toNat l
                 let k := s.orderFound s.cur l off t.node
                 completes i s (fun u => sends s1 u (s1.access place sz.bytes (op s) d o p.code.toNat (starts s1 place k) k))))
       (∀ sx, does (.ldg d a x sz o p sx) .load (fun _ => .load sx))
       ∧ does (.stg d a x sz o p) .store (fun s => .store (cut (s.reg d)))
       ∧ (∀ f, does (.amog d a x sz o p f) .store (fun s => .amo f (cut (s.reg d)) (frmMode s.me.frm)))
       ∧ does (.casg d a x sz o p) .store (fun s => .cas (cut (s.reg d)) (cut (s.reg (d + 1))))
       ∧ (∀ (place : Place) (n k : Nat), (∀ q b, (q, b) ∈ s.accs → b.tid = s.cur → b.state ≠ .accepted) →
           s.mustWait s.cur place n o k = false))
  ∧ (∀ (n : Node) (child : Option Nat) (kind : AccKind) (level : Nat) (l off : Word) (len : Nat),
       let size := match child with
         | some k => if n.kind = 4 then n.blockBytes else n.tileBytes k
         | none => n.extent
       let barred := (kind = .store ∧ (n.ro = true ∨ (n.kind = 5 ∧ level = 0))) ∨ (n.sup = true ∧ level = 0) ∨ (kind = .fetch ∧ n.kind ≠ 5)
       (size < off.toNat + len → accessCheck n child kind level l off len = some (0x08, l))
       ∧ (off.toNat + len ≤ size →
         (len ≠ 0 → off.toNat % len ≠ 0 → accessCheck n child kind level l off len = some (0x04, l))
         ∧ ((len = 0 ∨ off.toNat % len = 0) →
           (barred → accessCheck n child kind level l off len = some (0x09, l))
           ∧ (¬ barred → accessCheck n child kind level l off len = none))))
  ∧ ((∀ f d, f < 2 ^ 32 → d < 2 ^ 48 →
       let fields (e : Word) (st integ frame low : Nat) : Prop := e.toNat / 2 ^ 62 = st ∧ e.toNat / 2 ^ 61 % 2 = integ
         ∧ e.toNat / 2 ^ 48 % 2 ^ 13 = 0 ∧ e.toNat / 2 ^ 16 % 2 ^ 32 = frame ∧ e.toNat % 2 ^ 16 = low
       fields (Page.entry none) 0 0 0 0 ∧ fields (Page.entry (some (.present f))) 1 0 f 0
         ∧ fields (Page.entry (some (.demoted d))) 2 0 (d / 2 ^ 16) (d % 2 ^ 16)
         ∧ (∀ i, fields (Page.entry (some (.poisoned i f))) 3 (if i then 1 else 0) f 0)
         ∧ ∀ (n : Node) id level page, level < 2 → let span := if level = 0 then 2 ^ 16 else 2 ^ 8
           ((∃ p ∈ n.pages, p.1 / span = page / span) →
             fields (n.upperEntry id level page) 1 0 (Config.tableFrame id (level + 1) (page / span * span) % 2 ^ 32) 0)
           ∧ ((∀ p ∈ n.pages, p.1 / span ≠ page / span) → fields (n.upperEntry id level page) 0 0 0 0))
     ∧ ∀ (s : State) (map root page : Nat) (off : Word) (n : Node), s.node root = some n → let e := Store.find n.pages page
       (∀ f, e = some (.present f) → s.pageCheck map root page off = (s, none))
       ∧ (∀ d, e = some (.demoted d) → s.pageCheck map root page off = (s, some (0x10, off)))
       ∧ (∀ i f, e = some (.poisoned i f) → s.pageCheck map root page off = (s, some (if i then 0x12 else 0x13, off)))
       ∧ (∀ p, e = none → s.partOfVf map = some p → s.maps.isHost root = false → let need := s.pageNeed root page
         (s.maps.freeFrame (s.part p).chans = none → s.pageCheck map root page off = (s, some (0x11, off)))
         ∧ ∀ f, s.maps.freeFrame (s.part p).chans = some f → f ∉ s.maps.frames ∧ f < poolPages ∧ (s.part p).chans.getLsbD (frameChannel f % 24) = true
           ∧ (s.noRoom map need (s.maps.withPage root page f) = true → s.pageCheck map root page off = (s, some (0x11, off)))
           ∧ (s.noRoom map need (s.maps.withPage root page f) = false → ∃ u, s.pageCheck map root page off = (u, none)
             ∧ u.pageOf root page = some (.present f) ∧ (∀ o, o < 65536 → u.dram.read (f * 65536 + o) = 0)
             ∧ (∀ b, b / 65536 ≠ f → u.dram.read b = s.dram.read b) ∧ u.threads = s.threads ∧ u.spad = s.spad
             ∧ (u.part p).pageuse = (s.part p).pageuse + BitVec.ofNat 32 need ∧ (need = 1 ∨ need = 2))))
  ∧ (∀ (s : State) (o : MemOrd) (p : Scope),
       ((o = .plain ∨ o = .acq) ∨ (∀ k a, (k, a) ∈ s.accs → a.tid = s.cur → a.state ≠ .accepted) →
         exec (.fence o p) s = .next s)
       ∧ ((o = .rel ∨ o = .acqRel) → (∃ k a, (k, a) ∈ s.accs ∧ a.tid = s.cur ∧ a.state = .accepted) →
         exec (.fence o p) s = .next (s.stall .fence)))

/-- (a) R143 to R145, R155, R175, R185, R277, R314: an access in flight is performed at its scratchpad bank or at its home as one step,
where its value, its flags or its trap are noted; a wait for GEN stays at the bank with its vector slot set free; an
acknowledged store leaves its buffer, and the access that its thread holds behind its stores leaves its core when it may
(`unhold`). A block write of a mirrored set is forwarded, and its reply waits for the answer
(`forwardAccess`); a store to ACTION of a fault record is noted (`noteAction`). The reply returns its thread to the rotation with
what the bundle held back done, the register written and the flags ORed, or with the trap taken at the access's bundle, after the sweep of that bundle where it has started; a
plain store to a label here may be acknowledged before it is performed.
(b) R81, R83, R84, R144, R146, R147: what an access does at its home, by byte of the storage root: a load gives the bytes as its
holder sees them, little-endian; a store, an atomic or a CAS traps with 0x0A where another holder has a tenure or its own is for
read, and else writes its bytes one by one: into the holder's own data where it holds the write tenure, else at the home, over
data released there before, whence the replicas that carry the byte get it; what reads the home waits for data that another
holder has released and not written back. (The value of 0x0A is open, log entry 4.)
Log entries 12, 30, 33, 34, 35, 74: what the model chose here. -/
def Obligations.AccessLife : Prop :=
  (∀ (s : State) (id : Nat) (a : Access), Store.find s.accs id = some a →
       let noted (u : State) (st : AccState) (k : Option Nat) : State :=
         { u with accs := Store.upd u.accs id (fun a => { a with state := st, shoot := a.shoot.or k }) }
       let held (s1 : State) : State := let q := s1.freeVector a.tid id a.hold
         { q.1 with accs := Store.upd q.1.accs id (fun a => { a with state := .waiting, hold := q.2 }) }
       (∀ key addr, a.place = .spad key addr → a.state = .sent → Store.find s.mod.net.packets id = none →
         (∀ s1 v fl, s.atBank key addr a.n a.op = .done s1 v fl →
           exec (.remoteScratchpadAccess id) s = .next (noted (s1.chargeAccess a) (.performed v fl) none))
         ∧ (∀ k v, s.atBank key addr a.n a.op = .later (.gen k v) →
           exec (.remoteScratchpadAccess id) s = .next (held (s.chargeAccess a)))
         ∧ (∀ c v, s.atBank key addr a.n a.op = .trap c v → exec (.remoteScratchpadAccess id) s = .next (s.setAccState id (.failed c v))))
       ∧ (∀ node child off l, a.place = .glob node child off l →
         let bytes := s.bytesOf { node := node, child := child } off a.n
         (a.state = .sent →
           (∀ s1 v fl, s.atHome a.holder bytes l (BitVec.ofNat 64 off) a.n a.op = .done s1 v fl →
             let q := (s1.chargeAccess a).forwardAccess a
             exec (.homeAccess id) s = .next ((noted q.1 (.performed v fl) q.2).noteAction a))
           ∧ (∀ c v, s.atHome a.holder bytes l (BitVec.ofNat 64 off) a.n a.op = .trap c v →
             exec (.homeAccess id) s = .next (s.setAccState id (.failed c v))))
         ∧ (∀ v, a.state = .accepted → a.op = .store v →
           let s1 := s.chargeAccess a
           let s2 := ((s1.putBytes a.holder (s1.bytesOf { node := node, child := child } off a.n) a.n v).forwardAccess a).1
           exec (.homeAccess id) s = .next ({ s2 with accs := Store.del s2.accs id }.unhold a.tid)))
       ∧ (∀ (u : State) l1 k x l2, u.accs = l1 ++ (k, x) :: l2 → x.tid = a.tid → x.state = .held →
         (∀ y ∈ l1 ++ l2, y.2.tid = a.tid → y.2.state ≠ .held) →
         let x1 : Access := { x with state := u.lostState x.place x.op .sent }
         u.unhold a.tid = (if u.mustWait a.tid x.place x.n x.ord x.order then u
           else ({ u with accs := Store.put u.accs k x1 }.inject k x1).request k x1))
       ∧ (∀ u : State, (u.mirrored (u.writtenBytes a) = none → u.forwardAccess a = (u, none))
           ∧ (a.n ≠ 8 ∨ a.ord ≠ .rel → u.noteAction a = u))
       ∧ (let h := a.hold
         let settled (fl : Nat) : Thread :=
           let t := s.thread a.tid
           let t1 : Thread := { t with
             waits := t.waits.filter (fun w => decide (w ≠ .access id)), pres := t.pres &&& ~~~ h.used
             fst := if fl = 0 then t.fst else t.fst ||| BitVec.ofNat 64 fl
             far := match a.op, a.place with
               | .probe, .remote _ l off => some (l, off)
               | _, _ => t.far }
           match h.reg with
           | some (r, w) => t1.setReg r w
           | none => t1
         let frame (u : State) : Prop :=
           u = { s with accs := u.accs, threads := u.threads, spad := h.bytes.foldl (fun (m : Memory) b => m.write b.1 b.2) s.spad }
           ∧ (∀ k, k ≠ id → Store.find u.accs k = Store.find s.accs k) ∧ (∀ k, k ≠ a.tid → u.thread k = s.thread k)
         (∀ v fl, a.state = .performed (some v) fl → s.shootDone a = true → completes (.accessReply id) s (fun u =>
           frame u ∧ Store.find u.accs id = none ∧ regWrite (settled fl) (u.thread a.tid) a.dreg v))
         ∧ (∀ fl, a.state = .performed none fl → s.shootDone a = true → completes (.accessReply id) s (fun u =>
           frame u ∧ Store.find u.accs id = none ∧ u.thread a.tid = settled fl))
         ∧ (a.state = .sent → s.early a = true →
           (∀ c v, s.perform a = .trap c v → exec (.accessReply id) s = .next (s.replyTrap id a c v))
           ∧ ((∀ c v, s.perform a ≠ .trap c v) → completes (.accessReply id) s (fun u =>
             frame u ∧ Store.find u.accs id = some { a with state := .accepted } ∧ u.thread a.tid = settled 0)))
         ∧ ((a.state = .sent ∧ s.early a = false) ∨ a.state = .held ∨ a.state = .waiting → exec (.accessReply id) s = .next s))
       ∧ (∀ c v, a.state = .failed c v → let swept := a.hold.sonly = true ∧ Why.sweep 0 ∈ (s.thread a.tid).waits
         (swept → exec (.accessReply id) s = .next s) ∧ (¬ swept → exec (.accessReply id) s = .next (s.replyTrap id a c v))))
  ∧ (∀ (s : State) (h : Holder) (root off n : Nat) (l o : Word),
       let bytes := (List.range n).map (fun i => (root, off + i))
       let seen := (List.range n).foldr (fun i v => (s.seenByte h root (off + i)).toNat + 256 * v) 0
       let stored (v : Nat) : State := ((List.range n).map (fun i =>
         ((root, off + i), (BitVec.ofNat 8 (v / 256 ^ i) : Byte)))).foldl (fun u b => u.putByte h b) s
       let stale : Prop := ∃ b ∈ bytes, s.unpublished h b.1 b.2 = true
       let bad : Prop := ∃ b ∈ bytes, s.bytePoisoned h b.1 b.2 = true
       let refused : Prop := ∃ b ∈ bytes, s.storeRefused h b.1 b.2 = true
       let forum : Prop := ∃ b ∈ bytes, s.forumRefuses b.1 b.2 = true
       let reads (op : AccOp) (r : Perform) : Prop := s.hostRefuses bytes n op = false →
         (stale → s.atHome h bytes l o n op = .later .order)
         ∧ (¬ stale → bad → s.atHome h bytes l o n op = .trap 0x13 (Config.poisonValue o))
         ∧ (¬ stale → ¬ bad → s.atHome h bytes l o n op = r)
       let writes (op : AccOp) (next : Prop) : Prop :=
         (forum ∨ s.hostRefuses bytes n op = true → s.atHome h bytes l o n op = .trap 0x09 l)
         ∧ (¬ forum → s.hostRefuses bytes n op = false → refused → s.atHome h bytes l o n op = .trap 0x0A (Config.tenureValue l o))
         ∧ (¬ forum → ¬ refused → next)
       reads (.load false) (.done s (some (BitVec.ofNat 64 seen)) 0)
       ∧ (∀ v, writes (.store v) (s.atHome h bytes l o n (.store v) = .done (stored v) none 0))
       ∧ (∀ f v md, let r := amoNew f seen v n md
           writes (.amo f v md) (reads (.amo f v md) (.done (stored r.1) (some (BitVec.ofNat 64 seen)) r.2)))
       ∧ (∀ e v, writes (.cas e v) (reads (.cas e v) (.done (if seen = e then stored v else s) (some (BitVec.ofNat 64 seen)) 0)))
       ∧ (∀ b : Byte,
           (∀ id, s.writeTen h root off = some id → s.putByte h ((root, off), b)
             = { s with tens := Store.upd s.tens id (fun t => { t with
                 dirty := Store.put t.dirty off b
                 pois := if s.bytePoisoned h root off then addUnits t.pois [off / 64] else t.pois }) })
           ∧ (∀ nd q, s.writeTen h root off = none → s.node root = some nd → nd.kind ≠ 4 → s.physOf root off = some q →
             let u := s.putByte h ((root, off), b)
             u = { s with dram := u.dram, tens := u.tens, pushes := u.pushes } ∧ u.dram.read q = b
             ∧ (∀ z, z ≠ q → u.dram.read z = s.dram.read z)
             ∧ ∀ k x, Store.find u.tens k = some x → x.root = root → Store.find x.held off = none)))

/-! ## Labels and maps -/

/-- R50: a valid label `a` is an ancestor-or-self of a valid `b` exactly when its depth is no more and the top 12 + 8 ·
DEPTH bits agree, and exactly when bits [63:4] of `b` lie between those of `a` and of SubEnd(a). -/
def Obligations.SubtreeOrder : Prop :=
  ∀ (a b : Word), lblValid a = true → lblValid b = true →
    let depth (l : Word) : Nat := l.toNat % 16
    let e := lblSubEnd a
    let n := 52 - 8 * depth a
    (lblAnc a b = true ↔ depth a ≤ depth b ∧ a.toNat / 2 ^ n = b.toNat / 2 ^ n)
    ∧ (lblAnc a b = true ↔ a.toNat / 16 ≤ b.toNat / 16 ∧ b.toNat / 16 ≤ e.toNat / 16)
    ∧ e.toNat / 2 ^ n = a.toNat / 2 ^ n ∧ ∀ j, depth a < j → j ≤ 6 → e.toNat / 2 ^ (52 - 8 * j) % 256 = 0xFF

/-- R158, Table 9.1, R48: the label queries on bits, for valid labels and for invalid ones. `dig` is the digit of a level. -/
def Obligations.LabelQueries : Prop :=
  ∀ (s : State) (d a b : Reg),
    let x := s.reg a
    let y := s.reg b
    let depth := x.toNat % 16
    let dig (l : Word) (j : Nat) : Nat := l.toNat / 2 ^ (52 - 8 * j) % 256
    let valid (l : Word) : Prop := l.toNat / 2 ^ 52 ≠ 0 ∧ l.toNat % 16 ≤ 6 ∧ ∀ j, 1 ≤ j → j ≤ 6 → (dig l j ≠ 0 ↔ j ≤ l.toNat % 16)
    (valid x → valid y →
      results (.lanc d a b) s d (if depth ≤ y.toNat % 16 ∧ x.toNat / 2 ^ (52 - 8 * depth) = y.toNat / 2 ^ (52 - 8 * depth) then 1 else 0))
    ∧ (¬ (valid x ∧ valid y) → results (.lanc d a b) s d 0)
    ∧ (valid x →
        results (.lrng d a) s d (BitVec.ofNat 64 (x.toNat - depth + 2 ^ (52 - 8 * depth) - 16 + 6))
        ∧ results (.ldep d a) s d (BitVec.ofNat 64 depth)
        ∧ results (.lpar d a) s d
            (if depth = 0 then 0 else BitVec.ofNat 64 (x.toNat - dig x depth * 2 ^ (52 - 8 * depth) - 1))
        ∧ results (.lchd d a b) s d (if depth = 6 ∨ y = 0 ∨ 255 < y.toNat then 0 else
            BitVec.ofNat 64 (x.toNat + y.toNat * 2 ^ (52 - 8 * (depth + 1)) + 1))
        ∧ results (.ldig d a b) s d (if 6 < y.toNat then BitVec.allOnes 64 else if y = 0 then BitVec.ofNat 64 (x.toNat / 2 ^ 52) else
            BitVec.ofNat 64 (dig x y.toNat)))
    ∧ (¬ valid x →
        results (.lrng d a) s d 0 ∧ results (.ldep d a) s d (BitVec.allOnes 64) ∧ results (.lpar d a) s d 0
        ∧ results (.lchd d a b) s d 0 ∧ results (.ldig d a b) s d (BitVec.allOnes 64))

/-- R159, R62, R167, Table 9.2: LCAN and LSTAT of a label whose map this module homes are performed at once and change nothing
but the reply's register; they count no stub and never trap. LCAN's value is 0 for an invalid or unmapped label, the label itself
where its path has no stub, and what the spliced label gives where it meets one of either policy, at most four in all. LSTAT's
value is 0 for an invalid label, an empty slot, or one below level 6 or an implicit child, and else Table 9.2's word of the stub or node in the slot. A label of another
module goes to it, with the answer 0 where that module is lost.
Log entry 13: what the model chose here. -/
def Obligations.MapQueries : Prop :=
  ∀ (s : State) (d a : Reg), let l := s.reg a
    let map := s.mapOf s.cur
    let tenured (t : Target) : Prop := ∃ q ∈ s.tens, (q.2.mode = .read ∨ q.2.mode = .write)
      ∧ q.2.root = storageRoot s.maps t.node ∧ q.2.rect.meets (rectOf s.maps t) = true
    (s.remoteHome l = none →
      replies (.lcan d a) s s l d (canon s.maps map l) none ∧ replies (.lstat d a) s s l d (s.lstat map l) none)
    ∧ (∀ h, s.remoteHome l = some h → ∀ i : Instr, i = .lcan d a ∨ i = .lstat d a → calls i s h (farCall i [l]) d (some 0))
    ∧ (∀ x : Word, (lblValid x = false → canon s.maps map x = 0 ∧ s.lstat map x = 0)
      ∧ (canon s.maps map x = match canonGo s.maps map 4 x with
          | some (y, _) => y
          | none => 0)
      ∧ (lblValid x = true → ∀ k,
        (∀ t, descendLabel s.maps map x = .found t → canonGo s.maps map k x = some (x, t))
        ∧ (descendLabel s.maps map x = .absent → canonGo s.maps map k x = none)
        ∧ (∀ i id n, descendLabel s.maps map x = .stub i id → Store.find s.maps.nodes id = some n →
            canonGo s.maps map (k + 1) x = canonGo s.maps map k (lblSplice n.newLabel x i) ∧ canonGo s.maps map 0 x = none)))
    ∧ (∀ ref : SlotRef, lblValid l = true →
      (lblDepth l = 0 ∧ ref = .root (lblRoot l)
        ∨ lblDepth l ≠ 0 ∧ ∃ lc t, canonAt s.maps map (lblParent l) = some (lc, t) ∧ lblDepth lc < 6 ∧ t.child = none
            ∧ ref = .kid t.node (lblLast l)) →
      (s.slotAt map ref = .empty → s.lstat map l = 0)
      ∧ (∀ id n, s.slotAt map ref = .stub id → s.node id = some n →
          s.lstat map l = BitVec.ofNat 64 (6 * 2 ^ 60 + 2 ^ 54 + Nat.min n.hits.toNat (2 ^ 41 - 1)))
      ∧ (∀ id n, s.slotAt map ref = .node { node := id, child := none } → s.node id = some n →
          let w (bit : Nat) : Word := BitVec.ofNat 64 (n.kind * 2 ^ 60 + n.order * 2 ^ 58 + (if n.enc then 2 ^ 57 else 0)
            + (if n.ro then 2 ^ 56 else 0) + (if n.sup then 2 ^ 55 else 0) + 2 ^ 54 + bit + n.extent)
          let some : Prop := ∃ i ∈ subtreeOf s.maps id, ∃ c, s.node i = .some c ∧ (c.kind = 1 ∨ c.kind = 2) ∧ tenured { node := i, child := none }
          (some → s.lstat map l = w (2 ^ 53)) ∧ (¬ some → s.lstat map l = w 0))
      ∧ (∀ id k n, s.slotAt map ref = .node { node := id, child := some k } → s.node id = some n →
          let w (kind bit size : Nat) : Word := BitVec.ofNat 64 (kind * 2 ^ 60 + n.order * 2 ^ 58 + (if n.enc then 2 ^ 57 else 0)
            + (if n.ro then 2 ^ 56 else 0) + (if n.sup then 2 ^ 55 else 0) + 2 ^ 54 + bit + size)
          let t : Target := { node := id, child := some k }
          (n.kind = 4 → s.lstat map l = w 0 0 n.blockBytes)
          ∧ (n.kind = 2 → tenured t → s.lstat map l = w 1 (2 ^ 53) (n.tileBytes k))
          ∧ (n.kind = 2 → ¬ tenured t → s.lstat map l = w 1 0 (n.tileBytes k))))
    ∧ (∀ lc t, lblDepth l ≠ 0 → canonAt s.maps map (lblParent l) = some (lc, t) → 6 ≤ lblDepth lc ∨ t.child ≠ none → s.lstat map l = 0)

/-- (a) R160, R339, R364: the checks that the map operations share, in their order: an invalid label traps with 0x07, one that does
not resolve with its path's cause and value, a node with SUP at user level with 0x09; a label below an implicit child
answers 7 (NOKIDS) and changes nothing but the count of the stubs passed, LMAP for a sound image, whose ancestor is SUPLV levels
up. A label of another module goes to it, with LMAP's record.
(b) R64, R161, R327: LINS into a node that takes children puts a new namespace node, with the parent's ORDER and ENC, at the free
digit strictly between LO and HI nearest the middle, the lower on a tie, and answers its label; with no free digit there it
answers 1 (NOGAP), under a node of level 6 it answers 5 (TOODEEP), under one that takes no children 7 (NOKIDS), and maps nothing.
An operand that is no pair of digits traps with 0x0C, a pool without a page with 0x11. `s0` counts the stubs passed.
(c) R160, R162, R268, R277, R312, R327, R346, R364: LMAP of a record on the issuing tile. An image that a check refuses traps
with 0x0C and the address of the lowest failing word. At an empty slot of a root or of a node that takes children it maps the
image's node and answers its label, unless the pool finds no page (0x11); under any other node it answers 7 (NOKIDS). On a node
that is not tenured it replaces the fields, keeps the children and those pages that still lie within EXTENT, and answers after
a shoot-down of the subtree, and after a new partner has taken the committed state; accesses under way go first. A stub there answers 3, a tenured subtree 4, an implicit child 7.
(d) R162, Tables 3.2 and 3.4: which images LMAP finds sound, by KIND; `anc` is the ancestor SUPLV levels up. A namespace or code
node has word 0 alone; a sequence has ESIZE; a tensor and a tile array have TYPE, rank, DIM and TDIM, 1 above the rank, and own
storage with VORG 0 or a view that its ancestor contains.
Log entries 10, 13, 16, 18, 74: what the model chose here. -/
def Obligations.MapInsertion : Prop :=
  (∀ (s : State) (d a b : Reg) (stub : Stub), let l := s.reg a
       let v := s.reg b
       let map := s.mapOf s.cur
       let lo := v.toNat % 256
       let hi := v.toNat / 256
       let two : List Instr := [.lins d a b, .lmov d a b stub, .lreb d a b stub, .lunf d a b]
       let all : List Instr := two ++ [.lmap d a b, .lfre d a]
       (∀ h, s.remoteHome l = some h → (∀ i ∈ two, calls i s h (farCall i [l, v]) d none)
         ∧ calls (.lfre d a) s h (farCall (.lfre d a) [l]) d none
         ∧ calls (.lmap d a b) s h (s.farRecord v (farCall (.lmap d a b) [l, v])) d none)
       ∧ (lblValid l = false → ∀ i ∈ all, exec i s = .next (s.trap 0x07 l))
       ∧ (s.remoteHome l = none → lblValid l = true → belowImplicit s.maps map l = false →
         (∀ c x st, resolve s.maps map l = ⟨.error (c, x), st⟩ → ∀ i : Instr, i = .lins d a b ∨ i = .lreb d a b stub ∨ i = .lfre d a →
           exec i s = .next (State.trap { s with maps := s.maps.countHits st } c x))
         ∧ (∀ c x st, slotOfLabel s.maps map l = (.error (c, x), st) → ∀ i : Instr, i = .lmap d a b ∨ i = .lunf d a b →
           exec i s = .next (State.trap { s with maps := s.maps.countHits st } c x))
         ∧ (∀ lc t st, resolve s.maps map l = ⟨.ok (lc, t), st⟩ → let s0 := { s with maps := s.maps.countHits st }
           s0.supRefuses t.node = true → ∀ i : Instr, i = .lins d a b ∨ i = .lreb d a b stub ∨ i = .lfre d a →
           exec i s = .next (s0.trap 0x09 l)))
       ∧ (∀ p lc t st, s.remoteHome l = none → implicitAbove s.maps map l = some p → resolve s.maps map p = ⟨.ok (lc, t), st⟩ →
         let s0 := { s with maps := s.maps.countHits st }
         s0.supRefuses t.node = false →
         replies (.lfre d a) s s0 l d 7 none ∧ replies (.lunf d a b) s s0 l d 7 none
         ∧ (1 ≤ lo → lo ≤ hi → hi ≤ 255 → replies (.lreb d a b stub) s s0 l d 7 none)
         ∧ ((insOperand v).isSome = true → replies (.lins d a b) s s0 l d 7 none)
         ∧ (∀ key, s0.localAddr s.cur v = .ok key → s.cur < 49152 → key / 2 ^ 20 = s.cur / 48 → key % 64 = 0 →
           s0.spadPoisoned key 64 = false → let w := s0.spadWords key
           let new := imageNode map s.self w
           let anc := if lblDepth l < new.suplv + lblDepth p ∧ new.suplv ≤ lblDepth l then
               (ancestor s0.maps t.node (new.suplv + lblDepth p - lblDepth l - 1)).bind s0.node else none
           imageBad w new anc = none → paramBad (fun x => (s.remoteHome x).isSome) (s.stepBusy map l) w new = none →
             replies (.lmap d a b) s s0 l d 7 none)))
  ∧ (∀ (s : State) (d a b : Reg) (lc : Word) (t : Target) (st : List Nat) (p : Node),
       let l := s.reg a
       let v := s.reg b
       let map := s.mapOf s.cur
       let lo := v.toNat % 512
       let hi := v.toNat / 65536 % 512
       let s0 := { s with maps := s.maps.countHits st }
       let free (x : Nat) : Prop := lo < x ∧ x < hi ∧ Store.find p.kids x = none
       let far (x : Nat) : Nat := (x - (lo + hi) / 2) + ((lo + hi) / 2 - x)
       let pair : Prop := v = BitVec.ofNat 64 (hi * 65536 + lo) ∧ lo ≤ 255 ∧ 1 ≤ hi ∧ hi ≤ 256
       s.remoteHome l = none → belowImplicit s.maps map l = false → resolve s.maps map l = ⟨.ok (lc, t), st⟩ →
       s0.node t.node = some p → (s.me.level ≠ 0 ∨ p.sup = false) →
       (¬ pair → exec (.lins d a b) s = .next (s0.trap 0x0C v))
       ∧ (pair → (t.child ≠ none ∨ p.hasKids = false) → replies (.lins d a b) s s0 l d 7 none)
       ∧ (pair → t.child = none → p.hasKids = true →
         (lblDepth lc = 6 → replies (.lins d a b) s s0 l d 5 none)
         ∧ (lblDepth lc ≠ 6 →
           ((∀ x, ¬ free x) → replies (.lins d a b) s s0 l d 1 none)
           ∧ (∀ x, free x → (∀ y, free y → far x < far y ∨ (far x = far y ∧ x ≤ y)) →
             let s1 : State := { s0 with maps := { s0.maps with
                 nodes := Store.upd (Store.put s0.maps.nodes s0.maps.nextDesc
                   { vf := map, kind := 0, order := p.order, enc := p.enc, ro := false, sup := false, extent := 0, home := p.home
                     words := Vector.replicate 5 0, kids := [], pages := [] }) t.node
                   (fun n => { n with kids := Store.put n.kids x s0.maps.nextDesc })
                 nextDesc := s0.maps.nextDesc + 64 } }
             (s0.noRoom map 0 s1.maps = true → exec (.lins d a b) s = .next (s0.trap 0x11 (Config.trapValue 5 l 0)))
             ∧ (s0.noRoom map 0 s1.maps = false → replies (.lins d a b) s s1 l d (lblChild lc x) none))))
       ∧ (∀ m : Maps, (∀ q, s0.partOfVf map = some q →
             (s0.part q).pageuse.toNat + m.poolMost map ≤ (s0.part q).pagequota.toNat) →
           s0.dataPages + (allMaps.map m.poolMost).sum ≤ poolPages → s0.noRoom map 0 m = false))
  ∧ (∀ (s : State) (d a b : Reg) (key : Nat) (ref : SlotRef) (par : Option (Word × Target)) (st : List Nat),
       let l := s.reg a
       let addr := s.reg b
       let map := s.mapOf s.cur
       let s0 := { s with maps := s.maps.countHits st }
       let w := s0.spadWords key
       let new := imageNode map (s0.slotHome map ref) w
       let anc := match ref with
         | .root _ => none
         | .kid p _ => if new.suplv = 0 then none else (ancestor s0.maps p (new.suplv - 1)).bind s0.node
       let bad (own : Option Nat) : Option Nat := firstBad [imageBad w new anc,
         paramBad (fun x => (s.remoteHome x).isSome) (s.stepBusy map l) w new,
         if s0.maps.hostSlot ref && decide (new.order = 0) then some 0 else own]
       let refuses (own : Option Nat) : Prop := ∀ i, bad own = some i →
         exec (.lmap d a b) s = .next (s0.trap 0x0C (addr + BitVec.ofNat 64 (8 * i)))
       let takes : Prop := (∃ r, ref = .root r) ∨ ∃ p dg pn x, ref = .kid p dg ∧ s0.node p = some pn ∧ pn.hasKids = true
         ∧ par = some x ∧ x.2.child = none
       s.remoteHome l = none → lblValid l = true → belowImplicit s.maps map l = false →
       slotOfLabel s.maps map l = (.ok (ref, par), st) → (∀ x, par = some x → s0.supRefuses x.2.node = false) →
       (s.me.level ≠ 0 ∨ ∃ p dg, ref = .kid p dg) → (∀ t, s0.slotAt map ref = .node t → s0.supRefuses t.node = false) →
       s.localAddr s.cur addr = .ok key → s.cur < 49152 → key / 2 ^ 20 = s.cur / 48 →
       (key % 64 ≠ 0 → exec (.lmap d a b) s = .next (s0.trap 0x04 addr))
       ∧ (key % 64 = 0 → s0.spadPoisoned key 64 = true → exec (.lmap d a b) s = .next (s0.trap 0x13 (Config.poisonValue addr)))
       ∧ (key % 64 = 0 → s0.spadPoisoned key 64 = false →
         (s0.slotAt map ref = .empty → refuses none ∧ (bad none = none →
           (¬ takes → replies (.lmap d a b) s s0 l d 7 none)
           ∧ (takes → slotLabel ref par ≠ 0 →
             let m1 : Maps := { s0.maps with nodes := Store.put s0.maps.nodes s0.maps.nextDesc new, nextDesc := s0.maps.nextDesc + 64 }
             let s1 : State := { s0 with maps := m1.setSlot map ref (some s0.maps.nextDesc) new.home }
             (s0.noRoom map 0 s1.maps = true → exec (.lmap d a b) s = .next (s0.trap 0x11 (Config.trapValue 5 l 0)))
             ∧ (s0.noRoom map 0 s1.maps = false →
               (new.kind ≠ 4 ∨ s1.partner new = none → replies (.lmap d a b) s s1 l d (slotLabel ref par) none)
               ∧ (new.kind = 4 → (s1.partner new).isSome = true →
                 s1.slotAt map ref = .node { node := s0.maps.nextDesc, child := none } →
                 replies (.lmap d a b) s (State.joinPartner { s1 with next := s1.next + 1 } s0.maps.nextDesc s1.next 0) l d
                   (slotLabel ref par) (some s1.next))))))
         ∧ (∀ id, s0.slotAt map ref = .stub id → refuses none ∧ (bad none = none → replies (.lmap d a b) s s0 l d 3 none))
         ∧ (∀ id k, s0.slotAt map ref = .node { node := id, child := some k } →
             refuses none ∧ (bad none = none → replies (.lmap d a b) s s0 l d 7 none))
         ∧ (∀ id old, s0.slotAt map ref = .node { node := id, child := none } → s0.node id = some old →
           refuses (changeBad old new) ∧ (bad (changeBad old new) = none →
             (s0.tenuredBelow id = true → replies (.lmap d a b) s s0 l d 4 none)
             ∧ (s0.tenuredBelow id = false → s0.inFlight [id] = true → exec (.lmap d a b) s = .next (s.stall .order))
             ∧ (s0.tenuredBelow id = false → s0.inFlight [id] = false →
               let lc := slotLabel ref par
               let s1 := ({ s0 with maps := { s0.maps with nodes := Store.upd s0.maps.nodes id (fun o =>
                 { new with kids := o.kids, pages := o.pages, home := o.home }) } }).freePages map id (fun g => decide (g * 65536 < new.extent))
               let s2 := (s1.startShoot (s1.mapOf s1.cur) lc (lblSubEnd lc) false [id] none).1
               replies (.lmap d a b) s (s2.joinPartner id s1.next old.mirror) l d lc (some s1.next)
               ∧ (new.kind ≠ 4 → s2.joinPartner id s1.next old.mirror = s2))))))
  ∧ (∀ (w : Vector Word 8) (n : Node) (anc : Option Node),
       let head : Prop := w[0].toNat / 2 ^ 41 % 2 ^ 14 = 0 ∧ n.kind < 6 ∧ n.order ≠ 3 ∧ n.extent ≤ 2 ^ 40 ∧ w[1] = 0 ∧ w[2] = 0
       let sound : Prop := imageBad w n anc = none
       let ones (ds : List Nat) : Prop := ∀ j, n.rank ≤ j → j < 4 → ds.getD j 1 = 1
       let origin : Prop := (n.suplv = 0 ∧ n.vorg = 0) ∨ (n.suplv ≠ 0 ∧ viewOk n anc = true)
       let count := prod (List.zipWith (fun d t => ceilDiv d (Nat.max t 1)) n.dims n.tdims)
       (n.kind = 0 ∨ n.kind = 5 → (sound ↔ head ∧ w[3] = 0 ∧ w[4] = 0 ∧ w[5] = 0 ∧ w[6] = 0 ∧ w[7] = 0))
       ∧ (n.kind = 3 → (sound ↔ head ∧ w[3].toNat / 2 ^ 32 = 0 ∧ 8 ≤ n.field 0 0 32 ∧ n.field 0 0 32 ≤ 65536 ∧ n.field 0 0 32 % 8 = 0
           ∧ w[4] = 0 ∧ w[5] = 0 ∧ w[6] = 0 ∧ w[7] = 0))
       ∧ (n.kind = 4 → (sound ↔ head))
       ∧ (n.kind = 1 → (sound ↔ head ∧ w[3].toNat / 2 ^ 40 % 2 ^ 9 = 0 ∧ n.tyCode ≤ 12 ∧ n.halo = 0 ∧ origin ∧ ones n.dims
           ∧ n.tdims = n.dims ∧ w[7] = 0))
       ∧ (n.kind = 2 → (sound ↔ head ∧ w[3].toNat / 2 ^ 40 % 2 ^ 9 = 0 ∧ n.tyCode ≤ 12 ∧ origin ∧ ones n.dims ∧ ones n.tdims
           ∧ 1 ≤ count ∧ count ≤ 255 ∧ (∀ t ∈ n.tdims, t ≠ 0)
           ∧ (n.tyCode = 12 → n.dims.headD 0 % 32 = 0 ∧ n.tdims.headD 0 % 32 = 0) ∧ w[7] = 0))
       ∧ (6 ≤ n.kind → ¬ sound))

/-- (a) R60, R61, R160, R163, R327, R346, R364, R368: LMOV answers 9 (REMOTE) where the new label's root is homed elsewhere; else the first refusal of
R60's table that holds, in its order, and nothing moves; else the subtree takes the new slot in one step, its old slot is cleared
or takes a stub that names the new label with HITS 0 and the policy given, and the new label is answered after a shoot-down of
the old subtree. A target of depth 0 traps with 0x0C. An implicit child, or a label below one, has no node to move. A view is
split that would lose its storage root (log entry 74); a node with ORDER 0 cannot come under the host root.
(b) R60, R65, R164, R368: what a move writes: the new slot holds the node; the old slot is empty, or holds a new stub
descriptor with NEWLABEL the new label, HITS 0 and the policy given; a root's entry keeps its HOME. LREB respaces a node's
children between two digits in one step when every one of its moves may be made (`respaceStatus`), child j of k going to digit
lo + ⌊j · n / k⌋ + ⌊n / 2k⌋ of the n digits, those at their digit already staying; any other outcome is answered by its code,
and nothing moves.
(c) R63, R66, R165, R166, R278, R364: LFRE of a subtree that is not tenured and that no access is on its way to takes its
descriptors out of the map, returns its pages, empties its slot and answers 0 after a shoot-down; accesses under way go first; a
tenured subtree answers 4, an implicit child 7. LUNF removes a stub whose NEWLABEL is the label given, or any stub for 0, leaving
the slot empty, and answers 0 after a shoot-down of what was translated through it; in every other case it answers 10, for an
implicit child 7, and changes nothing.
Log entries 13, 19, 62, 74: what the model chose here. -/
def Obligations.MapMovesAndRemovals : Prop :=
  (∀ (s : State) (d a b : Reg) (stub : Stub) (lc : Word) (t : Target) (st : List Nat),
       let l := s.reg a
       let new := s.reg b
       let map := s.mapOf s.cur
       let i : Instr := .lmov d a b stub
       let sa := { s with maps := s.maps.countHits st }
       let rootFree : Prop := s.me.level ≠ 0 ∨ lblDepth lc ≠ 0
       let leads (x : Word) (r : Word × Target) (st : List Nat) : Prop := match implicitAbove s.maps map x with
         | none => resolve s.maps map x = ⟨.ok r, st⟩
         | some p => resolve s.maps map p = ⟨.ok r, st⟩
       s.remoteHome l = none → lblValid l = true → leads l (lc, t) st →
       (lblValid new = false → exec i s = .next (s.trap 0x07 new))
       ∧ (∀ h, s.remoteHome new = some h → sa.supRefuses t.node = false → rootFree →
           (lblDepth new ≠ 0 → replies i s sa l d 9 none) ∧ (lblDepth new = 0 → exec i s = .next (sa.trap 0x0C new)))
       ∧ (lblValid new = true → s.remoteHome new = none → lblDepth new = 0 → sa.supRefuses t.node = false → rootFree →
           exec i s = .next (sa.trap 0x0C new))
       ∧ (∀ lcp p st', lblValid new = true → s.remoteHome new = none → lblDepth new ≠ 0 →
         let s0 := { sa with maps := sa.maps.countHits st' }
         leads (lblParent new) (lcp, p) st' → (lblDepth lcp < 6 ∨ belowImplicit s.maps map (lblParent new) = true) →
         s0.supRefuses t.node = false → s0.supRefuses p.node = false → rootFree →
         (rootHome s0.maps map (lblRoot lc) ≠ rootHome s0.maps map (lblRoot lcp) → replies i s s0 l d 9 none)
         ∧ (rootHome s0.maps map (lblRoot lc) = rootHome s0.maps map (lblRoot lcp) →
           let host : Prop := s0.maps.isHost p.node = true ∧ ∃ x ∈ subtreeOf s0.maps t.node, ∃ n, s0.node x = some n ∧ n.order = 0
           let below : Prop := belowImplicit s.maps map l = true ∨ belowImplicit s.maps map (lblParent new) = true
           (host → exec i s = .next (s0.trap 0x0C new)) ∧ (¬ host →
           let dg := lblLast new
           let kids : Prop := p.child = none ∧ ∃ n, s0.node p.node = some n ∧ n.hasKids = true
           let free : Prop := ¬ kids ∨ s0.slotAt map (.kid p.node dg) = .empty
           let cycle : Prop := (t.child = none ∧ p.node ∈ subtreeOf s0.maps t.node) ∨ (t.child ≠ none ∧ p = t ∧ ¬ below)
           let none' : Prop := t.child ≠ none ∨ ¬ kids
           let deep : Prop := 6 < lblDepth lcp + 1 + heightGo s0.maps 7 t.node
           let split : Prop := splitsView s0.maps t.node p.node = true
           let busy : Prop := s0.tenuredBelow t.node = true
           (kids → ∀ x, s0.slotAt map (.kid p.node dg) = .node x → replies i s s0 l d 2 none)
           ∧ (kids → ∀ x, s0.slotAt map (.kid p.node dg) = .stub x → replies i s s0 l d 3 none)
           ∧ (free → cycle → replies i s s0 l d 6 none)
           ∧ (free → ¬ cycle → none' → replies i s s0 l d 7 none)
           ∧ (free → ¬ cycle → ¬ none' → deep → replies i s s0 l d 5 none)
           ∧ (free → ¬ cycle → ¬ none' → ¬ deep → split → replies i s s0 l d 8 none)
           ∧ (free → ¬ cycle → ¬ none' → ¬ deep → ¬ split → busy → replies i s s0 l d 4 none)
           ∧ (free → ¬ cycle → ¬ none' → ¬ deep → ¬ split → ¬ busy →
             let label := lblChild lcp dg
             let home := rootHome s0.maps map (lblRoot lc)
             let s1 := s0.moveNode map t.node (slotOfCanon s0.maps map lc) (.kid p.node dg) home label stub
             let s2 := (s1.startShoot (s1.mapOf s1.cur) lc (lblSubEnd lc) false (subtreeOf s0.maps t.node) none).1
             (s0.noRoom map 0 s1.maps = true → exec i s = .next (s0.trap 0x11 (Config.trapValue 5 l 0)))
             ∧ (s0.noRoom map 0 s1.maps = false → replies i s s2 l d label (some s1.next)))))))
  ∧ ((∀ (s : State) (map sid p dg home : Nat) (old : SlotRef) (label : Word) (stub : Stub),
       let put (m : Maps) (ref : SlotRef) (x : Option Nat) : Maps := match ref with
         | .root r => { m with roots := Store.put m.roots (map * 4096 + r) (home, x.getD 0) }
         | .kid q e => { m with nodes := Store.upd m.nodes q (fun n => { n with kids := match x with
           | some y => Store.put n.kids e y
           | none => Store.del n.kids e }) }
       let m1 := put s.maps (.kid p dg) (some sid)
       let policy : Word := if stub = .fault then 1 else 0
       let stubN : Node := { vf := map, kind := 6, order := 0, enc := false, ro := false, sup := false, extent := 0, home := home
                             words := #v[policy, label, 0, 0, 0], kids := [], pages := [] }
       let u := s.moveNode map sid old (.kid p dg) home label stub
       (stub = .noStub → u = { s with maps := put m1 old none })
       ∧ (stub ≠ .noStub → 
         let m2 : Maps := { m1 with nodes := Store.put m1.nodes m1.nextDesc stubN, nextDesc := m1.nextDesc + 64 }
         u = { s with maps := put m2 old (some m1.nextDesc) }))
     ∧ (∀ (s : State) (d a b : Reg) (stub : Stub) (lc : Word) (t : Target) (st : List Nat) (n : Node),
       let l := s.reg a
       let v := s.reg b
       let map := s.mapOf s.cur
       let lo := v.toNat % 256
       let hi := v.toNat / 256
       let s0 := { s with maps := s.maps.countHits st }
       s.remoteHome l = none → lblValid l = true → belowImplicit s.maps map l = false → resolve s.maps map l = ⟨.ok (lc, t), st⟩ →
       s0.node t.node = some n → s0.supRefuses t.node = false → (∀ k ∈ n.kids, lo ≤ k.1 → k.1 ≤ hi → s0.supRefuses k.2 = false) →
       (¬ (1 ≤ lo ∧ lo ≤ hi ∧ hi ≤ 255) → exec (.lreb d a b stub) s = .next (s0.trap 0x0C v))
       ∧ (1 ≤ lo → lo ≤ hi → hi ≤ 255 →
         let status := s0.respaceStatus map t lc lo hi
         let kept := n.kids.filter (fun k => decide (lo ≤ k.1) && decide (k.1 ≤ hi))
         let size := hi - lo + 1
         let moves := (kept.zipIdx.map (fun x => (x.1.1, x.1.2, lo + x.2 * size / kept.length + size / (2 * kept.length)))).filter
           (fun x => decide (x.1 ≠ x.2.2))
         ((t.child ≠ none ∨ n.hasKids = false) → status = .noKids)
         ∧ (t.child = none → n.hasKids = true →
           ((∃ k ∈ kept, ∃ c, s0.node k.2 = some c ∧ c.kind = 6) → status = .stubbed)
           ∧ ((∀ k ∈ kept, ∀ c, s0.node k.2 = some c → c.kind ≠ 6) →
             (size < kept.length → status = .noGap)
             ∧ (kept.length ≤ size →
               ((∃ x ∈ moves, ∃ k ∈ kept, k.1 = x.2.2 ∧ k.2 ≠ x.2.1) → status = .occupied)
               ∧ ((∀ x ∈ moves, ∀ k ∈ kept, k.1 = x.2.2 → k.2 = x.2.1) →
                 (status = .done ↔ ∀ x ∈ moves, s0.moveStatus map x.2.1 t lc x.2.2 none false = .done)))))
         ∧ (status ≠ .done → replies (.lreb d a b stub) s s0 l d status.code none)
         ∧ (status = .done →
           let s1 := moves.foldl (fun u x => u.moveNode map x.2.1 (.kid t.node x.1) (.kid t.node x.2.2)
             (u.slotHome map (.kid t.node x.1)) (lblChild lc x.2.2) stub) s0
           let s2 := (s1.startShoot (s1.mapOf s1.cur) lc (lblSubEnd lc) false (moves.flatMap (fun x => subtreeOf s0.maps x.2.1)) none).1
           (s0.noRoom map 0 s1.maps = true → exec (.lreb d a b stub) s = .next (s0.trap 0x11 (Config.trapValue 5 l 0)))
           ∧ (s0.noRoom map 0 s1.maps = false → replies (.lreb d a b stub) s s2 l d 0 (some s1.next))))))
  ∧ (∀ (s : State) (d a b : Reg), let l := s.reg a
       let map := s.mapOf s.cur
       s.remoteHome l = none → lblValid l = true → belowImplicit s.maps map l = false →
       (∀ lc t st, resolve s.maps map l = ⟨.ok (lc, t), st⟩ →
         let s0 := { s with maps := s.maps.countHits st }
         let ref := slotOfCanon s0.maps map lc
         let ids := subtreeOf s0.maps t.node
         (∀ n ∈ t.node :: ids, s0.supRefuses n = false) → (s.me.level ≠ 0 ∨ ∃ p dg, ref = .kid p dg) →
         (t.child ≠ none → replies (.lfre d a) s s0 l d 7 none)
         ∧ (t.child = none →
           (s0.tenuredBelow t.node = true → replies (.lfre d a) s s0 l d 4 none)
           ∧ (s0.tenuredBelow t.node = false → s0.inFlight ids = true → exec (.lfre d a) s = .next (s.stall .order))
           ∧ (s0.tenuredBelow t.node = false → s0.inFlight ids = false →
             let s1 := s0.freeSubtree map t.node
             let s2 := { s1 with maps := s1.maps.setSlot map ref none (s0.slotHome map ref) }
             let s3 := (s2.startShoot (s2.mapOf s2.cur) lc (lblSubEnd lc) false ids none).1
             replies (.lfre d a) s s3 l d 0 (some s2.next)
             ∧ (∀ n ∈ ids, Store.find s1.maps.nodes n = none)
             ∧ ∀ x ∈ s1.tens, ∀ n ∈ ids, x.2.root ≠ n)))
       ∧ (∀ ref par st, slotOfLabel s.maps map l = (.ok (ref, par), st) →
         let s0 := { s with maps := s.maps.countHits st }
         (∀ x, par = some x → s0.supRefuses x.2.node = false) →
         (∀ id n, s0.slotAt map ref = .stub id → s0.node id = some n →
           (s.reg b ≠ 0 → n.newLabel ≠ s.reg b → replies (.lunf d a b) s s0 l d 10 none)
           ∧ (s.reg b = 0 ∨ n.newLabel = s.reg b →
             let m := s0.maps.setSlot map ref none (s0.slotHome map ref)
             let s1 := { s0 with maps := { m with nodes := Store.del m.nodes id } }
             let s2 := (s1.startShoot (s1.mapOf s1.cur) l (lblSubEnd l) false [id] none).1
             replies (.lunf d a b) s s2 l d 0 (some s1.next)))
         ∧ (∀ id, s0.slotAt map ref = .node { node := id, child := none } → replies (.lunf d a b) s s0 l d 10 none)
         ∧ (∀ id k, s0.slotAt map ref = .node { node := id, child := some k } → replies (.lunf d a b) s s0 l d 7 none)
         ∧ (s0.slotAt map ref = .empty → (par = none ∨ ∃ x, par = some x ∧ x.2.child = none) → replies (.lunf d a b) s s0 l d 10 none)))

/-! ## Tenure -/

/-- (a) R71, R169, R339: the checks that the tenure instructions share. A handle of another module goes to it. One that does not
resolve traps with the cause and value of its path, one to which a 1-byte load at offset 0 may not go with R59's. TREL, TFLS and
TDSC first wait, at the same address, for the thread's earlier stores. A node that is no tile answers 5 (NOTILE) and changes
nothing but the count of the stubs passed.
(b) R71, R169, R170: TACQ of a handle that is a tile sends a request to the node's home, with the holder, the rectangle, the
mode and a cycle stamp (the first issue's, where the TACQ is issued again), and its thread waits for the answer.
(c) R71, R76 to R78, R81, R83, R87, R168, R188: a request that arrives at its home is resolved again there and meets R71's checks;
it traps, or is answered 5 (NOTILE) for a node that is no tile, or 1 (HELD) where its holder holds the tile already. A no-wait
one that is opposed is answered 6 (BUSY); one that only released data of other holders or a halo push keeps waits for it
(`grantHeld`), any other is granted. One that may wait joins the queue, and its bundle's
vector slot takes effect. A queued one is resolved again and granted once it may be. A grant performs the acknowledged stores
in the tile, then is HELD where the holder has been granted the tile meanwhile, an upgrade of its own read record, or a new
record.
Log entries 13, 60, 61, 68: what the model chose here. -/
def Obligations.TenureAcquisition : Prop :=
  (∀ (s : State) (d a : Reg) (p : Scope) (w nw : Bool), let l := s.reg a
       let map := s.mapOf s.cur
       let rels : List Instr := [.trel d a p, .tfls d a p, .tdsc d a p]
       let all : List Instr := [.tacq d a p w nw, .tspl d a, .tqry d a] ++ rels
       (s.relPending s.cur = true → ∀ i ∈ rels, exec i s = .next (s.stall .order))
       ∧ ∀ i ∈ all, (i ∈ rels → s.relPending s.cur = false) →
         (∀ h, s.remoteHome l = some h →
           calls i s h (farCall i [l]) d none)
         ∧ (s.remoteHome l = none →
           (∀ c x st, resolve s.maps map l = ⟨.error (c, x), st⟩ →
             exec i s = .next (State.trap { s with maps := s.maps.countHits st } c x))
           ∧ (∀ lc t st n, resolve s.maps map l = ⟨.ok (lc, t), st⟩ → s.node t.node = some n →
             let s0 := { s with maps := s.maps.countHits st }
             (∀ c x, accessCheck n t.child .load s.me.level.toNat l 0 1 = some (c, x) → exec i s = .next (s0.trap c x))
             ∧ (accessCheck n t.child .load s.me.level.toNat l 0 1 = none →
               ¬ ((n.kind = 2 ∨ n.kind = 1 ∧ t.child = none) ∧ s.maps.isHost t.node = false) → replies i s s0 l d 5 none))))
  ∧ (∀ (s : State) (d a : Reg) (p : Scope) (w nw : Bool) (lc : Word) (t : Target) (st : List Nat) (n : Node),
       let l := s.reg a
       let s0 := { s with maps := s.maps.countHits st }
       s.remoteHome l = none → resolve s.maps (s.mapOf s.cur) l = ⟨.ok (lc, t), st⟩ → s.node t.node = some n →
       accessCheck n t.child .load s.me.level.toNat l 0 1 = none →
       (n.kind = 2 ∨ n.kind = 1 ∧ t.child = none) → s.maps.isHost t.node = false →
       completes (.tacq d a p w nw) s (fun u =>
           u = { s0 with treqs := u.treqs, threads := u.threads, next := s.next + 1 }
           ∧ (∀ k, k ≠ s.next → Store.find u.treqs k = Store.find s.treqs k) ∧ (∀ k, k ≠ s.cur → u.thread k = s.thread k)
           ∧ u.me = { s.me with waits := .tenure s.next :: s.me.waits, restamp := none }
           ∧ Store.find u.treqs s.next = some
             { tid := s.cur, label := l, root := storageRoot s.maps t.node, node := t.node
               tile := (match t.child with
                 | some k => k + 1
                 | none => 0)
               rect := rectOf s.maps t, holder := s.holderOf s.cur, write := w, nowait := nw, scope := p.code.toNat, dreg := d
               stamp := s.me.restamp.getD s.cycle, queued := none, stubs := st, hold := Held.none, pc := s.me.pc, left := s.me.left }))
  ∧ (∀ (s : State) (id : Nat) (q : TenReq), Store.find s.treqs id = some q →
       (∀ c x st, resolve s.maps (s.mapOf q.tid) q.label = ⟨.error (c, x), st⟩ →
         let s1 := { s with maps := s.maps.countHits (st.filter (fun i => !q.stubs.contains i)) }
         (q.queued = none → exec (.tenureRequest id) s = .next (s1.tenTrap id q c x))
         ∧ (q.queued ≠ none → exec (.tenureGrant id) s = .next (s1.tenTrap id q c x)))
       ∧ (∀ lc t st n, resolve s.maps (s.mapOf q.tid) q.label = ⟨.ok (lc, t), st⟩ →
         let new := st.filter (fun i => !q.stubs.contains i)
         let s1 := { s with maps := s.maps.countHits new }
         let q1 := { q with node := t.node, tile := t.tile, root := storageRoot s1.maps t.node, rect := rectOf s1.maps t
                            stubs := q.stubs ++ new }
         let check := accessCheck n t.child .load (s.thread q.tid).level.toNat q.label 0 1
         let tile : Prop := (n.kind = 2 ∨ n.kind = 1 ∧ t.child = none) ∧ s1.maps.isHost t.node = false
         let ends (u : State) : Prop := (q.queued = none → exec (.tenureRequest id) s = .next u)
           ∧ (q.queued ≠ none → exec (.tenureGrant id) s = .next u)
         s1.node t.node = some n →
         (∀ c x, check = some (c, x) → ends (s1.tenTrap id q c x)) ∧ (check = none → ¬ tile → ends (s1.tenReply id q .noTile))
         ∧ (check = none → tile → q.queued = none →
           (s1.alreadyHeld q1 = true → exec (.tenureRequest id) s = .next (s1.tenReply id q1 .held))
           ∧ (s1.alreadyHeld q1 = false → q.nowait = true →
             (s1.unopposed id q1 = false → exec (.tenureRequest id) s = .next (s1.tenReply id q1 .busy))
             ∧ (s1.unopposed id q1 = true → s1.grantHeld q1 = true →
               exec (.tenureRequest id) s = .next { s1 with treqs := Store.put s1.treqs id q1 })
             ∧ (s1.unopposed id q1 = true → s1.grantHeld q1 = false → exec (.tenureRequest id) s = .next (s1.grant id q1)))
           ∧ (s1.alreadyHeld q1 = false → q.nowait = false → let f := s1.freeVector q.tid id q.hold
             exec (.tenureRequest id) s = .next { f.1 with
               treqs := Store.put f.1.treqs id { q1 with queued := some f.1.next, hold := f.2 }, next := f.1.next + 1 }))
         ∧ (check = none → tile → q.queued ≠ none →
           (s1.unopposed id q1 = true → s1.grantHeld q1 = false → exec (.tenureGrant id) s = .next (s1.grant id q1))
           ∧ (s1.unopposed id q1 = false ∨ s1.grantHeld q1 = true →
             exec (.tenureGrant id) s = .next { s1 with treqs := Store.put s1.treqs id q1 })))
       ∧ (∀ v : TenStatus, q.hold = Held.none → let u := s.tenReply id q v
           u = { s with treqs := u.treqs, threads := u.threads } ∧ u.treqs = Store.del s.treqs id
           ∧ (∀ k, k ≠ q.tid → u.thread k = s.thread k)
           ∧ let t := s.thread q.tid
             regWrite { t with waits := t.waits.filter (fun w => decide (w ≠ .tenure id)) } (u.thread q.tid) q.dreg v.code)
       ∧ (let g := (s.storesFirst q).pruneSplits
         let same (x : Nat × Ten) : Bool := decide (x.2.root = q.root) && decide (x.2.holder = q.holder) && decide (x.2.rect = q.rect)
         (g.alreadyHeld q = true → s.grant id q = g.tenReply id q .held)
         ∧ ((∀ x ∈ g.tens, same x = false) →
           let halo := g.haloBytes q.root q.node q.tile q.rect
           let ten : Ten :=
             { root := q.root, node := q.node, tile := q.tile, rect := q.rect, holder := q.holder
               mode := if q.write then .write else .read, who := g.coreWord q.tid, recalled := false, dirty := [], held := []
               nscope := none, replica := halo, pois := g.haloPois q.root halo
               slice := g.homeSlice q.root q.rect, resv := g.reservations q.root q.rect }
           s.grant id q = State.tenReply { g with tens := Store.put g.tens g.next ten, next := g.next + 1 } id q .done)
         ∧ (∀ k x, g.tens.filter same = [(k, x)] → x.mode = .read → q.write = true → s.grant id q = State.tenReply
             { g with tens := Store.put g.tens k { x with mode := .write, who := g.coreWord q.tid, recalled := false } } id q .done)))

/-- (a) R11, R77, R82, R169: TREL and TFLS by a holder of this tile, by whichever handle it was acquired. A tile that the holder
holds not at all answers 2 (NOTHELD), a read tenure in TFLS 3 (NOTWRITE); TREL of a read tenure ends it. Of a write tenure the
data is published: at core scope, or tile scope of a fused holder, whose core scope is tile scope, it stays in the holder's L1,
else it goes to the home, where a page of it that is demoted raises 0x10; then TREL ends the tenure, TFLS keeps it; the answer
waits for the halo push of the data.
(b) R81, R82: what TREL and TFLS do with a record. Published data is the record's released data with its dirty data over it.
Kept in the L1, it becomes the record's released data, with the narrowest scope noted; sent home (no page of it demoted), it
is written there with its poison and the record keeps none. Other records of the storage root drop what they had released of
these bytes. A record ends with no data left unless released data stays. The push carries the bytes; one of no bytes is none.
Log entries 13, 29, 73: what the model chose here. -/
def Obligations.TenureReleaseAndPublishing : Prop :=
  (∀ (s : State) (d a : Reg) (p : Scope) (lc : Word) (t : Target) (st : List Nat) (n : Node),
       let l := s.reg a
       let s0 := { s with maps := s.maps.countHits st }
       let h := s.holderOf s.cur
       let mine (q : Nat × Ten) : Prop := (q.2.mode = .read ∨ q.2.mode = .write) ∧ q.2.holder = h
         ∧ q.2.root = storageRoot s.maps t.node ∧ q.2.rect = rectOf s.maps t
       s.remoteHome l = none → resolve s.maps (s.mapOf s.cur) l = ⟨.ok (lc, t), st⟩ → s.node t.node = some n →
       accessCheck n t.child .load s.me.level.toNat l 0 1 = none → s.relPending s.cur = false →
       (n.kind = 2 ∨ n.kind = 1 ∧ t.child = none) → s.maps.isHost t.node = false →
       ((∀ q ∈ s.tens, ¬ mine q) → replies (.trel d a p) s s0 l d 2 none ∧ replies (.tfls d a p) s s0 l d 2 none)
       ∧ (∀ q : Nat × Ten, s.ownTen h t = some q → q ∈ s.tens ∧ mine q)
       ∧ (∀ id x, s.ownTen h t = some (id, x) →
         let sc := if x.holder.fused then Nat.max p.code.toNat 1 else p.code.toNat
         let narrow : Prop := sc = 0 ∨ (x.holder.fused = true ∧ sc = 1)
         (x.mode = .read →
             replies (.tfls d a p) s s0 l d 3 none ∧ replies (.trel d a p) s (s0.endTen id sc) l d 0 none)
         ∧ (x.mode = .write →
             let bytes := overlay x.held x.dirty
             let s1 := s0.publish id x sc
             let s2 := (s1.queuePush x.root bytes x.pois).1
             let push := (s1.queuePush x.root bytes x.pois).2
             (narrow ∨ (∀ b ∈ (bytes : List (Nat × Byte)), s.demotedAt x.root b.1 = false) →
               replies (.tfls d a p) s s2 l d 0 push ∧ replies (.trel d a p) s (s2.endTen id sc) l d 0 push)
             ∧ (¬ narrow → ∀ o, (bytes.map (·.1)).find? (s.demotedAt x.root) = some o → ∀ i : Instr, i = .trel d a p ∨ i = .tfls d a p →
               exec i s = .next (s0.trap 0x10 (BitVec.ofNat 64 o))))))
  ∧ (∀ (s : State) (id scope : Nat) (t : Ten),
       let all := overlay t.held t.dirty
       let narrow : Prop := scope = 0 ∨ (t.holder.fused = true ∧ scope = 1)
       let u := s.publish id t scope
       (Store.wf t.dirty = true → ∀ o, Store.find all o = (Store.find t.dirty o).or (Store.find t.held o))
       ∧ (narrow → all ≠ [] → u = { s with tens := u.tens, pushes := u.pushes } ∧ Store.find u.tens id = some { t with
           dirty := [], held := all, nscope := some (match t.nscope with
             | some k => Nat.min k scope
             | none => scope) })
       ∧ (¬ narrow → (∀ b ∈ all, s.demotedAt t.root b.1 = false) →
           let home := s.writeBack t.root all t.pois
           u = { s with dram := home.dram, dramPois := home.dramPois, tens := u.tens, pushes := u.pushes
                        mod := { s.mod with meters := u.mod.meters, llc := u.mod.llc } }
           ∧ home.dram = (s.putHomeAll t.root all).dram
           ∧ Store.find u.tens id = some { t with dirty := [], held := [], nscope := none })
       ∧ (∀ q ∈ u.tens, q.1 ≠ id → ∃ x, (q.1, x) ∈ s.tens ∧ q.2 = { x with held := q.2.held, nscope := q.2.nscope }
           ∧ (x.root ≠ t.root → q.2 = x) ∧ (x.root = t.root → ∀ b, b ∈ q.2.held ↔ b ∈ x.held ∧ Store.find all b.1 = none))
       ∧ (∀ x, Store.find s.tens id = some x →
           (x.held = [] → s.endTen id scope = { s with tens := Store.del s.tens id })
           ∧ (x.held ≠ [] → s.endTen id scope
             = { s with tens := Store.put s.tens id { x with mode := .released scope, replica := [], recalled := false } }))
       ∧ s.queuePush t.root [] t.pois = (s, none)
       ∧ (all ≠ [] → ∃ v : State, s.queuePush t.root all t.pois = (v, some s.next)
           ∧ v = { s with pushes := v.pushes, next := s.next + 1 } ∧ Store.find v.pushes s.next = some (t.root, all, t.pois)))

/-- (a) R77, Table 4.1: TQRY of a tile answers a word with STATE in bits 3:0 (4: the holder's own tenure was revoked and it has no
other; else 3: a split node one of whose children is held, or is itself split and has one left; else 2: a write tenure; else 1: a read tenure; else 0), RECALLED in bit 4,
NSCOPE in bits 7:5 (the least scope noted, 7 with none), the number of read holders, at most 255, in bits 15:8 and, in STATE 2,
the writer's core number in bits 63:32. It reports every record of the storage root that overlaps the tile.
(b) R79: TSPL of a tile that the holder does not hold answers 2 (NOTHELD), of one held for read 3 (NOTWRITE), of one whose
children do not tile it 4 (NOCOVER), and changes nothing. Of a held write tenure whose children tile it, one step removes the
parent's record, gives each child in turn a write record of the same holder with the parent's data that lies in it and its own
halo, and marks the parent split; the answer is 0. The children of a tile array are its implicit tiles, those of a tensor its
KIND 1 children on the same storage root.
(c) R85, R169: TDSC of a tile that another holder holds for write traps with 0x0A, and one with a demoted page raises 0x10.
Else every record of the storage root drops its dirty, released and (but for the issuer's own) replica data in the tile, other
holders' read tenures that overlap it are revoked, no tenure of the issuer ends, pushes still on their way drop those bytes,
every byte of the tile reads zero at its home where its page is present, and the answer is 0.
Log entries 13, 15, 29, 61, 68, 73: what the model chose here. -/
def Obligations.TenureSplitDiscardQuery : Prop :=
  (∀ (s : State) (d a : Reg) (lc : Word) (t : Target) (st : List Nat) (n : Node),
       let l := s.reg a
       let s0 := { s with maps := s.maps.countHits st }
       let h := s.holderOf s.cur
       let over_ (q : Nat × Ten) : Prop := q ∈ s.tens ∧ q.2.root = storageRoot s.maps t.node ∧ q.2.rect.meets (rectOf s.maps t) = true
       let own (q : Nat × Ten) : Prop := over_ q ∧ q.2.holder = h
       let live (x : Ten) : Prop := x.mode = .read ∨ x.mode = .write
       let revoked : Prop := (∃ q, own q ∧ q.2.mode = .revoked) ∧ ∀ q, own q → ¬ live q.2
       let split : Prop := t.child = none ∧ t.node ∈ s.splits ∧ s0.childLeft t.node 8 = true
       s.remoteHome l = none → resolve s.maps (s.mapOf s.cur) l = ⟨.ok (lc, t), st⟩ → s.node t.node = some n →
       accessCheck n t.child .load s.me.level.toNat l 0 1 = none →
       (n.kind = 2 ∨ n.kind = 1 ∧ t.child = none) → s.maps.isHost t.node = false →
       ∃ state recalled nscope readers who : Nat,
         replies (.tqry d a) s s0 l d
           (BitVec.ofNat 64 (who * 2 ^ 32 + Nat.min readers 255 * 2 ^ 8 + nscope * 2 ^ 5 + recalled * 2 ^ 4 + state)) none
         ∧ (revoked → state = 4) ∧ (¬ revoked → split → state = 3)
         ∧ (¬ revoked → ¬ split → ((∃ q, over_ q ∧ q.2.mode = .write) → state = 2)
           ∧ ((∀ q, over_ q → q.2.mode ≠ .write) →
             ((∃ q, over_ q ∧ q.2.mode = .read) → state = 1) ∧ ((∀ q, over_ q → q.2.mode ≠ .read) → state = 0)))
         ∧ ((∃ q, own q ∧ live q.2 ∧ q.2.recalled = true) → recalled = 1)
         ∧ ((∀ q, own q → live q.2 → q.2.recalled = false) → recalled = 0)
         ∧ nscope ≤ 7 ∧ (∀ q, over_ q → ∀ k, q.2.nscope = some k → nscope ≤ k)
         ∧ (nscope = 7 ∨ ∃ q, over_ q ∧ q.2.nscope = some nscope)
         ∧ (∃ hs : List Holder, hs.Nodup ∧ readers = hs.length ∧ ∀ x, x ∈ hs ↔ ∃ q, over_ q ∧ q.2.mode = .read ∧ q.2.holder = x)
         ∧ (state ≠ 2 → who = 0) ∧ (state = 2 → ∃ q, over_ q ∧ q.2.mode = .write ∧ who = q.2.who.toNat)
         ∧ ∀ (u : State) (node f : Nat), u.childLeft node 0 = false
           ∧ (u.childLeft node (f + 1) = true ↔ ∃ k : Target, k ∈ u.splitKids { node := node, child := none }
             ∧ ((∃ q ∈ u.tens, live q.2 ∧ q.2.root = storageRoot u.maps k.node ∧ q.2.rect = rectOf u.maps k)
               ∨ k.child = none ∧ k.node ∈ u.splits ∧ u.childLeft k.node f = true)))
  ∧ (∀ (s : State) (d a : Reg) (lc : Word) (t : Target) (st : List Nat) (n : Node),
       let l := s.reg a
       let s0 := { s with maps := s.maps.countHits st }
       let h := s.holderOf s.cur
       let kids : List Target := s.splitKids t
       let rects := kids.map (rectOf s.maps)
       let tiles (r : Rect) : Prop := rects.Pairwise (fun x y => x.meets y = false) ∧ (∀ x ∈ rects, x.within r = true)
         ∧ (rects.map Rect.size).sum = r.size
       s.remoteHome l = none → resolve s.maps (s.mapOf s.cur) l = ⟨.ok (lc, t), st⟩ → s.node t.node = some n →
       accessCheck n t.child .load s.me.level.toNat l 0 1 = none →
       (n.kind = 2 ∨ n.kind = 1 ∧ t.child = none) → s.maps.isHost t.node = false →
       (∀ k : Target, k ∈ kids ↔ t.child = none ∧ (n.kind = 2 ∧ k.node = t.node ∧ (∃ j < n.implicit, k.child = some j)
         ∨ n.kind = 1 ∧ k.child = none ∧ (∃ g c, (g, k.node) ∈ n.kids ∧ s.node k.node = some c ∧ c.kind = 1)
           ∧ storageRoot s.maps k.node = storageRoot s.maps t.node))
       ∧ (s.ownTen h t = none → replies (.tspl d a) s s0 l d 2 none)
       ∧ (∀ id x, s.ownTen h t = some (id, x) →
         (x.mode ≠ .write → replies (.tspl d a) s s0 l d 3 none)
         ∧ (x.mode = .write → ¬ tiles x.rect → replies (.tspl d a) s s0 l d 4 none)
         ∧ (x.mode = .write → tiles x.rect → ∃ s1 : State,
           s1 = { s0 with tens := s1.tens, splits := s1.splits, next := s0.next + kids.length }
           ∧ replies (.tspl d a) s s1 l d 0 none
           ∧ (∀ k, k < s.next ∨ s.next + kids.length ≤ k →
             Store.find s1.tens k = if k = id then none else Store.find s.tens k)
           ∧ (∀ i k, kids[i]? = some k → ∃ y, Store.find s1.tens (s.next + i) = some y ∧ y.mode = .write ∧ y.holder = x.holder
             ∧ y.who = x.who ∧ y.root = x.root ∧ y.node = k.node ∧ y.rect = rectOf s.maps k
             ∧ (∀ b, b ∈ y.dirty ↔ b ∈ x.dirty ∧ s.rectHasByte x.root y.rect b.1 = true)
             ∧ (∀ b, b ∈ y.held ↔ b ∈ x.held ∧ s.rectHasByte x.root y.rect b.1 = true)
             ∧ (y.held = [] → y.nscope = none) ∧ (y.held ≠ [] → y.nscope = x.nscope)
             ∧ y.replica = s.haloBytes x.root k.node k.tile y.rect)
           ∧ (kids ≠ [] → t.node ∈ s1.splits))))
  ∧ (∀ (s : State) (d a : Reg) (p : Scope) (lc : Word) (t : Target) (st : List Nat) (n : Node),
       let l := s.reg a
       let s0 := { s with maps := s.maps.countHits st }
       let h := s.holderOf s.cur
       let root := storageRoot s.maps t.node
       let r := rectOf s.maps t
       let inTile (o : Nat) : Prop := s.rectHasByte root r o = true
       let other : Prop := ∃ q ∈ s.tens, q.2.mode = .write ∧ q.2.root = root ∧ q.2.holder ≠ h ∧ q.2.rect.meets r = true
       s.remoteHome l = none → resolve s.maps (s.mapOf s.cur) l = ⟨.ok (lc, t), st⟩ → s.node t.node = some n →
       accessCheck n t.child .load s.me.level.toNat l 0 1 = none → s.relPending s.cur = false →
       (n.kind = 2 ∨ n.kind = 1 ∧ t.child = none) → s.maps.isHost t.node = false →
       (other → exec (.tdsc d a p) s = .next (s0.trap 0x0A (Config.tenureValue l 0)))
       ∧ (¬ other → ∀ o, (s.rectBytes root r).find? (s.demotedAt root) = some o →
           exec (.tdsc d a p) s = .next (s0.trap 0x10 (BitVec.ofNat 64 o)))
       ∧ (¬ other → (∀ o ∈ s.rectBytes root r, s.demotedAt root o = false) → ∃ s1 : State,
         replies (.tdsc d a p) s s1 l d 0 none
         ∧ s1 = { s0 with tens := s1.tens, pushes := s1.pushes, dram := s1.dram, dramPois := s1.dramPois
                          mod := { s.mod with meters := s1.mod.meters, llc := s1.mod.llc } }
         ∧ (∀ o ∈ s.rectBytes root r, s1.homeByte root o = 0)
         ∧ (∀ k, (∀ o ∈ s.rectBytes root r, s.physOf root o ≠ some k) → s1.dram.read k = s.dram.read k)
         ∧ (∀ q ∈ s1.tens, ∃ x, (q.1, x) ∈ s.tens ∧ q.2.holder = x.holder ∧ q.2.root = x.root ∧ q.2.rect = x.rect
           ∧ (x.root ≠ root → q.2 = x)
           ∧ (x.root = root → (∀ b, b ∈ q.2.dirty ↔ b ∈ x.dirty ∧ ¬ inTile b.1) ∧ (∀ b, b ∈ q.2.held ↔ b ∈ x.held ∧ ¬ inTile b.1)
             ∧ (x.holder ≠ h → ∀ b ∈ q.2.replica, b ∈ x.replica ∧ ¬ inTile b.1)
             ∧ (x.holder ≠ h → x.mode = .read → x.rect.meets r = true → q.2.mode = .revoked)
             ∧ (¬ (x.holder ≠ h ∧ x.mode = .read ∧ x.rect.meets r = true) → q.2.mode = x.mode)))
         ∧ (∀ q ∈ s.tens, q.2.mode = .read ∨ q.2.mode = .write → ∃ y, (q.1, y) ∈ s1.tens)
         ∧ (∀ q ∈ s1.pushes, q.2.1 = root → ∀ b ∈ q.2.2.1, ¬ inTile b.1)))

/-- R74, R76, R78, R81, R83: a request may be granted exactly when no tenure of its storage root overlaps its rectangle with one of
the two for write, but for the holder's own of the same tile, no earlier queued request that it clashes with stands before it,
no record of another holder that overlaps it still owes released data to a page that is not demoted, and no halo push of a
release still carries a byte of it. The directory slice of
a storage root on a die is the tile that Home's last line names.
Log entries 61, 73: what the model chose here. -/
def Obligations.GrantsExclude : Prop :=
  ∀ (s : State) (id : Nat) (q : TenReq),
    (s.grantable id q = true ↔
      (∀ x ∈ s.tens, x.2.mode = .read ∨ x.2.mode = .write → x.2.root = q.root → x.2.rect.meets q.rect = true →
        q.write = true ∨ x.2.mode = .write → x.2.holder = q.holder ∧ x.2.rect = q.rect)
      ∧ (∀ p ∈ s.treqs, p.1 ≠ id → p.2.root = q.root → p.2.rect.meets q.rect = true → (q.write = true ∨ p.2.write = true) →
        ∀ k, p.2.queued = some k → ∃ j, q.queued = some j ∧ j ≤ k)
      ∧ (∀ x ∈ s.tens, x.2.root = q.root → x.2.rect.meets q.rect = true → x.2.holder ≠ q.holder →
        ∀ b ∈ x.2.held, s.demotedAt q.root b.1 = true)
      ∧ (∀ p ∈ s.pushes, p.2.1 = q.root → ∀ b ∈ p.2.2.1, s.rectHasByte q.root q.rect b.1 = false))
    ∧ (∀ root die : Nat, die < 4 →
        let k := (root / 64 % 256) ^^^ (root / 16384 % 256)
        sliceTile root die / 32 = 16 * (die / 2) + k / 16 ∧ sliceTile root die % 32 = 16 * (die % 2) + k % 16)

/-- R76, R81, R83, R86: a read tenure that a queued write request of an overlapping rectangle waits for, other than its holder's
upgrade of the same tile, is recalled and marked. Of two queued requests that clash, one of them blocked by a recalled read
tenure of the other's holder, the one of lower stamp, then lower core number, wins: the loser's read tenures that overlap it are
revoked and its request goes to the tail with its stamp. Released data that a queued or no-wait TACQ, or a sent load, atomic or
CAS of another holder that reads the home (no tenure of its own and no replica has the byte), asks for reaches the home. A halo push refreshes the replica bytes of its storage root's tenures that
it carries and is gone.
Log entries 29, 73: what the model chose here. -/
def Obligations.TenureEvents : Prop :=
  ∀ (s : State) (id : Nat),
    (∀ x, Store.find s.tens id = some x → x.mode = .read → x.recalled = false →
      (∃ q ∈ s.treqs, q.2.queued ≠ none ∧ q.2.write = true ∧ q.2.root = x.root ∧ x.rect.meets q.2.rect = true
        ∧ ¬ (x.holder = q.2.holder ∧ x.rect = q.2.rect)) →
      exec (.recall id) s = .next { s with tens := Store.put s.tens id { x with recalled := true } })
    ∧ (∀ jd a b, Store.find s.treqs id = some a → Store.find s.treqs jd = some b → id ≠ jd →
        a.queued ≠ none → b.queued ≠ none →
        let blocked (x y : TenReq) : Prop := y.write = true ∧ x.clashes y = true ∧ ∃ t ∈ s.tens, t.2.mode = .read ∧ t.2.recalled = true
          ∧ t.2.holder = x.holder ∧ t.2.root = y.root ∧ t.2.rect.meets y.rect = true
          ∧ ¬ (t.2.holder = y.holder ∧ t.2.rect = y.rect)
        (blocked a b ∨ blocked b a) →
        let first := a.stamp < b.stamp ∨ (a.stamp = b.stamp ∧ (s.coreWord a.tid).toNat < (s.coreWord b.tid).toNat)
        let won (w : TenReq) (lid : Nat) (l : TenReq) : Prop :=
          let loses (x : Ten) : Prop := x.mode = .read ∧ x.holder = l.holder ∧ x.root = w.root ∧ x.rect.meets w.rect = true
            ∧ ¬ (x.holder = w.holder ∧ x.rect = w.rect)
          ((∃ x ∈ s.tens, loses x.2) ∨ l.queued.getD 0 ≤ w.queued.getD 0) → completes (.conflictReport id jd) s (fun u =>
            u = { s with tens := u.tens, treqs := Store.put s.treqs lid { l with queued := some s.next }, next := s.next + 1 }
            ∧ ∀ k y, (k, y) ∈ u.tens ↔ ∃ x, (k, x) ∈ s.tens ∧ (loses x → y = { x with mode := .revoked, replica := [] })
              ∧ (¬ loses x → y = x))
        (first → won a jd b) ∧ (¬ first → won b id a))
    ∧ (∀ x, Store.find s.tens id = some x → (∃ b ∈ x.held, s.demotedAt x.root b.1 = false) →
        ((∃ q ∈ s.treqs, (q.2.queued ≠ none ∨ q.2.nowait = true) ∧ q.2.root = x.root ∧ q.2.rect.meets x.rect = true
            ∧ q.2.holder ≠ x.holder)
          ∨ (∃ a ∈ s.accs, a.2.state = .sent ∧ a.2.op.reads = true ∧ a.2.holder ≠ x.holder
            ∧ ∃ b ∈ s.placeBytes a.2.place a.2.n, b.1 = x.root ∧ s.rectHasByte x.root x.rect b.2 = true
              ∧ s.readsHome a.2.holder b.1 b.2 = true)
          ∨ s.heldBack id = true) →
        let stays : Store Byte := x.held.filter (fun p => s.demotedAt x.root p.1)
        let goes : Store Byte := x.held.filter (fun p => !s.demotedAt x.root p.1)
        completes (.forcedPublish id) s (fun u =>
          u = { s with dram := u.dram, dramPois := u.dramPois, tens := u.tens, mod := { s.mod with meters := u.mod.meters, llc := u.mod.llc } }
          ∧ u.dram = (s.putHomeAll x.root goes).dram
          ∧ (stays = [] → (∃ k, x.mode = .released k) → u.tens = Store.del s.tens id)
          ∧ (stays = [] → (∀ k, x.mode ≠ .released k) → u.tens = Store.put s.tens id { x with held := [], nscope := none })
          ∧ (stays ≠ [] → u.tens = Store.put s.tens id { x with held := stays })))
    ∧ (∀ root l pois, Store.find s.pushes id = some (root, l, pois) → completes (.haloPush id) s (fun u =>
        u = { s with tens := u.tens, pushes := Store.del s.pushes id }
        ∧ ∀ k y, (k, y) ∈ u.tens → ∃ x, (k, x) ∈ s.tens ∧ y = { x with replica := y.replica, pois := y.pois }
          ∧ (¬ (x.root = root ∧ (x.mode = .read ∨ x.mode = .write)) → y = x)
          ∧ (x.root = root → (x.mode = .read ∨ x.mode = .write) → ∀ o, (Store.find y.replica o).isSome = (Store.find x.replica o).isSome
            ∧ (Store.find l o = none → Store.find y.replica o = Store.find x.replica o)
            ∧ (Store.wf l = true → (Store.find x.replica o).isSome = true → (Store.find l o).isSome = true →
              Store.find y.replica o = Store.find l o))))
    ∧ (∀ h root off, s.readsHome h root off = true ↔ s.l1Cell h root off = none
        ∧ ∀ x ∈ s.tens, x.2.holder = h → x.2.root = root → (x.2.mode = .read ∨ x.2.mode = .write) →
          s.rectHasByte root x.2.rect off = false)

/-! ## Synchronisation -/

/-- R171 to R173, R112, R366: SEND of a tenant thread puts its value into the thread's send-queue entry, marks its core for the
Circus token, and waits while that entry is occupied; a value that names no core of its partition traps with 0x0E, a management
thread's SEND with 0x02. A delivery lands while the target's presence is clear, and writes the register, poisoned where the
delivery is; CLRP clears a presence bit, WAITP waits for one, TESTP reads one.
Log entry 12: what the model chose here. -/
def Obligations.Channels : Prop :=
  ∀ (s : State) (d a b : Reg),
    (49152 ≤ s.cur → exec (.send d a b) s = .next (s.trap 0x02 0))
    ∧ (s.cur < 49152 →
      (s.sendTarget (s.reg a) = none → exec (.send d a b) s = .next (s.trap 0x0E (s.reg a)))
      ∧ (∀ t, s.sendTarget (s.reg a) = some t →
        (Store.find s.sync.sends s.cur ≠ none → exec (.send d a b) s = .next (s.stall .sendEntry))
        ∧ (Store.find s.sync.sends s.cur = none → completes (.send d a b) s (fun u =>
            u = { s with sync := { s.sync with sends := u.sync.sends }, launches := u.launches }
            ∧ u.launches = (s.setMark s.cur).launches
            ∧ Store.find u.sync.sends s.cur = some { target := t, chan := d, value := s.reg b, pois := false }
            ∧ ∀ k, k ≠ s.cur → Store.find u.sync.sends k = Store.find s.sync.sends k))))
    ∧ (∀ sender x, Store.find s.sync.sends sender = some x →
        ((s.thread x.target).present x.chan.toNat = true → exec (.sendLanding sender) s = .next s)
        ∧ ((s.thread x.target).present x.chan.toNat = false → completes (.sendLanding sender) s (fun u =>
            u = { s with threads := u.threads, sync := { s.sync with sends := Store.del s.sync.sends sender } }
            ∧ (∀ k, k ≠ x.target → u.thread k = s.thread k)
            ∧ (x.pois = false → regWrite (s.thread x.target) (u.thread x.target) x.chan x.value)
            ∧ (x.pois = true → ∃ y, regWrite (s.thread x.target) y x.chan x.value
              ∧ u.thread x.target = { y with pois := y.pois ||| (1 : BitVec 32) <<< x.chan.toNat }))))
    ∧ (24 ≤ a.toNat →
        completes (.clrp a) s (fun u => onlyThread s u s.cur ∧ sameBytes s u
          ∧ u.me = { s.me with pres := u.me.pres } ∧ u.me.present a.toNat = false
          ∧ ∀ r : Reg, 24 ≤ r.toNat → r ≠ a → u.me.present r.toNat = s.me.present r.toNat)
        ∧ (s.me.present a.toNat = true → exec (.waitp a) s = .next s)
        ∧ (s.me.present a.toNat = false → exec (.waitp a) s = .next (s.stall (.chan a.toNat)))
        ∧ results (.testp d a) s d (if s.me.present a.toNat then 1 else 0))

/-- (a) R174, R359, Table 9.7: the sync-word members on the issuing tile. `key` is the word's 16-byte unit and `f` its 32-bit
fields TARGET, COUNT, GEN and STATUS; nothing else of any memory changes. SWARM keeps GEN on a tagged word and zeroes it
on an untagged one, and tags it; SWADD adds modulo TARGET and its carries go to GEN, after the thread's earlier stores, and
every wait on the word that GEN now passes ends in the same step; SWWAIT and BWWAIT put the thread out of the rotation until GEN
passes their value. A word that fails its check traps with 0x0C, a poisoned one, once its tag and the operand are
checked, with 0x13, one that is not aligned with 0x04, an address that names no scratchpad byte of the thread's with LocalAddr's
cause. A word elsewhere is an access in flight, and a release that waits for the thread's stores one that has not left.
(b) R175, R359, Table 9.7: the barrier members on the issuing tile: BWINIT sets EXPECTED and clears ARRIVED and STATUS; BWARR
counts one arrival, the last of which clears ARRIVED, advances GEN and ends the waits that GEN passes, and returns the GEN it
found; BWFREE of a word on which no thread waits zeroes it and clears its tag. A word that fails its check traps with 0x0C, a poisoned one that is read,
once its tag and the operand are checked, with 0x13.
Log entry 74: what the model chose here. -/
def Obligations.SyncAndBarrierWords : Prop :=
  (∀ (s : State) (d a b : Reg) (p : Scope),
       let v := (s.reg b).toNat
       let all : List (Instr × AccOp × Reg × MemOrd × Nat) := [(.swarm a b, .swarm v, 0, .plain, 0), (.swadd a b p, .swadd v, 0, .rel, p.code.toNat)
         , (.swwait a b, .waitGen v, 0, .plain, 0), (.bwinit a b, .bwinit v, 0, .plain, 0), (.bwarr d a p, .bwarr, d, .rel, p.code.toNat)
         , (.bwwait a b, .waitGen v, 0, .plain, 0), (.bwfree a, .bwfree, 0, .plain, 0)]
       (∀ i ∈ all, (∀ e, s.localAddr s.cur (s.reg a) = .error e → exec i.1 s = .next (s.trap e.1 e.2))
         ∧ (∀ key, s.localAddr s.cur (s.reg a) = .ok key →
           (key % 16 ≠ 0 → exec i.1 s = .next (s.trap 0x04 (s.reg a)))
           ∧ (key % 16 = 0 → i.2.2.2.1 = .rel → s.relPending s.cur = true → completes i.1 s (fun u => sends s u
               (s.access (.spad key (s.reg a)) 16 i.2.1 i.2.2.1 i.2.2.2.1 i.2.2.2.2 .held)))
           ∧ (key % 16 = 0 → (49152 ≤ s.cur ∨ key / 2 ^ 20 ≠ s.cur / 48) → (i.2.2.2.1 = .rel → s.relPending s.cur = false) →
             completes i.1 s (fun u => u.mod = { s.mod with net := u.mod.net } ∧ sends { s with mod := u.mod } u
               (s.access (.spad key (s.reg a)) 16 i.2.1 i.2.2.1 i.2.2.2.1 i.2.2.2.2 .sent)))))
       ∧ ∀ key, s.localAddr s.cur (s.reg a) = .ok key → key % 16 = 0 → s.cur < 49152 → key / 2 ^ 20 = s.cur / 48 →
       let f (u : State) (i : Nat) : Nat := u.spad.readLe (key + 4 * i) 4
       let changes (u : State) : Prop := u = { s with spad := u.spad, tags := u.tags }
         ∧ ∀ x, x < key ∨ key + 16 ≤ x → u.spad.read x = s.spad.read x
       let released (u : State) (gen : Nat) : Prop := u = { s with spad := u.spad, threads := u.threads, accs := u.accs }
         ∧ (∀ x, x < key ∨ key + 16 ≤ x → u.spad.read x = s.spad.read x)
         ∧ (∀ k, u.thread k = { s.thread k with waits := (s.thread k).waits.filter (fun w => !w.passed key gen) })
         ∧ ∀ k x, Store.find s.accs k = some x → (x.passed key gen = true → Store.find u.accs k = some { x with state := .performed none 0 })
           ∧ (x.passed key gen = false → Store.find u.accs k = some x)
       let bad : Prop := s.spadPoisoned key 16 = true
       let poison (i : Instr) : Prop := exec i s = .next (s.trap 0x13 (Config.poisonValue (s.reg a)))
       (∀ g n, (Why.gen key n).passed key g = true ↔ 1 ≤ (g + 2 ^ 32 - n % 2 ^ 32) % 2 ^ 32 ∧ (g + 2 ^ 32 - n % 2 ^ 32) % 2 ^ 32 ≤ 2 ^ 31)
       ∧ (1 ≤ v → v < 2 ^ 32 → completes (.swarm a b) s (fun u => changes u ∧ u.tagged key = true
         ∧ f u 0 = v ∧ f u 1 = 0 ∧ f u 2 = (if s.tagged key then f s 2 else 0) ∧ f u 3 = 0
         ∧ ∀ x, x / 16 ≠ key / 16 → u.tagged x = s.tagged x))
       ∧ ((v = 0 ∨ 2 ^ 32 ≤ v) → exec (.swarm a b) s = .next (s.trap 0x0C (s.reg a)))
       ∧ (s.relPending s.cur = false →
         (s.tagged key = true → v < 2 ^ 32 → bad → poison (.swadd a b p))
         ∧ (s.tagged key = true → f s 0 ≠ 0 → v < 2 ^ 32 → ¬ bad → completes (.swadd a b p) s (fun u =>
           released u ((f s 2 + (f s 1 + v) / f s 0) % 2 ^ 32) ∧ f u 0 = f s 0 ∧ f u 1 = (f s 1 + v) % f s 0 ∧ f u 2 = (f s 2 + (f s 1 + v) / f s 0) % 2 ^ 32 ∧ f u 3 = f s 3))
         ∧ (¬ (s.tagged key = true ∧ v < 2 ^ 32) ∨ (¬ bad ∧ f s 0 = 0) → exec (.swadd a b p) s = .next (s.trap 0x0C (s.reg a))))
       ∧ (∀ i : Instr, i = .swwait a b ∨ i = .bwwait a b →
         (s.tagged key = true → v < 2 ^ 32 → bad → poison i)
         ∧ (s.tagged key = true → v < 2 ^ 32 → ¬ bad → let dist := (f s 2 + 2 ^ 32 - v) % 2 ^ 32
           (1 ≤ dist → dist ≤ 2 ^ 31 → exec i s = .next s)
           ∧ (dist = 0 ∨ 2 ^ 31 < dist → completes i s (fun u => onlyThread s u s.cur
             ∧ u.me = { s.me with waits := .gen key v :: s.me.waits })))
         ∧ (s.tagged key = false ∨ 2 ^ 32 ≤ v → exec i s = .next (s.trap 0x0C (s.reg a)))))
  ∧ (∀ (s : State) (d a b : Reg) (p : Scope) (key : Nat),
       s.localAddr s.cur (s.reg a) = .ok key → key % 16 = 0 → s.cur < 49152 → key / 2 ^ 20 = s.cur / 48 →
       let f (u : State) (i : Nat) : Nat := u.spad.readLe (key + 4 * i) 4
       let v := (s.reg b).toNat
       let gen : Nat := (f s 2 + 1) % 2 ^ 32
       let bytesOut (u : State) : Prop := ∀ x, x < key ∨ key + 16 ≤ x → u.spad.read x = s.spad.read x
       let bad : Prop := s.spadPoisoned key 16 = true
       let poison (i : Instr) : Prop := exec i s = .next (s.trap 0x13 (Config.poisonValue (s.reg a)))
       (1 ≤ v → v < 2 ^ 32 → s.tagged key = true → bad → poison (.bwinit a b))
       ∧ (1 ≤ v → v < 2 ^ 32 → (s.tagged key = false ∨ (¬ bad ∧ f s 1 = 0)) → completes (.bwinit a b) s (fun u =>
         u = { s with spad := u.spad, tags := u.tags } ∧ bytesOut u ∧ u.tagged key = true
         ∧ f u 0 = v ∧ f u 1 = 0 ∧ f u 2 = (if s.tagged key then f s 2 else 0) ∧ f u 3 = 0))
       ∧ (v = 0 ∨ 2 ^ 32 ≤ v ∨ (s.tagged key = true ∧ ¬ bad ∧ f s 1 ≠ 0) → exec (.bwinit a b) s = .next (s.trap 0x0C (s.reg a)))
       ∧ (s.relPending s.cur = false →
         (s.tagged key = true → bad → poison (.bwarr d a p))
         ∧ (s.tagged key = true → ¬ bad → f s 0 ≠ 0 → f s 3 = 0 →
           (f s 1 + 1 ≠ f s 0 → completes (.bwarr d a p) s (fun u =>
             u = { s with threads := u.threads, spad := u.spad } ∧ (∀ k, k ≠ s.cur → u.thread k = s.thread k) ∧ bytesOut u
             ∧ regWrite s.me u.me d (BitVec.ofNat 64 (f s 2)) ∧ f u 0 = f s 0 ∧ f u 3 = 0 ∧ f u 1 = (f s 1 + 1) % 2 ^ 32 ∧ f u 2 = f s 2))
           ∧ (f s 1 + 1 = f s 0 → completes (.bwarr d a p) s (fun u =>
             let freed (k : Nat) : Thread := { s.thread k with waits := (s.thread k).waits.filter (fun w => !w.passed key gen) }
             u = { s with threads := u.threads, spad := u.spad, accs := u.accs } ∧ (∀ k, k ≠ s.cur → u.thread k = freed k) ∧ bytesOut u
             ∧ regWrite (freed s.cur) u.me d (BitVec.ofNat 64 (f s 2)) ∧ f u 0 = f s 0 ∧ f u 3 = 0 ∧ f u 1 = 0 ∧ f u 2 = gen
             ∧ ∀ k x, Store.find s.accs k = some x → (x.passed key gen = true → Store.find u.accs k = some { x with state := .performed none 0 })
               ∧ (x.passed key gen = false → Store.find u.accs k = some x))))
         ∧ (s.tagged key = false ∨ (¬ bad ∧ (f s 0 = 0 ∨ f s 3 ≠ 0)) → exec (.bwarr d a p) s = .next (s.trap 0x0C (s.reg a))))
       ∧ (s.tagged key = true → s.waitedOn key = false → completes (.bwfree a) s (fun u =>
         u = { s with spad := u.spad, tags := u.tags } ∧ bytesOut u ∧ u.tagged key = false ∧ u.spad.readLe key 16 = 0
         ∧ ∀ x, x / 16 ≠ key / 16 → u.tagged x = s.tagged x))
       ∧ (s.tagged key = false ∨ s.waitedOn key = true → exec (.bwfree a) s = .next (s.trap 0x0C (s.reg a))))

/-- R30, R31, R177, R178, Table 9.8: an ordinal g[a] + k below twice the launch's number of slots names a semaphore of
the issuing tile. P takes one of the count or joins the waiters and waits; V grants the first waiter, or raises the
count, to at most 65,535; T takes one if there is one and says so. The V's of a cycle come before its P's and T's: where a P or T
of the same cycle (`missed`) found the count at zero, a later V of the cycle, with no earlier waiter, goes to the first of them.
Any other ordinal traps with 0x05, and a management thread with 0x02. V waits for the thread's earlier stores.
Log entry 12: what the model chose here. -/
def Obligations.Semaphores : Prop :=
  ∀ (s : State) (d a : Reg) (k : BitVec 5),
    let v := s.reg a + k.setWidth 64
    let named := if v.toNat < 2 * popOf s.mySlots then ordinalPair s.mySlots v.toNat else none
    let all : List Instr := [.semp a k, .semv a k, .semt d a k]
    (49152 ≤ s.cur → ∀ i ∈ all, exec i s = .next (s.trap 0x02 0))
    ∧ (s.cur < 49152 → named = none → ∀ i ∈ all, exec i s = .next (s.trap 0x05 v))
    ∧ (∀ n, s.cur < 49152 → named = some n → let key := s.cur / 48 * 32 + n
      let sem : Why := .semp (key / 32) (key % 32)
      let r := s.semCycle key
      let count (u : State) : Nat := (Store.find u.sync.sems key).getD 0
      let queue (u : State) : List Nat := (Store.find u.sync.waiters key).getD []
      let others (u : State) : Prop :=
        u = { s with threads := u.threads, sync := { s.sync with sems := u.sync.sems, waiters := u.sync.waiters, recent := u.sync.recent } }
        ∧ (∀ j, j ≠ key → Store.find u.sync.sems j = Store.find s.sync.sems j ∧ Store.find u.sync.waiters j = Store.find s.sync.waiters j
          ∧ Store.find u.sync.recent j = Store.find s.sync.recent j)
      let wakes (u : State) (t : Nat) : Prop := queue u = (queue s).erase t ∧ (∀ j, j ≠ t → u.thread j = s.thread j)
        ∧ u.thread t = { s.thread t with waits := (s.thread t).waits.filter (fun w => decide (w ≠ sem)) }
      ((∀ x, Store.find s.sync.recent key = some x → x.cycle ≠ s.cycle) → r = { cycle := s.cycle, taken := 0, missed := [] })
      ∧ (0 < count s → completes (.semp a k) s (fun u => others u ∧ u.threads = s.threads ∧ count u = count s - 1 ∧ queue u = queue s
          ∧ u.semCycle key = { r with taken := r.taken + 1 }))
      ∧ (count s = 0 → completes (.semp a k) s (fun u => others u ∧ count u = 0 ∧ queue u = queue s ++ [s.cur]
          ∧ u.semCycle key = { r with missed := r.missed ++ [(s.cur, none)] }
          ∧ (∀ j, j ≠ s.cur → u.thread j = s.thread j) ∧ u.me = { s.me with waits := sem :: s.me.waits }))
      ∧ (s.relPending s.cur = true → exec (.semv a k) s = .next (s.stall .order))
      ∧ (s.relPending s.cur = false →
        let first := (queue s).find? (fun t => !r.missed.contains (t, none))
        (∀ t, first = some t → completes (.semv a k) s (fun u => others u ∧ count u = count s ∧ wakes u t))
        ∧ (∀ t l, first = none → r.missed = (t, none) :: l → completes (.semv a k) s (fun u => others u ∧ count u = count s ∧ wakes u t
            ∧ u.semCycle key = { r with taken := r.taken + 1, missed := l }))
        ∧ (∀ t x l, first = none → r.missed = (t, some x) :: l → completes (.semv a k) s (fun u => others u ∧ count u = count s
            ∧ queue u = queue s ∧ (∀ j, j ≠ t → u.thread j = s.thread j) ∧ regWrite (s.thread t) (u.thread t) x 1
            ∧ u.semCycle key = { r with taken := r.taken + 1, missed := l }))
        ∧ (first = none → r.missed = [] → completes (.semv a k) s (fun u => others u ∧ u.threads = s.threads ∧ queue u = queue s
            ∧ count u = Nat.min (count s + r.taken + 1) 65535 - r.taken)))
      ∧ completes (.semt d a k) s (fun u => others u ∧ queue u = queue s ∧ count u = count s - 1
          ∧ (∀ j, j ≠ s.cur → u.thread j = s.thread j) ∧ regWrite s.me u.me d (if 0 < count s then 1 else 0)
          ∧ u.semCycle key = if 0 < count s then { r with taken := r.taken + 1 } else { r with missed := r.missed ++ [(s.cur, some d)] }))

/-! ## Vector -/

/-- (a) R188 to R197: a sweep member whose records pass the start checks of Table 10.1 joins its core's queue, with its
records, its rounding mode at issue and its place, and takes its thread out of the rotation; nothing else changes. Of the
source of a VBCAST only the elements that are read are checked. The first record that row 5 refuses traps with 0x0C.
(b) R46, R188, R195, R197: in a core's queue, a sweep behind none of its own launch and behind others' that can make no step is
started, unless a trap or a release of its bundle is on its way, and makes its next small step; one under way that has nothing left to do leaves the
queue, ORs its flags into cr.fst and returns its thread, with VRED's result where it is no poisoned one.
Log entries 21, 22, 28, 30, 68, 74: what the model chose here. -/
def Obligations.Sweeps : Prop :=
  (∀ (s : State) (i : Instr) (ops : List (Reg × Option Nat)) (dest : Option Nat) (rnd : Rnd) (dreg : Reg) (rs : List Shape) (m : Member),
       sweepForm i = some (ops, dest, rnd, dreg) → m.op = i → m.recs = ops → m.dest = dest →
       rs.length = ops.length → (∀ (k : Nat) (o : Reg × Option Nat) (r : Shape), ops[k]? = some o → rs[k]? = some r → s.recordHere (s.reg o.1) r) →
       let few : Option Nat := match i with
         | .vbcast _ _ _ => some (recAt rs 0).count
         | _ => none
       (∀ (k : Nat) (o : Reg × Option Nat), ops[k]? = some o → memberBad m rs = some k → (∀ (j : Nat) (r : Shape), j < k → rs[j]? = some r → r.chan = false) →
         exec i s = .next (s.trap 0x0C (s.reg o.1)))
       ∧ (memberBad m rs = none →
       (∀ (k : Nat) (r : Shape), rs[k]? = some r → s.placed r (decide (dest = some k)) (if dest = some k then none else few)
         ∨ s.chanPlaced r (decide (dest = some k))) →
       completes i s (fun u =>
         u = { s with threads := u.threads, eng := { s.eng with sweeps := u.eng.sweeps } }
         ∧ (∀ k, k ≠ s.cur → u.thread k = s.thread k) ∧ u.me = { s.me with waits := .sweep 0 :: s.me.waits }
         ∧ (∀ k, k ≠ s.cur / 16 → Store.find u.eng.sweeps k = Store.find s.eng.sweeps k)
         ∧ u.sweepQueue (s.cur / 16) = s.sweepQueue (s.cur / 16) ++
           [{ tid := s.cur, op := i, recs := rs, md := (match rnd with
                | .dyn => frmMode s.me.frm
                | .fixed x => x), dreg := dreg, start := false, beat := 0, run := none, flags := 0, pois := false, inb := []
              out := [], dep := none, pc := s.me.pc, left := s.me.left }])))
  ∧ (∀ (s : State) (core j : Nat) (sw : Sweep), let q := s.sweepQueue core
       let behind (held : Sweep → Prop) : Prop := ∀ i w, i < j → q[i]? = some w → s.launchOf w.tid ≠ s.launchOf sw.tid ∧ held w
       q[j]? = some sw → s.runsFor sw.tid = true →
       (∀ id, sw.dep = some id → (s.besideClear sw.dep = true ↔ Store.find s.sync.ctxs id = none ∧ ∀ a, s.acc id = some a →
         (∀ c v, a.state ≠ .failed c v) ∧ (a.state = .held ∨ a.state = .sent → a.ord.isRel = false)))
       ∧ (behind (fun w => s.sweepReady w = false) → s.besideClear sw.dep = true → (s.sweepStep { sw with start := true }).isSome = true →
         let s0 := s.startBeside sw.tid sw.dep
         ∀ s1 sw1, s0.sweepStep { sw with start := true, dep := none } = some (s1, sw1) →
           exec (.sweepStart core 1) s = .next (s1.setSweeps core ((s0.sweepQueue core).set j sw1)))
       ∧ (behind (fun w => s.sweepEnding w = false) → sw.start = true → sw.beats ≤ sw.beat → sw.out.length < 8 →
         let base : Thread := { s.thread sw.tid with
               fst := (s.thread sw.tid).fst ||| BitVec.ofNat 64 sw.flags
               waits := (s.thread sw.tid).waits.filter (fun w => decide (w ≠ .sweep 0)) }
         let ends (P : Thread → Prop) : Prop := completes (.sweepFinish core) s (fun u =>
           u = { s with threads := u.threads, eng := { s.eng with sweeps := u.eng.sweeps } } ∧ u.sweepQueue core = q.eraseIdx j
           ∧ (∀ k, k ≠ core → Store.find u.eng.sweeps k = Store.find s.eng.sweeps k)
           ∧ (∀ k, k ≠ sw.tid → u.thread k = s.thread k) ∧ P (u.thread sw.tid))
         ((∀ d a t r op, sw.op ≠ .vred d a t r op) → ends (fun t => t = base))
         ∧ (sw.pois = false → ∀ d a t r op, sw.op = .vred d a t r op →
           ends (fun y => regWrite base y sw.dreg (redOut op t (sw.run.getD 0))))))

/-- (a) R195, R198 to R203, R209: the next beat of an element-wise sweep reads every source element before it writes any: each
destination element that no other element of the beat overlaps holds the member's result of the source elements as they
stood (old d among them for VFMA, VFMS and VSEL), the sweep gathers its elements' flags, and every scratchpad byte outside the
beat's destination elements is as it was.
(b) R206, R208 to R211: the next beat of VCVT (Round of the exact source value), VUNPK (Round of the decoded block), VBCAST
(source element p mod E_a), VGATH (A's element at the index, zero beyond A) and VIOTA (Round of p, or p's low bits) writes
those values in shape order; VSCAT writes the elements of D that its indexes name, the last of several in shape order.
(c) R95, R207: the next beat of VPACK writes the 18 bytes of its 32 source elements' block, in shape order, at the
destination's block of the same ordinal, and nothing else.
(d) R103 to R105, R204, R205, Table 10.6: a beat of VRED writes nothing and folds the Tree of its lanes, which Op takes in
pairs with an odd last lane passed up, into the running value, and the result g[d] is of it; a beat of VSCAN folds its
elements into the running value one at a time in shape order and writes each running value, rounded to the type for a
floating sum. Op of a floating sum is Round of the exact sum to f32, of an integer sum addition modulo 2^64 of the elements'
values; max and min select.
(e) R93 to R95, Table 5.3: what 18 bytes decode to (NaN at SCALE 0xFF; else each slot times 2^(SCALE − 127), a marked pair
giving its outlier the f8 code of TAILA or TAILB and its partner's slot and 0 to the partner, a third outlier 0 with QX) and what
32 elements without NaN encode to: the least SCALE at which at most two finite elements round beyond ±7, a slot for each
ordinary element, and the marker, the code's nibbles and a given-up partner for an outlier; RoundInt as its mode says. -/
def Obligations.BeatWritesResults : Prop :=
  (∀ (s : State) (d a b : Reg) (t : Ty) (r : Rnd) (sw : Sweep) (i : Instr),
       i = .vadd d a b t r ∨ i = .vsub d a b t r ∨ i = .vmul d a b t r ∨ i = .vdiv d a b t r ∨ i = .vmin d a b t ∨ i = .vmax d a b t
         ∨ i = .vand d a b t ∨ i = .vor d a b t ∨ i = .vxor d a b t ∨ i = .vshl d a b t ∨ i = .vshr d a b t ∨ i = .vsra d a b t
         ∨ i = .vfma d a b t r ∨ i = .vfms d a b t r ∨ i = .vabs d a t ∨ i = .vneg d a t ∨ i = .vsqrt d a t r ∨ i = .vrcp d a t r
         ∨ i = .vrsq d a t r ∨ i = .vexp d a t r ∨ i = .vexp2 d a t r ∨ i = .vlog2 d a t r ∨ i = .vtanh d a t r ∨ i = .vsigm d a t r
         ∨ (∃ c, i = .vcmp d a b t c) ∨ i = .vsel d a b t ∨ i = .vcpy d a t →
       sw.op = i → (∀ k, (sw.recOf k).chan = false) →
       let n := sw.lead.width
       let place (p : Nat) : Option Nat := s.ownKey sw.tid (sw.lead.offset (indexOf sw.lead.ext p))
       let code (k p : Nat) : Nat := s.readElem sw.tid (sw.recOf k) (indexOf sw.lead.ext p)
       let out (p : Nat) : Nat × Nat := elemOp i sw.md [code 0 p, code 1 p, code 2 p]
       let u := (s.doBeat sw).1
       u = { s with spad := u.spad, spadPois := u.spadPois }
       ∧ (∀ x, (∀ p ∈ sw.beatRange, ∀ k, place p = some k → x < k ∨ k + n ≤ x) → u.spad.read x = s.spad.read x)
       ∧ (∀ p ∈ sw.beatRange, ∀ k, place p = some k →
           (∀ q ∈ sw.beatRange, q ≠ p → ∀ j, place q = some j → j + n ≤ k ∨ k + n ≤ j) →
           u.spad.readLe k n = (out p).1 % 256 ^ n)
       ∧ (s.doBeat sw).2.beat = sw.beat + 1 ∧ (s.doBeat sw).2.flags = sw.beatRange.foldl (fun f p => f ||| (out p).2) sw.flags)
  ∧ (∀ (s : State) (sw : Sweep), (∀ k, (sw.recOf k).chan = false) →
       let n := sw.lead.width
       let src (k : Nat) (idx : List Nat) : Nat := s.readElem sw.tid (sw.recOf k) idx
       let code (k p : Nat) : Nat := src k (indexOf sw.lead.ext p)
       let ra := sw.recOf 1
       let place (q : Nat) : Option Nat := s.ownKey sw.tid (sw.lead.offset (indexOf sw.lead.ext q))
       let u := (s.doBeat sw).1
       let writes (target : Nat → Option Nat) (late : Nat → Nat → Prop) (val : Nat → Nat) : Prop :=
         u = { s with spad := u.spad, spadPois := u.spadPois } ∧ (s.doBeat sw).2.beat = sw.beat + 1
         ∧ (∀ x, (∀ p ∈ sw.beatRange, ∀ k, target p = some k → x < k ∨ k + n ≤ x) → u.spad.read x = s.spad.read x)
         ∧ ∀ p ∈ sw.beatRange, ∀ k, target p = some k → (∀ q ∈ sw.beatRange, late p q → ∀ j, target q = some j → j + n ≤ k ∨ k + n ≤ j) →
             u.spad.readLe k n = val p % 256 ^ n
       let inOrder (val : Nat → Nat) : Prop := writes place (fun p q => p ≠ q) val
       (∀ d a t r st, sw.op = .vcvt d a t r → Ty.ofCode (BitVec.ofNat 4 ra.ty) = some st →
         inOrder (fun p => (roundTo t sw.md (st.value (code 1 p))).1))
       ∧ (∀ d a t r, sw.op = .vunpk d a t r →
         inOrder (fun p => (roundTo t sw.md ((decodeQ4X (s.readBlock sw.tid ra sw.beat)).1.getD (p % 32) .nan)).1))
       ∧ (∀ d a t, sw.op = .vbcast d a t → 0 < ra.count → inOrder (fun p => src 1 (indexOf ra.ext (p % ra.count))))
       ∧ (∀ d a b t, sw.op = .vgath d a b t → inOrder (fun p => if code 2 p < ra.count then src 1 (indexOf ra.ext (code 2 p)) else 0))
       ∧ (∀ d t, sw.op = .viota d t →
         inOrder (fun p => if t.isFloat then (roundTo t .rne (.num false p 0)).1 else p % 2 ^ (8 * t.bytes)))
       ∧ ∀ d a b t, sw.op = .vscat d a b t →
           writes (fun p => if code 2 p < sw.lead.count then place (code 2 p) else none) (fun p q => p < q) (code 1))
  ∧ (∀ (s : State) (d a : Reg) (r : Rnd) (sw : Sweep) (st : Ty), sw.op = .vpack d a r → sw.lead.ty = 12 → (∀ k, (sw.recOf k).chan = false) →
       let ra := sw.recOf 1
       Ty.ofCode (BitVec.ofNat 4 ra.ty) = some st →
       let off := sw.lead.offset (indexOf sw.lead.ext (32 * sw.beat))
       let key (b : Nat) : Option Nat := s.ownKey sw.tid (off + (b : Int))
       let block := encodeQ4X sw.md (sw.beatRange.map (fun p => st.value (s.readElem sw.tid ra (indexOf ra.ext p))))
       let u := (s.doBeat sw).1
       sw.beatRange.length = 32 → (∀ b, b < 18 → (key b).isSome = true) →
       u = { s with spad := u.spad, spadPois := u.spadPois }
       ∧ (∀ x, (∀ b, b < 18 → key b ≠ some x) → u.spad.read x = s.spad.read x)
       ∧ (∀ b k, b < 18 → key b = some k → (∀ c, c < 18 → c ≠ b → key c ≠ some k) →
           u.spad.read k = BitVec.ofNat 8 (block.1.getD b 0))
       ∧ (s.doBeat sw).2.beat = sw.beat + 1 ∧ (s.doBeat sw).2.flags = sw.flags ||| block.2)
  ∧ (∀ (s : State) (sw : Sweep) (t : Ty), (∀ k, (sw.recOf k).chan = false) → sw.beat < sw.beats →
       let next := (s.doBeat sw).2
       let u := (s.doBeat sw).1
       let elem (k p : Nat) : Nat := s.readElem sw.tid (sw.recOf k) (indexOf sw.lead.ext p)
       let taken (sum : Bool) (c : Nat) : Nat :=
         if sum = true ∧ t.isFloat = true then (roundTo .f32 .rne (t.value c)).1
         else if sum then ((t.intOf c).emod (2 ^ 64)).toNat
         else if t.isFloat = true ∧ t.value c = .nan then t.fmt.nanCode else c
       let fold (run : Option Nat) (op : RedOp) (x : Nat) : Nat := match run with
         | none => x
         | some acc => (redStep op t sw.md acc x).1
       (∀ x y, (redStep .sum t sw.md x y).1 = if t.isFloat then (roundTo .f32 sw.md (exactSum sw.md [Ty.f32.value x, Ty.f32.value y]).1).1
         else (x + y) % 2 ^ 64)
       ∧ (∀ d a r op, sw.op = .vred d a t r op →
         u = s ∧ next.beat = sw.beat + 1
         ∧ ∀ T : List Nat → Nat, (∀ x, T [x] = x) →
           (∀ l m : List Nat, 2 ≤ l.length → m.length = (l.length + 1) / 2 → (∀ i, i < m.length → m.getD i 0 =
               if 2 * i + 1 < l.length then (redStep op t sw.md (l.getD (2 * i) 0) (l.getD (2 * i + 1) 0)).1 else l.getD (2 * i) 0) → T l = T m) →
           next.run = some (fold sw.run op (T (sw.beatRange.map (fun p => taken (decide (op = .sum)) (elem 0 p))))))
       ∧ (∀ d a r op, sw.op = .vscan d a t r op → ∀ run : Nat → Option Nat,
         let rop : RedOp := match op with
           | .sum => .sum
           | .max => .max
         let first := sw.beat * sw.beatSize
         run first = sw.run → (∀ p ∈ sw.beatRange, run (p + 1) = some (fold (run p) rop (taken (decide (op = .sum)) (elem 1 p)))) →
         let n := sw.lead.width
         let place (p : Nat) : Option Nat := s.ownKey sw.tid (sw.lead.offset (indexOf sw.lead.ext p))
         let out (x : Nat) : Nat := if op = .max then x else if t.isFloat then (roundTo t sw.md (Ty.f32.value x)).1 else x % 2 ^ (8 * t.bytes)
         next.run = run (first + sw.beatRange.length) ∧ u = { s with spad := u.spad, spadPois := u.spadPois }
         ∧ (∀ x, (∀ p ∈ sw.beatRange, ∀ k, place p = some k → x < k ∨ k + n ≤ x) → u.spad.read x = s.spad.read x)
         ∧ ∀ p ∈ sw.beatRange, ∀ k x, place p = some k → run (p + 1) = some x →
             (∀ q ∈ sw.beatRange, q ≠ p → ∀ j, place q = some j → j + n ≤ k ∨ k + n ≤ j) → u.spad.readLe k n = out x % 256 ^ n)
       ∧ ∀ op x, redOut op t x = if op = .max ∨ op = .min then
           (if t.isSigned then BitVec.ofInt 64 (t.intOf x) else BitVec.ofNat 64 x) else BitVec.ofNat 64 x)
  ∧ ((∀ (b : List Nat) (p : Nat), p < 16 → let e := b.getD 16 0
       let lo (q : Nat) : Nat := b.getD q 0 % 16
       let hi (q : Nat) : Nat := b.getD q 0 / 16
       let marked (q : Nat) : Bool := decide (lo q = 8 ∨ hi q = 8)
       let before := (List.range p).countP marked
       let val (j : Nat) : Val := (decodeQ4X b).1.getD j (.inf false)
       let slot (c : Nat) : Val := .num (decide (8 ≤ c)) (if 8 ≤ c then 16 - c else c) ((e : Int) - 127)
       let code (tail low : Nat) : Val := match Ty.f8.value (tail * 16 + low) with
         | .num s m x => .num s m (x + ((e : Int) - 127))
         | v => v
       let outlier (low : Nat) : Val := if before = 0 then code (b.getD 17 0 % 16) low else if before = 1 then code (b.getD 17 0 / 16) low
         else .num false 0 0
       (e = 0xFF → val (2 * p) = .nan ∧ val (2 * p + 1) = .nan)
       ∧ (e ≠ 0xFF → marked p = false → hi p < 16 → val (2 * p) = slot (lo p) ∧ val (2 * p + 1) = slot (hi p))
       ∧ (e ≠ 0xFF → lo p = 8 → val (2 * p) = outlier (hi p) ∧ val (2 * p + 1) = .num false 0 0)
       ∧ (e ≠ 0xFF → lo p ≠ 8 → hi p = 8 → val (2 * p + 1) = outlier (lo p) ∧ val (2 * p) = .num false 0 0)
       ∧ (decodeQ4X b).2 = if e ≠ 0xFF ∧ 3 ≤ (List.range 16).countP marked then 64 else 0)
     ∧ (∀ (md : RMode) (neg : Bool) (q k f : Nat), f < 2 ^ k → let up : Prop := match md with
         | .rne => 2 ^ k < 2 * f ∨ 2 * f = 2 ^ k ∧ q % 2 = 1
         | .rtz => False
         | .rup => neg = false ∧ f ≠ 0
         | .rdn => neg = true ∧ f ≠ 0
       let sg (v : Nat) : Int := if neg then -(v : Int) else v
       (up → roundInt md neg (q * 2 ^ k + f) (-(k : Int)) = (sg (q + 1), decide (f = 0)))
       ∧ (¬ up → roundInt md neg (q * 2 ^ k + f) (-(k : Int)) = (sg q, decide (f = 0)))
       ∧ roundInt md neg q k = (sg (q * 2 ^ k), true))
     ∧ (∀ (md : RMode) (vs : List Val), (∃ v ∈ vs, v = .nan) → encodeQ4X md vs = (List.replicate 16 0 ++ [0xFF, 0], 0))
     ∧ ∀ (md : RMode) (vs : List Val), vs.length = 32 → (∀ v ∈ vs, v ≠ .nan) →
       let round (e : Nat) : Val → Int × Bool
         | .num s m x => roundInt md s m (x - ((e : Int) - 127))
         | _ => (0, true)
       let beyond (e : Nat) (v : Val) : Bool := decide (7 < (round e v).1.natAbs)
       let out := encodeQ4X md vs
       let e := out.1.getD 16 0
       let el (j : Nat) : Val := vs.getD j .nan
       let slot : Val → Nat × Nat
         | .inf neg => (if neg then 9 else 7, 48)
         | v => (((round e v).1.emod 16).toNat, if (round e v).2 then 0 else 16)
       let odd (p : Nat) : Bool := beyond e (el (2 * p + 1)) && (!beyond e (el (2 * p)) || (match el (2 * p), el (2 * p + 1) with
         | .num _ m x, .num _ n y => decide ((Val.num false m x).cmp (.num false n y) < 0)
         | _, _ => false))
       let has (p : Nat) : Bool := beyond e (el (2 * p)) || beyond e (el (2 * p + 1))
       let big (p : Nat) : Val := el (if odd p then 2 * p + 1 else 2 * p)
       let partner (p : Nat) : Val := el (if odd p then 2 * p else 2 * p + 1)
       let code (p : Nat) : Nat × Nat := match big p with
         | .num s m x => roundTo .f8 md (.num s m (x + (127 - (e : Int))))
         | _ => (0, 0)
       let flags (p : Nat) : Nat := if has p then (code p).2 ||| (match partner p with
           | .num _ m _ => if m = 0 then 0 else 16
           | _ => 48) else (slot (el (2 * p))).2 ||| (slot (el (2 * p + 1))).2
       let few (k : Nat) : Prop := vs.countP (beyond k) ≤ 2
       few 254 → out.1.length = 18 ∧ e ≤ 254 ∧ few e ∧ (∀ k, k < e → ¬ few k)
         ∧ (∀ p, p < 16 → out.1.getD p 0 = if has p then (if odd p then (code p).1 % 16 + 128 else 8 + 16 * ((code p).1 % 16))
             else (slot (el (2 * p))).1 + 16 * (slot (el (2 * p + 1))).1)
         ∧ out.1.getD 17 0 = (match (List.range 16).filter has with
             | [] => 0
             | [p] => (code p).1 / 16
             | p :: q :: _ => (code p).1 / 16 + 16 * ((code q).1 / 16))
         ∧ out.2 = (List.range 16).foldl (fun f p => f ||| flags p) 0)

/-- R198 to R203, R89, Table 10.4: element results of the integer types, by value: arithmetic wraps at the element's
width, shifts take their count modulo the width (VSRA fills with the top bit), VABS and VNEG clamp, VCMP gives 1 or 0 by the
signed or unsigned order, VSEL chooses by its mask and VDIV follows DIV and DIVN at the width. `x` and `y` are codes. -/
def Obligations.IntegerElements : Prop :=
  ∀ (t : Ty) (md : RMode) (d a b : Reg) (r : Rnd) (z x y : Nat), t.isFloat = false → t ≠ .q4x →
    let w := 8 * t.bytes
    x < 2 ^ w → y < 2 ^ w →
    let sg (c : Nat) : Int := if t.isSigned = true ∧ 2 ^ (w - 1) ≤ c then (c : Int) - 2 ^ w else c
    let wrap (v : Int) : Nat := (v.emod (2 ^ w)).toNat
    let lo : Int := if t.isSigned then -(2 ^ (w - 1)) else 0
    let hi : Int := if t.isSigned then 2 ^ (w - 1) - 1 else 2 ^ w - 1
    let clamp (v : Int) : Nat × Nat := if hi < v then (wrap hi, 32) else if v < lo then (wrap lo, 32) else (wrap v, 0)
    let gives (i : Instr) (v : Nat) : Prop := elemOp i md [z, x, y] = (v, 0)
    gives (.vadd d a b t r) (wrap (sg x + sg y)) ∧ gives (.vsub d a b t r) (wrap (sg x - sg y))
    ∧ gives (.vmul d a b t r) (wrap (sg x * sg y))
    ∧ gives (.vdiv d a b t r) (if y = 0 then 2 ^ w - 1 else wrap ((sg x).tdiv (sg y)))
    ∧ gives (.vmin d a b t) (if sg x ≤ sg y then x else y) ∧ gives (.vmax d a b t) (if sg x ≤ sg y then y else x)
    ∧ gives (.vand d a b t) (x &&& y) ∧ gives (.vor d a b t) (x ||| y) ∧ gives (.vxor d a b t) (x ^^^ y)
    ∧ gives (.vshl d a b t) (x * 2 ^ (y % w) % 2 ^ w) ∧ gives (.vshr d a b t) (x / 2 ^ (y % w))
    ∧ gives (.vsra d a b t) (wrap ((if 2 ^ (w - 1) ≤ x then (x : Int) - 2 ^ w else x) / 2 ^ (y % w)))
    ∧ elemOp (.vabs d a t) md [z, x, y] = clamp (if sg x < 0 then -sg x else sg x)
    ∧ elemOp (.vneg d a t) md [z, x, y] = clamp (-sg x)
    ∧ gives (.vcmp d a b t .eq) (if x = y then 1 else 0) ∧ gives (.vcmp d a b t .ne) (if x = y then 0 else 1)
    ∧ gives (.vcmp d a b t .lt) (if sg x < sg y then 1 else 0) ∧ gives (.vcmp d a b t .ge) (if sg x < sg y then 0 else 1)
    ∧ gives (.vcmp d a b t .gt) (if sg y < sg x then 1 else 0) ∧ gives (.vcmp d a b t .le) (if sg y < sg x then 0 else 1)
    ∧ gives (.vsel d a b t) (if x ≠ 0 then y else z)

/-- R91: an f8 code is NaN exactly where its low seven bits are 0x7F, and else is (−1)^S · (8 + F) · 2^(E − 10), or
(−1)^S · F · 2^−9 where the exponent field is 0 (R90); so exponent fields 1 to 15 encode normal values, no code is an
infinity and the greatest magnitude is 14 · 2^5 = 448. An infinite result is ±448 with SATURATE, and a finite one that
rounds beyond 448 in every mode is so with OVERFLOW and INEXACT as well (R98). -/
def Obligations.F8Codes : Prop :=
  (∀ c : Nat, c < 256 → let neg := decide (128 ≤ c)
    let e := c / 8 % 16
    let f := c % 8
    Ty.f8.value c = if c % 128 = 0x7F then .nan else if e = 0 then .num neg f (-9) else .num neg (8 + f) ((e : Int) - 10))
  ∧ (∀ (md : RMode) (neg : Bool), roundTo .f8 md (.inf neg) = (if neg then 0xFE else 0x7E, 32))
  ∧ (∀ (md : RMode) (neg : Bool) (m : Nat) (e : Int), 480 ≤ m → 0 ≤ e →
      roundTo .f8 md (.num neg m e) = (if neg then 0xFE else 0x7E, 52))

/-- (a) R90, R92, R98: codes of f32, f16, bf16 and f8 and Round to them. A code has the value of its fields (f8's apart, R91); Round
of a finite value gives the neighbouring code that the mode picks, with INEXACT, and UNDERFLOW below the smallest normal; past
the largest finite code it gives that code with OVERFLOW, SATURATE and INEXACT. NaN is canonical, zeros and infinities stay.
(b) R92, R99, R105, R198, R199: VADD, VSUB, VMUL, VFMA and VFMS round once the exact sum, product, or product and sum; a zero sum
has its addends' common sign, else that of the mode; an infinity passes, ∞ − ∞ and 0 · ∞ are the canonical NaN with INVALID, and
a NaN operand gives it with no flag.
(c) R99, R105, R198, R201, Table 10.5: VDIV, VRCP, VSQRT and VRSQ of finite operands round a value that stands to every number of
at most 64 significant bits as the exact result does; the special operands, the zeros and the NaN of VDIV and of the special
functions give the results and flags of R99 and Table 10.5, VEXP2 of an integer and VLOG2 of a power of two round the exact power
and exponent.
(d) R198, R200, R202, R203: VMIN and VMAX of floating elements give the operand of the smaller or greater value, with −0 below
+0, or the canonical NaN; VABS and VNEG clear or flip the sign bit alone; VCMP orders by value, with −0 = +0 and NaN unequal to
all; VSEL copies codes as they are. None of them sets a flag.
Log entry 64: what the model chose here. -/
def Obligations.FloatResults : Prop :=
  (∀ (t : Ty) (md : RMode) (neg : Bool) (frac bias wid lim : Nat),
       (t = .f32 ∧ frac = 23 ∧ bias = 127 ∧ wid = 32 ∧ lim = 255 * 2 ^ 23) ∨ (t = .f16 ∧ frac = 10 ∧ bias = 15 ∧ wid = 16 ∧ lim = 31 * 2 ^ 10)
         ∨ (t = .bf16 ∧ frac = 7 ∧ bias = 127 ∧ wid = 16 ∧ lim = 255 * 2 ^ 7) ∨ (t = .f8 ∧ frac = 3 ∧ bias = 7 ∧ wid = 8 ∧ lim = 0x7F) →
       let sgn (c : Nat) : Nat := if neg then c + 2 ^ (wid - 1) else c
       let unit : Int := 1 - (bias : Int) - frac
       let mag (c : Nat) : Nat := if c < 2 ^ frac then c else (2 ^ frac + c % 2 ^ frac) * 2 ^ (c / 2 ^ frac - 1)
       (t ≠ .f8 → (∀ c, c < lim → t.value (sgn c) = if c < 2 ^ frac then .num neg c unit
           else .num neg (2 ^ frac + c % 2 ^ frac) ((c / 2 ^ frac : Nat) - (bias : Int) - frac))
         ∧ t.value (sgn lim) = .inf neg ∧ (∀ c, lim < c → c < 2 ^ (wid - 1) → t.value (sgn c) = .nan)
         ∧ roundTo t md (.inf neg) = (sgn lim, 0) ∧ roundTo t md .nan = (lim + 2 ^ (frac - 1), 0))
       ∧ (∀ e, roundTo t md (.num neg 0 e) = (sgn 0, 0))
       ∧ ∀ (m : Nat) (e : Int), 0 < m → let lo := if e ≤ unit then e else unit
         let M := m * 2 ^ (e - lo).toNat
         let lvl (c : Nat) : Nat := mag c * 2 ^ (unit - lo).toNat
         (lvl lim ≤ M → roundTo t md (.num neg m e) = (sgn (lim - 1), 52))
         ∧ ∀ c, c < lim → lvl c ≤ M → M < lvl (c + 1) →
           let up : Prop := match md with
             | .rne => lvl c + lvl (c + 1) < 2 * M ∨ lvl c + lvl (c + 1) = 2 * M ∧ c % 2 = 1
             | .rtz => False
             | .rup => neg = false
             | .rdn => neg = true
           let under := if c < 2 ^ frac then 8 else 0
           (M = lvl c → roundTo t md (.num neg m e) = (sgn c, 0))
           ∧ (M ≠ lvl c → ¬ up → roundTo t md (.num neg m e) = (sgn c, 16 + under))
           ∧ (M ≠ lvl c → up → roundTo t md (.num neg m e) = if c + 1 = lim then (sgn c, 52) else (sgn (c + 1), 16 + under)))
  ∧ (∀ (t : Ty) (md : RMode) (d a b : Reg) (r : Rnd) (x y z : Nat), t.isFloat = true →
       let V (c : Nat) : Val := t.value c
       let nan (flags : Nat) : Nat × Nat := (t.fmt.nanCode, flags)
       let inf (neg : Bool) : Nat × Nat := roundTo t md (.inf neg)
       let sum (na : Bool) (ma : Nat) (ea : Int) (nb : Bool) (mb : Nat) (eb : Int) : Nat × Nat :=
         let lo := if ea ≤ eb then ea else eb
         let part (neg : Bool) (m : Nat) (e : Int) : Int := (if neg then -1 else 1) * (m * 2 ^ (e - lo).toNat : Nat)
         let S := part na ma ea + part nb mb eb
         roundTo t md (if S ≠ 0 then .num (decide (S < 0)) S.natAbs lo
           else .num (if ma = 0 ∧ mb = 0 ∧ na = nb then na else decide (md = .rdn)) 0 0)
       let add : Instr := .vadd d a b t r
       let sub : Instr := .vsub d a b t r
       let mul : Instr := .vmul d a b t r
       let fma : Instr := .vfma d a b t r
       let fms : Instr := .vfms d a b t r
       let gives (i : Instr) (v : Nat × Nat) : Prop := elemOp i md [z, x, y] = v
       (∀ na ma ea nb mb eb, V x = .num na ma ea → V y = .num nb mb eb →
         gives add (sum na ma ea nb mb eb) ∧ gives sub (sum na ma ea (!nb) mb eb)
         ∧ gives mul (roundTo t md (.num (na != nb) (ma * mb) (ea + eb)))
         ∧ (∀ nc mc ec, V z = .num nc mc ec → gives fma (sum (na != nb) (ma * mb) (ea + eb) nc mc ec)
           ∧ gives fms (sum (na != nb) (ma * mb) (ea + eb) (!nc) mc ec))
         ∧ (∀ nc, V z = .inf nc → gives fma (inf nc) ∧ gives fms (inf (!nc))))
       ∧ (V x = .nan ∨ V y = .nan → gives add (nan 0) ∧ gives sub (nan 0) ∧ gives mul (nan 0))
       ∧ (V x = .nan ∨ V y = .nan ∨ V z = .nan → gives fma (nan 0) ∧ gives fms (nan 0))
       ∧ (∀ na nb, V x = .inf na → V y = .inf nb → gives add (if na = nb then inf na else nan 1) ∧ gives sub (if na = nb then nan 1 else inf na))
       ∧ (∀ na nb mb eb, V x = .inf na → V y = .num nb mb eb → gives add (inf na) ∧ gives sub (inf na))
       ∧ (∀ na ma ea nb, V x = .num na ma ea → V y = .inf nb → gives add (inf nb) ∧ gives sub (inf (!nb)))
       ∧ (∀ (big : Bool), (∃ na nb mb eb, mb ≠ 0 ∧ (V x = .inf na ∧ V y = .num nb mb eb ∨ V y = .inf na ∧ V x = .num nb mb eb) ∧ big = (na != nb))
           ∨ (∃ na nb, V x = .inf na ∧ V y = .inf nb ∧ big = (na != nb)) →
         gives mul (inf big)
         ∧ (∀ nc mc ec, V z = .num nc mc ec → gives fma (inf big) ∧ gives fms (inf big))
         ∧ (∀ nc, V z = .inf nc → gives fma (if nc = big then inf big else nan 1) ∧ gives fms (if nc = big then nan 1 else inf big)))
       ∧ ((∃ na nb eb, V x = .inf na ∧ V y = .num nb 0 eb ∨ V y = .inf na ∧ V x = .num nb 0 eb) →
         gives mul (nan 1) ∧ (V z ≠ .nan → gives fma (nan 1) ∧ gives fms (nan 1))))
  ∧ (∀ (t : Ty) (md : RMode) (d a b : Reg) (r : Rnd) (x y z : Nat), t.isFloat = true →
       let V (c : Nat) : Val := t.value c
       let nan (flags : Nat) : Nat × Nat := (t.fmt.nanCode, flags)
       let inf (neg : Bool) (flags : Nat) : Nat × Nat := ((roundTo t md (.inf neg)).1, (roundTo t md (.inf neg)).2 ||| flags)
       let num (neg : Bool) (m : Nat) (e : Int) : Nat × Nat := roundTo t md (.num neg m e)
       let gives (i : Instr) (v : Nat × Nat) : Prop := elemOp i md [z, x, y] = v
       let above (ma : Nat) (ea : Int) (mb : Nat) (eb : Int) : Int :=
         let lo := if ea ≤ eb then ea else eb
         ((ma * 2 ^ (ea - lo).toNat : Nat) : Int) - (mb * 2 ^ (eb - lo).toNat : Nat)
       let rounds (i : Instr) (neg : Bool) (side : Nat → Int → Int) : Prop := ∃ (k : Nat) (g : Int), gives i (num neg k g)
         ∧ ∀ (p : Nat) (h : Int), 0 < p → p < 2 ^ 64 → (0 < above k g p h ↔ 0 < side p h) ∧ (above k g p h < 0 ↔ side p h < 0)
       let div : Instr := .vdiv d a b t r
       let rcp : Instr := .vrcp d a t r
       let sqrt : Instr := .vsqrt d a t r
       let rsq : Instr := .vrsq d a t r
       (∀ na ma ea nb mb eb, V x = .num na ma ea → V y = .num nb mb eb →
         (mb ≠ 0 → rounds div (na != nb) (fun p h => above ma ea (p * mb) (h + eb)))
         ∧ (mb = 0 → ma ≠ 0 → gives div (inf (na != nb) 2)) ∧ (mb = 0 → ma = 0 → gives div (nan 1)))
       ∧ (V x = .nan ∨ V y = .nan → gives div (nan 0))
       ∧ (∀ na nb, V x = .inf na → (V y = .inf nb → gives div (nan 1)) ∧ (∀ m e, V y = .num nb m e → gives div (inf (na != nb) 0)))
       ∧ (∀ na m e nb, V x = .num na m e → V y = .inf nb → gives div (num (na != nb) 0 0))
       ∧ (∀ neg m e, V x = .num neg m e → m ≠ 0 →
         rounds rcp neg (fun p h => above 1 0 (p * m) (h + e))
         ∧ (neg = false → rounds sqrt false (fun p h => above m e (p * p) (2 * h)) ∧ rounds rsq false (fun p h => above 1 0 (p * p * m) (2 * h + e)))
         ∧ (neg = true → gives sqrt (nan 1) ∧ gives rsq (nan 1) ∧ gives (.vlog2 d a t r) (nan 1))
         ∧ (neg = false → ∀ k : Nat, m = 2 ^ k → let v := e + k
             gives (.vlog2 d a t r) (num (decide (v < 0)) v.natAbs 0))
         ∧ (∀ v : Nat, v < 2 ^ 11 → above m e v 0 = 0 → gives (.vexp2 d a t r) (num false 1 (if neg then -(v : Int) else v))))
       ∧ (∀ neg e, V x = .num neg 0 e →
         gives rcp (inf neg 2) ∧ gives sqrt (num neg 0 0) ∧ gives rsq (inf neg 2) ∧ gives (.vexp d a t r) (num false 1 0)
         ∧ gives (.vexp2 d a t r) (num false 1 0) ∧ gives (.vlog2 d a t r) (inf true 2) ∧ gives (.vtanh d a t r) (num neg 0 0)
         ∧ gives (.vsigm d a t r) (num false 1 (-1)))
       ∧ (∀ neg, V x = .inf neg →
         gives rcp (num neg 0 0) ∧ gives sqrt (if neg then nan 1 else inf false 0) ∧ gives rsq (if neg then nan 1 else num false 0 0)
         ∧ gives (.vexp d a t r) (if neg then num false 0 0 else inf false 0) ∧ gives (.vexp2 d a t r) (if neg then num false 0 0 else inf false 0)
         ∧ gives (.vlog2 d a t r) (if neg then nan 1 else inf false 0) ∧ gives (.vtanh d a t r) (num neg 1 0)
         ∧ gives (.vsigm d a t r) (if neg then num false 0 0 else num false 1 0))
       ∧ (V x = .nan → ∀ i ∈ [rcp, sqrt, rsq, .vexp d a t r, .vexp2 d a t r, .vlog2 d a t r, .vtanh d a t r, .vsigm d a t r], gives i (nan 0)))
  ∧ (∀ (t : Ty) (md : RMode) (d a b : Reg) (x y z : Nat), t.isFloat = true →
       let w := 8 * t.bytes
       x < 2 ^ w → y < 2 ^ w →
       let gives (i : Instr) (v : Nat) : Prop := elemOp i md [z, x, y] = (v, 0)
       let neg (c : Nat) : Bool := decide (2 ^ (w - 1) ≤ c)
       let size (c : Nat) : Nat := c % 2 ^ (w - 1)
       let less (u v : Nat) : Prop := (size u ≠ 0 ∨ size v ≠ 0) ∧ ((neg u = true ∧ neg v = false) ∨ (neg u = false ∧ neg v = false ∧ size u < size v)
         ∨ (neg u = true ∧ neg v = true ∧ size v < size u))
       let same (u v : Nat) : Prop := u = v ∨ (size u = 0 ∧ size v = 0)
       gives (.vsel d a b t) (if x ≠ 0 then y else z)
       ∧ (t.value x = .nan → gives (.vabs d a t) t.fmt.nanCode ∧ gives (.vneg d a t) t.fmt.nanCode)
       ∧ (t.value x ≠ .nan → gives (.vabs d a t) (size x) ∧ gives (.vneg d a t) (if neg x then size x else size x + 2 ^ (w - 1)))
       ∧ (t.value x = .nan ∨ t.value y = .nan →
         gives (.vmin d a b t) t.fmt.nanCode ∧ gives (.vmax d a b t) t.fmt.nanCode ∧ gives (.vcmp d a b t .ne) 1
         ∧ ∀ p, p ≠ .ne → gives (.vcmp d a b t p) 0)
       ∧ (t.value x ≠ .nan → t.value y ≠ .nan →
         (less x y ∨ (same x y ∧ neg x = true) → gives (.vmin d a b t) x ∧ gives (.vmax d a b t) y)
         ∧ (less y x ∨ (same x y ∧ neg y = true) → gives (.vmin d a b t) y ∧ gives (.vmax d a b t) x)
         ∧ (x = y → gives (.vmin d a b t) x ∧ gives (.vmax d a b t) x)
         ∧ (less x y → ∀ p, gives (.vcmp d a b t p) (if p = .lt ∨ p = .le ∨ p = .ne then 1 else 0))
         ∧ (less y x → ∀ p, gives (.vcmp d a b t p) (if p = .gt ∨ p = .ge ∨ p = .ne then 1 else 0))
         ∧ (same x y → ∀ p, gives (.vcmp d a b t p) (if p = .eq ∨ p = .ge ∨ p = .le then 1 else 0))))

/-- R98, R95: Round to an integer type of an exact m · 2^e with e ≥ 0 clamps to the type's range and sets SATURATE only
when it does; NaN gives 0 and INVALID, an infinity the nearer bound and SATURATE. -/
def Obligations.RoundToInteger : Prop :=
  ∀ (t : Ty) (md : RMode) (neg : Bool) (m : Nat), t.isFloat = false → t ≠ .q4x →
    let v : Int := if neg then -(m : Int) else m
    let code (x : Int) : Nat := (x.emod (2 ^ (8 * t.bytes))).toNat
    (∀ e : Nat, v * 2 ^ e ≤ t.maxInt → t.minInt ≤ v * 2 ^ e →
      roundTo t md (.num neg m e) = (code (v * 2 ^ e), 0))
    ∧ (t.maxInt < v → roundTo t md (.num neg m 0) = (code t.maxInt, 32))
    ∧ (v < t.minInt → roundTo t md (.num neg m 0) = (code t.minInt, 32))
    ∧ roundTo t md .nan = (0, 1)
    ∧ roundTo t md (.inf neg) = (code (if neg then t.minInt else t.maxInt), 32)

/-- R212: VPART writes, at the record g[a], the part of the record g[b] that belongs to the issuing core (MODE 0) or its
tile (MODE 1) along a dimension cut at a grain: BASE's offset moves to the part's first element, the dimension's extent
becomes the part's length, and all else is copied. Nothing but those 32 bytes changes. A record in a poisoned unit traps (R359).
Log entries 68, 74: what the model chose here. -/
def Obligations.VpartWritesPart : Prop :=
  ∀ (s : State) (a b c : Reg) (ka kb id : Nat) (l : Launch) (r : Shape),
    let cut := s.reg c
    let dim := cut.toNat / 2 ^ 56 % 4
    let mode := cut.toNat / 2 ^ 48 % 4
    let grain := cut.toNat % 2 ^ 16
    let j := l.coreIndex (s.cur / 48) (s.cur / 16 % 3)
    let parts := if mode = 0 then 3 * (l.rows * l.cols) else l.rows * l.cols
    let mine := if mode = 0 then j else j / 3
    let e := r.ext.getD dim 0
    let g := (e + grain - 1) / grain
    let first := mine * g / parts * grain
    let len := Nat.min ((mine + 1) * g / parts * grain) e - first
    let step : Int := first * r.str.getD dim 0
    let off : Int := ((r.base.toNat % 2 ^ 20 : Nat) : Int) + (if r.ty = 12 then 18 * step.ediv 32 else r.width * step)
    s.cur < 49152 → s.localAddr s.cur (s.reg a) = .ok ka → s.localAddr s.cur (s.reg b) = .ok kb → ka % 32 = 0 → kb % 32 = 0 →
    ka / 2 ^ 20 = s.cur / 48 → kb / 2 ^ 20 = s.cur / 48 →
    (s.spadPoisoned kb 32 = true → exec (.vpart a b c) s = .next (s.trap 0x13 (Config.poisonValue (s.reg b))))
    ∧ (s.spadPoisoned kb 32 = false → shapeOk (s.shapeWords kb) = true → shapeOf (s.shapeWords kb) = r →
    s.launchOf s.cur = some id → s.launch id = some l → cut &&& 0xFCFCFFFFFFFF0000 = 0 → mode ≤ 1 → grain ≠ 0 → dim < r.rank →
    r.chan = false → (r.ty = 12 → dim = 0 → grain % 32 = 0) → parts ≤ g → 0 ≤ off → off < 2 ^ 20 →
    s.tagged ka = false → s.tagged (ka + 16) = false →
    completes (.vpart a b c) s (fun u => u = { s with spad := u.spad }
      ∧ (∀ x, x < ka ∨ ka + 32 ≤ x → u.spad.read x = s.spad.read x)
      ∧ let old (i : Nat) : Nat := s.spad.readLe (kb + 8 * i) 8
        let new (i : Nat) : Nat := u.spad.readLe (ka + 8 * i) 8
        new 0 = old 0 / 2 ^ 20 * 2 ^ 20 + off.toNat ∧ new 1 = old 1 ∧ new 3 = old 3
        ∧ ∀ k, k < 4 → new 2 / 2 ^ (16 * k) % 2 ^ 16 = if k = dim then len % 2 ^ 16 else old 2 / 2 ^ (16 * k) % 2 ^ 16))

/-! ## Engines -/

/-- (a) R215, R220 to R223: a copy request that passes the checks of R221 enters its job when the slot's FIFO entry and a
dependency-table entry are free; else CPYQ waits, and CPYQT writes all ones. CPYQT that enters one writes the entry's
ordinal. `off` is the record's offset in the issuing tile, and each value below is as the operand registers give it. A record
in a poisoned unit traps with 0x13 (R359).
(b) R241, R242: the same for the converter, whose record of 96 bytes at g[a] holds the destination's and the source's
shape and the operation; g[b] names the sync word. CVJT writes g[a]. A poisoned record traps (R359).
(c) R366: the instructions of tenant work, issued by a management thread, trap with 0x02 and have no other effect.
Log entries 21, 30, 31, 66, 74: what the model chose here. -/
def Obligations.JobRequests : Prop :=
  (∀ (s : State) (d a : Reg), s.cur < 49152 →
       let w := s.reg a
       let src := s.reg (a + 1)
       let dst := s.reg (a + 2)
       let sync := s.reg (a + 3)
       let kind := w.toNat / 2 ^ 56
       let off := w.toNat % 2 ^ 20
       let ws := s.recWords s.cur off 8
       let r := copyRecOf ws
       let puts := kind = 4 ∨ kind = 5 ∨ kind = 6 ∨ kind = 8
       let loc := if puts then src else dst
       let lab := if puts then dst else src
       let place := loc.toNat % 2 ^ 20
       let align := if kind = 3 then 8 else if r.ty = 12 then 1 else r.width
       let semo := w.toNat / 2 ^ 48 % 32
       kind ≤ 9 → w &&& 0x0060FFFFFFF00000 = 0 → off % 64 = 0 → s.rangeOk s.cur off 64 = true →
       (s.recPoisoned s.cur off 8 = true → ∀ i : Instr, i = .cpyq a ∨ i = .cpyqt d a →
         exec i s = .next (s.trap 0x13 (Config.poisonValue (selfAddr off))))
       ∧ (s.recPoisoned s.cur off 8 = false → copyRecOk kind ws = true →
       (∃ k, s.localAddr s.cur loc = .ok k) → s.rangeOk s.cur place (r.localBytes kind) = true → place % align = 0 →
       lblValid lab = true → (sync = 0 ∨ ∃ k, s.localAddr s.cur sync = .ok k ∧ k % 16 = 0) →
       ∀ sem : Option Nat, (w.getLsbD 55 = false ∧ sem = none
         ∨ w.getLsbD 55 = true ∧ semo < 2 * popOf s.mySlots ∧ ∃ n, ordinalPair s.mySlots semo = some n ∧ sem = some (s.cur / 48 * 32 + n)) →
       let job : Job :=
         { tid := s.cur, launch := s.myLaunchId, level := s.me.level.toNat, slice := s.me.slice, entry := s.freeEntry s.cur, engine := 1
           agent := 1, op := .copy kind src dst r, sync := sync, sem := sem, state := .queued, fifo := true, waits := false
           edges := [], foot := copyFoot s.cur kind src dst r (s.blockBytesOf (s.mapOf s.cur) lab r), pos := 0, sect := 0, flags := 0
           dep := none, forum := none, mirr := [], away := false, pc := s.me.pc, left := s.me.left, used := 0 }
       (s.jobReady s.cur = true →
         completes (.cpyq a) s (fun u => issuesJob s u job ∧ u.threads = s.threads)
         ∧ completes (.cpyqt d a) s (fun u => issuesJob s u job ∧ (∀ k, k ≠ s.cur → u.thread k = s.thread k)
             ∧ regWrite s.me u.me d (BitVec.ofNat 64 (entryOrdinal s.mySlots ((s.freeEntry s.cur).getD 0)))))
       ∧ (s.jobReady s.cur = false → exec (.cpyq a) s = .next (s.stall .copyEntry) ∧ results (.cpyqt d a) s d (BitVec.allOnes 64))))
  ∧ (∀ (s : State) (a b : Reg) (key : Nat) (d r : Shape), s.cur < 49152 →
       let addr := s.reg a
       let sync := s.reg b
       let ws := s.recWords s.cur (addr.toNat % 2 ^ 20) 12
       let cw := ws.getD 8 0
       let op := cw.toNat % 8
       let semo := cw.toNat / 2 ^ 16 % 32
       s.localAddr s.cur addr = .ok key → key % 32 = 0 → key / 2 ^ 20 = s.cur / 48 → s.rangeOk s.cur (addr.toNat % 2 ^ 20) 96 = true →
       (∃ k, s.localAddr s.cur (addr + 32) = .ok k) →
       (s.recPoisoned s.cur (addr.toNat % 2 ^ 20) 12 = true → ∀ i : Instr, i = .cvj a b ∨ i = .cvjt a b →
         exec i s = .next (s.trap 0x13 (Config.poisonValue addr)))
       ∧ (s.recPoisoned s.cur (addr.toNat % 2 ^ 20) 12 = false → shapeOk (ws.take 4) = true → shapeOk ((ws.drop 4).take 4) = true → d = shapeOf (ws.take 4) → r = shapeOf ((ws.drop 4).take 4) →
       cw &&& 0xFFFFFFFFFF6000C0 = 0 → op ≤ 2 → (cw.getLsbD 5 = true → cw.toNat / 8 % 4 = 0) → (∀ x ∈ ws.drop 9, x = 0) →
       convBad op d r = none → s.placed d true none → s.placed r false none →
       (sync = 0 ∨ ∃ k, s.localAddr s.cur sync = .ok k ∧ k % 16 = 0) →
       ∀ sem : Option Nat, (cw.getLsbD 23 = false ∧ sem = none
         ∨ cw.getLsbD 23 = true ∧ semo < 2 * popOf s.mySlots ∧ ∃ n, ordinalPair s.mySlots semo = some n ∧ sem = some (s.cur / 48 * 32 + n)) →
       let md := if cw.getLsbD 5 then frmMode s.me.frm else (RMode.ofCode (cw.extractLsb' 3 2)).getD .rne
       let job : Job :=
         { tid := s.cur, launch := s.myLaunchId, level := s.me.level.toNat, slice := s.me.slice, entry := s.freeEntry s.cur, engine := 2
           agent := 2, op := .conv op d r (signedField (cw.toNat / 256 % 256) 8) md, sync := sync, sem := sem, state := .queued
           fifo := true, waits := false, edges := [], foot := [shapeFoot s.cur d true, shapeFoot s.cur r false], pos := 0, sect := 0
           flags := 0, dep := none, forum := none, mirr := [], away := false, pc := s.me.pc, left := s.me.left, used := 0 }
       (s.jobReady s.cur = true →
         completes (.cvj a b) s (fun u => issuesJob s u job ∧ u.threads = s.threads)
         ∧ completes (.cvjt a b) s (fun u => issuesJob s u job ∧ (∀ k, k ≠ s.cur → u.thread k = s.thread k)
             ∧ regWrite s.me u.me a (BitVec.ofNat 64 (entryOrdinal s.mySlots ((s.freeEntry s.cur).getD 0)))))
       ∧ (s.jobReady s.cur = false → exec (.cvj a b) s = .next (s.stall .cvEntry) ∧ results (.cvjt a b) s a (BitVec.allOnes 64))))
  ∧ (∀ (s : State) (d a b c : Reg) (t : Ty) (rnd : Rnd) (x y : Bool), 49152 ≤ s.cur →
       ∀ i ∈ ([.cpyq a, .cpyqt d a, .dtwait a, .dtqry d a, .swin a b, .cvj a b, .cvjt a b, .mstat a, .mldb a b t, .mma a b c t rnd
         , .mzero a, .mdrn a b c t rnd, .mdrnOm a b c t rnd, .vpart a b c, .dqpush d a, .dqpop d, .exit, .yield, .migr a b x y
         , .migrc a x y, .phadv, .phqry d, .quiet, .qlaunch d a b] : List Instr), exec i s = .next (s.trap 0x02 0))

/-- (a) R219, Table 11.1: DTWAIT of an entry's ordinal waits for the job in it, and has no effect on a free one; of all ones
it waits for the jobs of both entries of the slot. DTQRY reads one entry's word (the issuing core, the open edges to at
most 255, the engine and the state), or of all ones the mask of the launch's held entries. Another value traps 0x05.
(b) R229: SWIN opens a window of its launch over bytes of the issuing tile, aligned to 64 bytes, with its watermark at
the start, or closes it for length 0; it traps with 0x0C while a stream job still writes there.
Log entries 32, 68: what the model chose here. -/
def Obligations.DependenciesAndWindows : Prop :=
  (∀ (s : State) (d a : Reg), s.cur < 49152 →
       let v := s.reg a
       let named := if v.toNat < 2 * popOf s.mySlots then ordinalPair s.mySlots v.toNat else none
       let entry (e : Nat) : Option (Nat × Job) := s.entryJob (s.cur / 48) e
       (v ≠ BitVec.allOnes 64 → named = none → ∀ i : Instr, i = .dtwait a ∨ i = .dtqry d a → exec i s = .next (s.trap 0x05 v))
       ∧ (∀ e, v ≠ BitVec.allOnes 64 → named = some e →
           (entry e = none → exec (.dtwait a) s = .next s ∧ results (.dtqry d a) s d 0)
           ∧ (∀ id j, entry e = some (id, j) →
             completes (.dtwait a) s (fun u => onlyThread s u s.cur ∧ sameBytes s u ∧ u.me = { s.me with waits := .dtwait id :: s.me.waits })
             ∧ results (.dtqry d a) s d (BitVec.ofNat 64 ((s.coreWord j.tid).toNat * 2 ^ 32
                 + Nat.min (s.openEdges j).length 255 * 2 ^ 16 + j.engine * 16 + (match j.state with
                   | .queued => 1
                   | .started => 2
                   | .parked _ _ _ => 3)))))
       ∧ (v = BitVec.allOnes 64 →
           completes (.dtwait a) s (fun u => onlyThread s u s.cur ∧ sameBytes s u ∧ u.me = { s.me with waits := u.me.waits }
             ∧ ∀ x, x ∈ u.me.waits ↔ x ∈ s.me.waits ∨ ∃ e id j, (e = 2 * (s.cur % 16) ∨ e = 2 * (s.cur % 16) + 1)
                 ∧ entry e = some (id, j) ∧ x = .dtwait id)
           ∧ ∃ w, results (.dtqry d a) s d w ∧ ∀ i, i < 32 → (w.getLsbD i = true ↔
               i < 2 * popOf s.mySlots ∧ ∃ e, ordinalPair s.mySlots i = some e ∧ entry e ≠ none)))
  ∧ (∀ (s : State) (a b : Reg) (key w : Nat),
       let v := s.reg b
       let off := (s.reg a).toNat % 2 ^ 20
       let len := v.toNat % 2 ^ 20
       let k := s.cur / 48 * 8 + w
       let old := (Store.find s.wins k).getD { base := 0, len := 0, wm := 0, landed := [] }
       s.cur < 49152 → s.localAddr s.cur (s.reg a) = .ok key → key / 2 ^ 20 = s.cur / 48 → windowOf s.mySlots (v.toNat / 2 ^ 32 % 8) = some w →
       (len = 0 ∨ s.rangeOk s.cur off len = true) → off ≤ 0xC0000 → off % 64 = 0 →
       (v &&& 0xFFFFFFF8FFF00000 = 0 → len % 64 = 0 → s.streamInto (s.cur / 48) old.base (old.base + old.len) = false →
         completes (.swin a b) s (fun u => u = { s with wins := u.wins }
           ∧ Store.find u.wins k = some { base := off, len := len, wm := off, landed := [] }
           ∧ ∀ j, j ≠ k → Store.find u.wins j = Store.find s.wins j))
       ∧ (¬ (v &&& 0xFFFFFFF8FFF00000 = 0 ∧ len % 64 = 0 ∧ s.streamInto (s.cur / 48) old.base (old.base + old.len) = false) →
         exec (.swin a b) s = .next (s.trap 0x0C v)))

/-- (a) R234 to R240: MSTAT reads the array's word. The matrix members of a thread whose launch holds its tile's array enter
their operation and take the thread out of the rotation; all but MZERO need a free dependency-table entry and wait for
one. Records and row words are as the rules ask. In a launch that does not hold the array they trap with 0x0B.
(b) R240, R227: a drain that hands off (HAND 1), with its block of 32 bytes at g[b] and its label in g[a], enters the
operation with the block's offset, stride, sync word and semaphore; MDRN.OM is the same for an ordered merge. A poisoned block
traps (R359).
Log entries 31, 74: what the model chose here. -/
def Obligations.MatrixInstructions : Prop :=
  (∀ (s : State) (a b c : Reg) (t : Ty) (rnd : Rnd) (r : Shape), s.cur < 49152 →
       let w (x : Reg) : Word := s.reg x
       let row0 (x : Word) : Nat := x.toNat % 64
       let rows (x : Word) : Nat := x.toNat / 256 % 64 + 1
       let cols (x : Word) : Nat := x.toNat / 65536 % 128 + 1
       let md : RMode := match rnd with
         | .dyn => frmMode s.me.frm
         | .fixed x => x
       let record (ok : Prop) : Prop := s.recordHere (w a) r ∧ r.chan = false ∧ r.ty = t.code.toNat ∧ r.rank ≤ 2 ∧ q4xOk r = true ∧ ok
       let slice : Prop := (w b).toNat % 64 = 0 ∧ (w b).toNat + tyBytes r.ty (r.ext.getD 0 0) ≤ s.sliceBytes
       let enters (i : Instr) (isJob : Bool) (op : JobOp) (foot : List FootPart) : Prop :=
         (isJob = true → s.freeEntry s.cur = none → exec i s = .next (s.stall .depEntry))
         ∧ (isJob = false ∨ s.freeEntry s.cur ≠ none → completes i s (fun u => ∃ j : Job, issuesJob s u j
             ∧ j = { j with tid := s.cur, op := op, foot := foot, engine := 3, agent := 4, state := .queued, waits := true, pos := 0
                            entry := if isJob then s.freeEntry s.cur else none, level := s.me.level.toNat, sync := 0, sem := none }
             ∧ (∀ k, k ≠ s.cur → u.thread k = s.thread k) ∧ u.me = { s.me with waits := .matrix s.next :: s.me.waits }))
       results (.mstat a) s a s.mstatWord
       ∧ (s.holdsArray = false → ∀ i : Instr, i = .mldb a b t ∨ i = .mma a b c t rnd ∨ i = .mzero a ∨ i = .mdrn a b c t rnd
           ∨ i = .mdrnOm a b c t rnd → exec i s = .next (s.trap 0x0B s.bundleWord))
       ∧ (s.holdsArray = true →
       (record (r.ext.getD 1 1 ≤ 128) → slice → s.placed r false none →
         enters (.mldb a b t) true (.mldb r (w b).toNat) [shapeFoot s.cur r false])
       ∧ (record True → slice → w c &&& ~~~ (0x3F : Word) = 0 → row0 (w c) + r.ext.getD 1 1 ≤ 64 → s.placed r false none →
         enters (.mma a b c t rnd) true (.mma r (w b).toNat (row0 (w c)) md) [shapeFoot s.cur r false])
       ∧ (w a &&& ~~~ (0x7F3F3F : Word) = 0 → row0 (w a) + rows (w a) ≤ 64 →
         enters (.mzero a) false (.mzero (row0 (w a)) (rows (w a)) (cols (w a))) [])
       ∧ (record (r.ext.getD 0 0 = cols (w c) ∧ r.ext.getD 1 1 = rows (w c)) → w c &&& ~~~ (0x37F3F3F : Word) = 0 →
         row0 (w c) + rows (w c) ≤ 64 → (w c).getLsbD 24 = false → s.placed r true none →
         enters (.mdrn a b c t rnd) true (.drain r (row0 (w c)) (rows (w c)) (cols (w c)) ((w c).getLsbD 25) md) [shapeFoot s.cur r true])))
  ∧ (∀ (s : State) (a b c : Reg) (t : Ty) (rnd : Rnd) (key : Nat) (om : Bool), s.cur < 49152 → s.holdsArray = true →
       let w := s.reg c
       let block := s.reg b
       let ws := s.recWords s.cur (block.toNat % 2 ^ 20) 4
       let row0 := w.toNat % 64
       let rows := w.toNat / 256 % 64 + 1
       let cols := w.toNat / 65536 % 128 + 1
       let md : RMode := match rnd with
         | .dyn => frmMode s.me.frm
         | .fixed x => x
       w &&& ~~~ (0x37F3F3F : Word) = 0 → row0 + rows ≤ 64 → w.getLsbD 24 = true → (om = true → t = .f32 ∨ t = .s32) →
       s.localAddr s.cur block = .ok key → State.addrTile s.cur block = some (s.cur / 48) →
       s.rangeOk s.cur (block.toNat % 2 ^ 20) 32 = true →
       let i : Instr := if om then .mdrnOm a b c t rnd else .mdrn a b c t rnd
       (s.recPoisoned s.cur (block.toNat % 2 ^ 20) 4 = true → exec i s = .next (s.trap 0x13 (Config.poisonValue block)))
       ∧ (s.recPoisoned s.cur (block.toNat % 2 ^ 20) 4 = false → block.toNat % 2 ^ 20 % 32 = 0 → (ws.getD 1 0).toNat < 2 ^ 32 → ws.getD 3 0 &&& ~~~ (0x9F : Word) = 0 → lblValid (s.reg a) = true →
       (ws.getD 2 0 = 0 ∨ ∃ k, s.localAddr s.cur (ws.getD 2 0) = .ok k ∧ k % 16 = 0) →
       ∀ sem : Option Nat, ((ws.getD 3 0).getLsbD 7 = false ∧ sem = none
         ∨ (ws.getD 3 0).getLsbD 7 = true ∧ (ws.getD 3 0).toNat % 32 < 2 * popOf s.mySlots
           ∧ ∃ n, ordinalPair s.mySlots ((ws.getD 3 0).toNat % 32) = some n ∧ sem = some (s.cur / 48 * 32 + n)) →
       (s.freeEntry s.cur = none → exec i s = .next (s.stall .depEntry))
       ∧ (s.freeEntry s.cur ≠ none → completes i s (fun u => ∃ j : Job, issuesJob s u j
         ∧ j.tid = s.cur ∧ j.engine = 3 ∧ j.agent = 3 ∧ j.state = .queued ∧ j.waits = true ∧ j.entry = s.freeEntry s.cur
         ∧ j.sync = ws.getD 2 0 ∧ j.sem = sem
         ∧ j.op = .handoff (s.reg a) (ws.getD 0 0).toNat (signedField (ws.getD 1 0).toNat 32) t.code.toNat row0 rows cols
             (w.getLsbD 25) om md
         ∧ (∀ k, k ≠ s.cur → u.thread k = s.thread k) ∧ u.me = { s.me with waits := .matrix s.next :: s.me.waits }))))

/-- R102: for s8 operands S is the exact integer sum of the chunk's products; the cell becomes Clamp(acc + S) to the s32
range, with SATURATE exactly when it clamps; the clamp acts at every chunk, of 64 positions (R101), and a later chunk starts
from the clamped value. The last clause says that MMA on a cell is this, on the codes of the bytes and of the accumulator. -/
def Obligations.MatrixIntegerCell : Prop :=
  ∀ (as bs : List Int) (acc : Int), as.length ≤ 64 → bs.length = as.length → as ≠ [] →
    let s := acc + (List.zipWith (· * ·) as bs).sum
    let clamped := if 2 ^ 31 - 1 < s then 2 ^ 31 - 1 else if s < -(2 ^ 31) then -(2 ^ 31) else s
    let saturate : Nat := if 2 ^ 31 - 1 < s ∨ s < -(2 ^ 31) then 32 else 0
    (∀ n, cellInt 64 (n + 2) as bs acc = (clamped, saturate))
    ∧ (∀ (cs ds : List Int) (n : Nat), as.length = 64 → let rest := cellInt 64 n cs ds clamped
        cellInt 64 (n + 1) (as ++ cs) (bs ++ ds) acc = (rest.1, saturate ||| rest.2))
    ∧ ∀ (md : RMode) (x y : List Nat) (a : Nat), (∀ b ∈ x, b < 256) → (∀ b ∈ y, b < 256) → y.length = x.length → a < 2 ^ 32 →
        let signed (w n : Nat) : Int := if n < 2 ^ (w - 1) then n else (n : Int) - 2 ^ w
        let r := cellInt 64 (x.length + 1) (x.map (signed 8)) (y.map (signed 8)) (signed 32 a)
        mmaCell .s8 md x.length x y a = ((r.1.emod (2 ^ 32)).toNat, r.2)

/-- R215, R217 to R219, R229 to R231: after a cycle's thread accesses (`issuesDone`), a job whose turn it is waits while an edge
is open, and else starts, frees its FIFO entry and performs its next sector, or, where another module homes its label, sends that
there (R339); a stream job's sector lands, and its bytes advance
the watermark once they reach it; a started job whose sectors are done, with no forwarded operation unanswered, performs SWADD of
1 on its sync word, which ends the waits that GEN passes, and V on its semaphore, ORs its flags into its slot's cr.fst, frees its
entry and returns the threads that wait for it. Before that the events do nothing.
Log entries 33, 41, 66: what the model chose here. -/
def Obligations.JobLife : Prop :=
  ∀ (s : State) (id : Nat) (j : Job), s.job id = some j → s.jobRuns id j = true →
    (s.issuesDone = false → ∀ n, ∀ i ∈ ([.jobStart id n, .jobComplete id, .streamSectorLand id, .mergeContribution id, .gradientBlock id
      , .weightRead id, .matrixOpFinish id, .jobFault id] : List Instr), exec i s = .next s)
    ∧ (s.issuesDone = true →
    let put (u : State) (j1 : Job) : State := { u with eng := { u.eng with jobs := Store.put u.eng.jobs id j1 } }
    let on : Job := { j with state := .started, fifo := false }
    (j.state = .queued ∨ j.state = .started →
      (s.openEdges j ≠ [] → exec (.jobStart id 1) s = .next s)
      ∧ (s.openEdges j = [] → s.jobHome j = none → exec (.jobStart id 0) s = .next (put s on)
        ∧ (j.pos < j.total → j.ownEvent = false → ∀ s1 j1, (put s on).nextSector id on = .done s1 j1 → (put s1 j1).jobHome j1 = none →
            exec (.jobStart id 1) s = .next (put s1 j1)))
      ∧ (∀ h t1, s.openEdges j = [] → s.jobHome j = some h → j.away = false → j.pos < j.total → s.mod.link.lost.contains h = false →
          (put s on).farSector on = .done t1 on → completes (.jobStart id 0) s (fun u =>
            u = { s with eng := { s.eng with jobs := Store.put s.eng.jobs id { on with away := true } }, mod := u.mod }
            ∧ ∃ pkt who, u.mod = { s.mod with link := { s.mod.link with outbox := s.mod.link.outbox ++ [(h, pkt)], reach := u.mod.link.reach } }
              ∧ pkt.body = .ask id who j.slice j.op j.pos ((put s on).farData on) ∧ who.tid = j.tid ∧ who.level = j.level
              ∧ pkt.inc = s.mod.boot.inc ∧ pkt.vf = s.mapOf j.tid
              ∧ ∀ x, x ∈ u.mod.link.reach ↔ x ∈ s.mod.link.reach ∨ (j.contribution.isSome = true ∧ x = (j.launch, h)))))
    ∧ (∀ src dst r, j.op = .copy 7 src dst r → j.state = .started → j.pos < j.total → ∀ s1 j1, s.nextSector id j = .done s1 j1 →
        exec (.streamSectorLand id) s = .next (put s1 j1))
    ∧ (∀ (k lo hi : Nat) (w : Window), s.wins = [(k, w)] → w.landed = [] → w.base ≤ lo → lo < hi → hi ≤ w.base + w.len →
        (s.landed (k / 8) lo hi).wins = [(k, if hi ≤ w.wm then w else if lo ≤ w.wm then { w with wm := hi }
          else { w with landed := [(lo, hi)] })])
    ∧ (j.state = .started → j.inArray = false → j.total ≤ j.pos → s.signalBad j = false → s.mirrorOpen j.mirr = false →
      completes (.jobComplete id) s (fun u =>
        let f (x : State) (key i : Nat) : Nat := x.spad.readLe (key + 4 * i) 4
        let threads (kept : Why → Bool) : Prop := ∀ t, u.thread t = { s.thread t with
            fst := if t = j.tid then (s.thread t).fst ||| BitVec.ofNat 64 j.flags else (s.thread t).fst
            waits := (s.thread t).waits.filter (fun w => kept w && decide (w ≠ .dtwait id) && decide (w ≠ .matrix id)) }
        u = { s with threads := u.threads, accs := u.accs, spad := u.spad, eng := { s.eng with jobs := Store.del s.eng.jobs id }
                     sync := { s.sync with sems := u.sync.sems, waiters := u.sync.waiters, recent := u.sync.recent }
                     mod := { s.mod with meters := u.mod.meters } }
        ∧ (j.sync = 0 → u.spad = s.spad ∧ u.accs = s.accs ∧ u.mod = s.mod ∧ (j.sem = none → threads (fun _ => true)))
        ∧ (∀ key, j.sync ≠ 0 → s.localAddr j.tid j.sync = .ok key →
            let gen := (f s key 2 + (f s key 1 + 1) / f s key 0) % 2 ^ 32
            f u key 0 = f s key 0 ∧ f u key 1 = (f s key 1 + 1) % f s key 0 ∧ f u key 2 = gen ∧ f u key 3 = f s key 3
            ∧ (∀ x, x < key ∨ key + 16 ≤ x → u.spad.read x = s.spad.read x)
            ∧ (j.sem = none → threads (fun w => !w.passed key gen))
            ∧ (∀ k x, Store.find s.accs k = some x → (x.passed key gen = true → Store.find u.accs k = some { x with state := .performed none 0 })
              ∧ (x.passed key gen = false → Store.find u.accs k = some x)))
        ∧ (j.sem = none → u.sync = s.sync)
        ∧ (∀ k, j.sem = some k →
            let count (x : State) : Nat := (Store.find x.sync.sems k).getD 0
            let queue (x : State) : List Nat := (Store.find x.sync.waiters k).getD []
            let r := s.semCycle k
            let first := (queue s).find? (fun t => !r.missed.contains (t, none))
            (first = none → r.missed = [] → count u = Nat.min (count s + r.taken + 1) 65535 - r.taken ∧ queue u = queue s)
            ∧ (∀ t, first = some t → count u = count s ∧ queue u = (queue s).erase t
                ∧ Why.semp (k / 32) (k % 32) ∉ (u.thread t).waits)))))

/-- R234 to R240, R101, R102, R359: the array's oldest operation finishes. MZERO zeroes its cells; MMA takes every cell
of its rows through MMA on one cell, and a poisoned element traps its
bundle; a hand-off passes its rows, drained, to the
copy engine and returns its thread; MLDB and MDRN go unit by unit, and finish with the last. Flags go to the slot's cr.fst.
Log entries 29, 35: what the model chose here. -/
def Obligations.MatrixFinish : Prop :=
  ∀ (s : State) (id : Nat) (j : Job), s.job id = some j → j.state = .started → s.jobRuns id j = true → s.issuesDone = true →
    let tile := j.tid / 48
    let gone (u : State) (fl : Nat) : Prop :=
      Store.find u.eng.jobs id = none ∧ (∀ k, k ≠ id → Store.find u.eng.jobs k = Store.find s.eng.jobs k)
      ∧ ∀ t, u.thread t = { s.thread t with
          fst := if t = j.tid then (s.thread t).fst ||| BitVec.ofNat 64 fl else (s.thread t).fst
          waits := (s.thread t).waits.filter (fun w => decide (w ≠ .dtwait id) && decide (w ≠ .matrix id)) }
    (∀ row0 rows cols, j.op = .mzero row0 rows cols → row0 + rows ≤ 64 → cols ≤ 128 → completes (.matrixOpFinish id) s (fun u =>
      u = { s with threads := u.threads, eng := { s.eng with jobs := u.eng.jobs, acc := u.eng.acc } } ∧ gone u 0
      ∧ ∀ t row col, row < 64 → col < 128 →
          u.cell t row col = if t = tile ∧ row0 ≤ row ∧ row < row0 + rows ∧ col < cols then 0 else s.cell t row col))
    ∧ (∀ r off row0 md, j.op = .mma r off row0 md → s.keysHeld (r.places.flatMap (s.elemKeys j.tid r)) = false →
      (s.mmaPoisoned j r off = true → exec (.matrixOpFinish id) s
        = .next ((s.freeJob id).trapThread j.tid 0x13 (Config.trapValue 4 r.base 0) j.pc j.left))
      ∧ (s.mmaPoisoned j r off = false → row0 + r.ext.getD 1 1 ≤ 64 →
        let ty := (Ty.ofCode (BitVec.ofNat 4 r.ty)).getD .f32
        let k := r.ext.getD 0 0
        let new (row col : Nat) : Nat × Nat := mmaCell ty md k (s.rowBytes j.tid r (row - row0))
          (s.colBytes tile col off (tyBytes r.ty k)) (s.cell tile row col)
        completes (.matrixOpFinish id) s (fun u =>
          u = { s with threads := u.threads, eng := { s.eng with jobs := u.eng.jobs, acc := u.eng.acc }
                       mod := { s.mod with meters := u.mod.meters } }
          ∧ (∃ fl, gone u fl ∧ ∀ i, fl.testBit i = true ↔
              ∃ row col, row0 ≤ row ∧ row < row0 + r.ext.getD 1 1 ∧ col < 128 ∧ (new row col).2.testBit i = true)
          ∧ ∀ t row col, row < 64 → col < 128 →
              u.cell t row col = if t = tile ∧ row0 ≤ row ∧ row < row0 + r.ext.getD 1 1 then (new row col).1 % 2 ^ 32 else s.cell t row col)))
    ∧ (∀ l doff gstr ty row0 rows cols clear om md, j.op = .handoff l doff gstr ty row0 rows cols clear om md →
      row0 + rows ≤ 64 → cols ≤ 128 → completes (.matrixOpFinish id) s (fun u =>
        u = { s with threads := u.threads, eng := { s.eng with jobs := u.eng.jobs, acc := u.eng.acc } }
        ∧ (∀ k, k ≠ id → Store.find u.eng.jobs k = Store.find s.eng.jobs k)
        ∧ (∃ data fl, Store.find u.eng.jobs id = some { j with
              op := .handed l doff gstr ty cols om data, engine := 1, pos := 0, waits := false, flags := fl }
            ∧ data.length = rows * cols ∧ ∀ i c, i < rows → c < cols → data[i * cols + c]? =
              some (drainCell ((Ty.ofCode (BitVec.ofNat 4 ty)).getD .f32) md (s.cell tile (row0 + i) c)).1)
        ∧ (∀ t, t ≠ j.tid → u.thread t = s.thread t)
        ∧ u.thread j.tid = { s.thread j.tid with waits := (s.thread j.tid).waits.filter (fun w => decide (w ≠ .matrix id)) }
        ∧ ∀ t row col, row < 64 → col < 128 → u.cell t row col =
            if clear = true ∧ t = tile ∧ row0 ≤ row ∧ row < row0 + rows ∧ col < cols then 0 else s.cell t row col))
    ∧ ((∃ r off, j.op = .mldb r off) ∨ (∃ r row0 rows cols clear md, j.op = .drain r row0 rows cols clear md) →
      j.pos < j.total → ∀ s1 j1, s.nextSector id j = .done s1 j1 → j1.total ≤ j1.pos →
        exec (.matrixOpFinish id) s = .next (State.endMatrix { s1 with eng := { s1.eng with jobs := Store.put s1.eng.jobs id j1 } }
          id j1 j1.flags))

/-- R176, R231 to R233, R313, R314, R367: a started job whose next sector faults parks there, after its cycle's thread accesses;
STATUS of its sync word, where that is tagged, takes the cause and CODE 1, which ends the waits that GEN passes; its record is
buffered for its partition and die, or waits where 64 are or others wait. Where the ring's reserved bytes are zero and it has
room, the oldest record goes there, a waiting one takes its place, and vector 0 is raised (pending where its entry or the function
is masked, R352); else nothing happens. ACTION 1 zeroes
STATUS and the job goes on; ACTION 2 ends it with CODE 3 and frees its entry. Only the first store of 1 or 2 counts: another
action than the record's has no effect.
Log entry 34: what the model chose here. -/
def Obligations.JobFaults : Prop :=
  ∀ (s : State) (id : Nat) (j : Job),
    let word (x : State) (key i : Nat) : Nat := x.spad.readLe (key + 4 * i) 4
    let status (x u : State) (v : Nat) (kept : Why → Bool) : Prop :=
      let threads (more : Why → Bool) : Prop :=
        ∀ t, u.thread t = { x.thread t with waits := (x.thread t).waits.filter (fun w => kept w && more w) }
      (j.sync = 0 → u.spad = x.spad ∧ u.accs = x.accs ∧ threads (fun _ => true))
      ∧ ∀ key, j.sync ≠ 0 → x.localAddr j.tid j.sync = .ok key →
        (x.tagged key = false → u.spad = x.spad ∧ u.accs = x.accs ∧ threads (fun _ => true))
        ∧ (x.tagged key = true → let gen := (word x key 2 + 1) % 2 ^ 32
          word u key 0 = word x key 0 ∧ word u key 1 = word x key 1 ∧ word u key 2 = gen ∧ word u key 3 = v
          ∧ (∀ y, y < key ∨ key + 16 ≤ y → u.spad.read y = x.spad.read y) ∧ threads (fun w => !w.passed key gen)
          ∧ (∀ k a, Store.find x.accs k = some a → (a.passed key gen = true → Store.find u.accs k = some { a with state := .performed none 0 })
            ∧ (a.passed key gen = false → Store.find u.accs k = some a)))
    (∀ s1 c v, s.job id = some j → s.issuesDone = true → j.state = .started → s.depClear j.dep = true → s.engineTurn id j = true →
      j.pos < j.total → s.nextSector id j = .fault s1 c v → s1.runsFor j.tid = true → c < 256 →
      let key := (s1.partOf j.tid).getD 0 * 4 + dieOf j.tid
      let full : Prop := 64 ≤ ((Store.find s1.eng.faults key).getD []).length ∨ (Store.find s1.eng.late key).getD [] ≠ []
      completes (.jobFault id) s (fun u =>
        u = { s1 with spad := u.spad, threads := u.threads, accs := u.accs, mod := { s1.mod with meters := u.mod.meters }
                      eng := { s1.eng with jobs := u.eng.jobs, faults := u.eng.faults, late := u.eng.late, forums := u.eng.forums } }
        ∧ u.eng.jobs = Store.put s1.eng.jobs id { j with state := .parked c v true, forum := s1.parkedAt j, away := false }
        ∧ (s1.parkedAt j = none → u.eng.forums = s1.eng.forums)
        ∧ (∀ node k, s1.parkedAt j = some (node, k) → u.eng.forums = (s1.dropRead node id).eng.forums)
        ∧ (∃ r : FaultRec, r.job = id ∧ r.cause = c ∧ r.value = v ∧ r.agent = j.agent ∧ r.core = s1.coreWord j.tid ∧ r.sector = j.sect
            ∧ r.stamp = s1.cycle ∧ r.sync = j.sync
            ∧ (full → u.eng.faults = s1.eng.faults ∧ u.eng.late = Store.put s1.eng.late key ((Store.find s1.eng.late key).getD [] ++ [r]))
            ∧ (¬ full → u.eng.late = s1.eng.late
              ∧ u.eng.faults = Store.put s1.eng.faults key ((Store.find s1.eng.faults key).getD [] ++ [r])))
        ∧ status s1 u (c * 2 ^ 24 + 1) (fun _ => true)))
    ∧ (∀ vf record c v act, let k := vf * 2 ^ 64 + record
      s.job id = some j → j.state = .parked c v true → Store.find s.eng.posted k = some (id, act) →
      (act = 1 → completes (.faultActionResume vf record) s (fun u =>
        u = { s with spad := u.spad, eng := { s.eng with jobs := Store.put s.eng.jobs id { j with state := .started, forum := none }
                                                         posted := Store.del s.eng.posted k } }
        ∧ (j.sync = 0 → u.spad = s.spad)
        ∧ ∀ key, j.sync ≠ 0 → s.localAddr j.tid j.sync = .ok key → (s.tagged key = false → u.spad = s.spad)
          ∧ (s.tagged key = true → word u key 3 = 0 ∧ ∀ y, y < key + 12 ∨ key + 16 ≤ y → u.spad.read y = s.spad.read y)))
      ∧ (act = 2 → c < 256 → completes (.faultActionCancel vf record) s (fun u =>
          u = { s with threads := u.threads, accs := u.accs, spad := u.spad, mod := { s.mod with meters := u.mod.meters }
                       eng := { s.eng with jobs := Store.del s.eng.jobs id, posted := Store.del s.eng.posted k } }
          ∧ status s u (c * 2 ^ 24 + 3) (fun w => decide (w ≠ .dtwait id) && decide (w ≠ .matrix id))))
      ∧ (act ≠ 1 → exec (.faultActionResume vf record) s = .next s) ∧ (act ≠ 2 → exec (.faultActionCancel vf record) s = .next s))
    ∧ (∀ die part ring cap r rs s1, let key := part * 4 + die
      let vf := (s.part part).vf
      let n := s.homeWord ring 0
      let slot := 64 + 64 * (n % cap)
      Store.find s.eng.faults key = some (r :: rs) → s.ringNode vf = some (ring, cap) →
      s.pageChecks vf 0 (pagesOf [(ring, 0), (ring, slot), (ring, slot + 63)]) = (s1, none) →
      let used := (n + 2 ^ 64 - s1.homeWord ring 8) % 2 ^ 64
      let clean : Prop := ∀ i, i < 48 → s1.homeByte ring (16 + i) = 0
      (cap ≤ used ∨ ¬ clean → exec (.faultBufferDrain die part) s = .next s)
      ∧ (used < cap → clean → let s2 := (s1.putHomeBytes ring slot r.bytes).putHomeBytes ring 0 (leBytes 8 (n + 1))
        completes (.faultBufferDrain die part) s (fun u =>
          u = { s2 with eng := { s2.eng with faults := u.eng.faults, late := u.eng.late
                                             posted := Store.put s2.eng.posted (vf * 2 ^ 64 + n) (r.job, 0) }
                        mod := { s2.mod with host := u.mod.host } }
          ∧ u.mod.host = (s2.raiseVector vf 0).mod.host
          ∧ ((Store.find s2.eng.late key).getD [] = [] → (Store.find u.eng.faults key).getD [] = rs ∧ u.eng.late = s2.eng.late)
          ∧ (∀ x xs, Store.find s2.eng.late key = some (x :: xs) → (Store.find u.eng.faults key).getD [] = rs ++ [x]
            ∧ (Store.find u.eng.late key).getD [] = xs)))
      ∧ (∀ v, let h := s.mod.host
        (s.raiseVector vf v) = { s with mod := { s.mod with host := (s.raiseVector vf v).mod.host } }
        ∧ (h.unmasked.contains (vf * 64 + v) = true → h.masked.contains vf = false → (s.raiseVector vf v).mod.host
          = { h with sent := Store.put h.sent (vf * 64 + v) ((Store.find h.sent (vf * 64 + v)).getD 0 + 1) })
        ∧ (h.unmasked.contains (vf * 64 + v) = false ∨ h.masked.contains vf = true → (s.raiseVector vf v).mod.host.sent = h.sent
          ∧ (s.raiseVector vf v).mod.host.pending.contains (vf * 64 + v) = true)))

/-- (a) R227, R228, R274, R276, R277, Table 16.4: after a cycle's thread accesses, an ordered contribution arrives, waits for its
slice's turn and merges in it, the last sector of which moves the cursor on; a gradient block that reaches its set is judged and
its job's one sector is done, and one that is accepted is forwarded to the set's partner, whose answer the job waits for; a
weight read of the closed step, or one that has read when its step closed, is served, and one of another step waits at its set.
(b) R274, R277, R369, Table 16.4: with c the closed step, a gradient block of a step up to c is counted late and dropped; one of
the open step c + 1 is applied, where no held block goes first, or, when its block has been applied already, counted as a
duplicate; one of step c + 2 is held, or, when one is held already, counted as a duplicate; one of a later step is refused with
0x0C. A partner's operation is performed here as it was there, and answered; one from a set that this set's MIRROR does
not name does nothing.
(c) R244, R245, R275, R277, R369, Tables 11.7 and 16.5: PCLOSE, after the thread's earlier stores, closes, holds or drops the
open step of a set and answers by code; it answers 3 for another step than the open one and 4 for a node that is no set, and
changes nothing then; policy 3 and other bits trap with 0x0C. Where the set has a partner, the close is forwarded to it, and is
performed here and answered when the partner's answer is here. The zero policy applies the missing blocks, with gradient +0, in ascending order; it traps with
0x0C where the rule is refused. PQRY answers the set's word, or 0.
Log entries 13, 33, 41, 48, 53: what the model chose here. -/
def Obligations.MergesForumParameters : Prop :=
  (∀ (s : State) (id : Nat) (j : Job), s.job id = some j → j.state = .started → s.issuesDone = true → s.jobRuns id j = true →
       s.jobHome j = none →
       let put (u : State) (j1 : Job) : State := { u with eng := { u.eng with jobs := Store.put u.eng.jobs id j1 } }
       (∀ ty count off, j.contribution = some (ty, count, off) → j.pos < j.total →
         (∀ s1, s.judgeMerge id j ty count off = .arrive s1 → exec (.mergeContribution id) s = .next s1)
         ∧ (s.judgeMerge id j ty count off = .hold → exec (.mergeContribution id) s = .next s)
         ∧ (∀ s1 k s2 j2, s.judgeMerge id j ty count off = .turn s1 k → s1.mergeSector j = .done s2 j2 → j2.total ≤ j2.pos →
             let s3 := put s2 j2
             exec (.mergeContribution id) s = .next { s3 with eng := { s3.eng with
               merges := Store.upd s3.eng.merges k (fun m => { m with cursor := m.cursor + 1 }) } }))
       ∧ (∀ src dst r node n k, j.op = .copy 8 src dst r → j.pos = 0 → s.forumFault id j 8 r = none →
         s.forumTarget j true = .ok (node, n, k) →
         let s0 := s.forumReach id j node n k
         let step := r.goff.setWidth 32
         let grad := s.gradient j src r
         (s.unitHeld j 8 src r 0 r.units = true → exec (.gradientBlock id) s = .next s)
         ∧ (s.unitHeld j 8 src r 0 r.units = false → ∀ s1 acc, s0.judgeBlock node n k step grad = (s1, .ok acc) →
           let done (u : State) (mirr : List Nat) : State :=
             { u with eng := { u.eng with jobs := Store.upd u.eng.jobs id (fun x => { x with sect := 1, pos := 1, mirr := mirr }) } }
           (acc = false ∨ s1.partner n = none → exec (.gradientBlock id) s = .next (done s1 []))
           ∧ (∀ h, acc = true → s1.partner n = some h → exec (.gradientBlock id) s = .next (done
             (State.forward { s1 with next := s1.next + 1 } node n h s1.next (.block n.mirror k step grad)) [s1.next]))))
       ∧ (∀ src dst r node n k, j.op = .copy 9 src dst r → j.pos = 0 → s.forumFault id j 9 r = none →
         s.forumTarget j false = .ok (node, n, k) →
         let s0 := s.forumReach id j node n k
         let f := s0.forum node
         let got := (Store.find f.reads id).bind (fun x => x.got)
         (got = none → r.goff.toNat ≠ f.closed.toNat → exec (.weightRead id) s = .next (s0.waitRead node id k r.ty r.goff.toNat)
           ∧ (Store.find f.reads id = none → (s0.waitRead node id k r.ty r.goff.toNat).forum node
             = { f with reads := Store.put f.reads id { block := k, ty := r.ty, step := r.goff.toNat, got := none } }))
         ∧ (∀ x, got = some x ∨ (got = none ∧ r.goff.toNat = f.closed.toNat ∧ x = f.readWeights n k r.ty) →
           let codes := x.1
           let fl := x.2
           ∀ s1 j1, (s0.dropRead node id).getUnits { j with flags := j.flags ||| fl, forum := some (node, k) } 9 dst r 0
             (codes.map (fun c => (leBytes r.width c.1).map (fun b => (b, c.2)))) = .done s1 j1 →
             exec (.weightRead id) s = .next (put s1 { j1 with pos := 1 }))
         ∧ (∀ key x, Store.find f.reads key = some x → Store.find (f.serve n).reads key = some (if x.step = f.closed.toNat ∧ x.got = none
             then { x with got := some (f.readWeights n x.block x.ty) } else x))))
  ∧ (∀ (s : State) (node : Nat) (n : Node) (k : Nat) (step : BitVec 32) (g : List (Nat × Bool)), let f := s.forum node
       let c := f.closed.toNat
       let drops (counter : Nat) : Prop := ∀ s1, s.needPages n.vf node [(node, 0)] = (s1, none) →
         s.judgeBlock node n k step g = (s1.countUp node counter, .ok false)
       (step.toNat ≤ c → drops 16)
       ∧ (step.toNat = c + 1 → f.applied.contains k = true → drops 12)
       ∧ (step.toNat = c + 1 → f.applied.contains k = false → f.heldNow = [] →
         (∀ s1, s.applyBlock node n k g = (s1, none) → s.judgeBlock node n k step g = (s1.closeIfDue node n, .ok true))
         ∧ (∀ s1 e, s.applyBlock node n k g = (s1, some e) → s.judgeBlock node n k step g = (s1, .error e)))
       ∧ (step.toNat = c + 2 → (Store.find f.early (256 + k)).isSome = true → drops 12)
       ∧ (step.toNat = c + 2 → Store.find f.early (256 + k) = none → s.judgeBlock node n k step g =
         ({ s with eng := { s.eng with forums := Store.put s.eng.forums node { f with early := Store.put f.early (256 + k) g } } }, .ok true))
       ∧ (c + 2 < step.toNat → s.judgeBlock node n k step g = (s, .error (0x0C, 0)))
       ∧ (∀ op m, Store.find s.eng.mirror op = some m →
         let s0 := { s with eng := { s.eng with mirror := Store.del s.eng.mirror op } }
         let done (s1 : State) : Prop := exec (.mirrorForward op) s = .next (s1.sendLink m.src m.vf (.mirrorDone m.req))
         let names (l : Word) : Prop := (∃ lc, canonAt s.maps m.vf l = some (lc, { node := node, child := none })) ∧ s.node node = some n
           ∧ n.kind = 4 ∧ n.mirror = m.member ∧ s.homeOf m.vf n.mirror = m.src
         (∀ l, m.op = .block l k step g ∨ (∃ policy, m.op = .close l step policy) ∨ (∃ bytes, m.op = .write l bytes) →
           (∃ lc, canonAt s.maps m.vf l = some (lc, { node := node, child := none })) → s.node node = some n →
           n.kind ≠ 4 ∨ n.mirror ≠ m.member ∨ s.homeOf m.vf n.mirror ≠ m.src → done s0)
         ∧ (∀ l s1 b, m.op = .block l k step g → names l → s0.judgeBlock node n k step g = (s1, .ok b) → done (s1.closePair node n))
         ∧ (∀ l policy s1 x, m.op = .close l step policy → names l → s0.pclose node n step policy = (s1, .ok x) → done s1)
         ∧ (∀ l bytes s1, m.op = .write l bytes → names l → s0.needPages n.vf node (pagesOf (bytes.map (fun b => (node, b.1)))) = (s1, none) →
           done (bytes.foldl (fun u b => u.storeHome node b.1 b.2) s1))
         ∧ (∀ l bytes pois closed s1, m.op = .join l closed bytes pois → names l →
           s0.needPages n.vf node (pagesOf ((node, 0) :: bytes.map (fun b => (node, b.1)))) = (s1, none) →
           let joined : Forum := { s1.forum node with closed := closed, committed := bytes, cpois := pois, early := [] }
           done (State.abortStep { s1 with eng := { s1.eng with forums := Store.put s1.eng.forums node joined } } node n false))))
  ∧ (∀ (s : State) (d a b : Reg) (lc : Word) (t : Target) (st : List Nat),
       let l := s.reg a
       let v := s.reg b
       let s0 := { s with maps := s.maps.countHits st }
       let policy := v.toNat / 2 ^ 32 % 4
       (s.relPending s.cur = true → exec (.pclose d a b) s = .next (s.stall .order))
       ∧ (∀ h, s.remoteHome l = some h → ∀ i : Instr, i = .pclose d a b ∧ s.relPending s.cur = false ∨ i = .pqry d a →
         calls i s h { op := i, args := if i = .pqry d a then [l] else [l, v], words := [], fail := none } d none)
       ∧ (s.remoteHome l = none → s.relPending s.cur = false → 2 ^ 34 ≤ v.toNat ∨ policy = 3 → exec (.pclose d a b) s = .next (s.trap 0x0C v))
       ∧ (s.remoteHome l = none → resolve s.maps (s.mapOf s.cur) l = ⟨.ok (lc, t), st⟩ → s0.supRefuses t.node = false →
       ((t.child ≠ none ∨ ∃ n, s0.node t.node = some n ∧ n.kind ≠ 4) → replies (.pqry d a) s s0 l d 0 none
         ∧ (s.relPending s.cur = false → v.toNat < 2 ^ 34 → policy ≤ 2 → replies (.pclose d a b) s s0 l d 4 none))
       ∧ (∀ n, t.child = none → s0.node t.node = some n → n.kind = 4 →
         let f := s0.forum t.node
         let step := v.setWidth 32
         let missing := (List.range n.blockCount).filter (fun k => !f.applied.contains k)
         let page0 (s1 : State) : Prop := s0.needPages n.vf t.node [(t.node, 0)] = (s1, none)
         let closes (s1 : State) (code : Word) : Prop :=
           (s0.partner n = none → replies (.pclose d a b) s s1 l d code none)
           ∧ (∀ h, s0.partner n = some h → let s2 := State.forward { s0 with next := s0.next + 1 } t.node n h s0.next (.close n.mirror step policy)
             completes (.pclose d a b) s (fun u => sends s2 u { s2.access (.glob 0 none 0 l) 0 (.reply none) d .plain 3 .waiting with shoot := some s0.next }))
         replies (.pqry d a) s s0 l d (BitVec.ofNat 64 (f.closed.toNat * 2 ^ 32 + f.applied.length % 2 ^ 16 * 2 ^ 16
           + (if f.pending then 1 else if f.rolled then 2 else 0))) none
         ∧ (s.relPending s.cur = false → v.toNat < 2 ^ 34 → policy ≤ 2 →
           (f.closed.toNat = 2 ^ 32 - 1 ∨ step ≠ f.closed + 1 → replies (.pclose d a b) s s0 l d 3 none)
           ∧ (f.closed.toNat ≠ 2 ^ 32 - 1 → step = f.closed + 1 →
             (policy = 2 → ∀ s1, page0 s1 → closes (s1.abortStep t.node n false) 2)
             ∧ (policy = 0 → f.heldNow = [] → f.applied.length < n.blockCount → let held : Forum := { f with pending := true }
               closes { s0 with eng := { s0.eng with forums := Store.put s0.eng.forums t.node held } } 1)
             ∧ (policy = 0 → f.heldNow = [] → n.blockCount ≤ f.applied.length → ∀ s1, page0 s1 → closes (s1.closeStep t.node n) 0)
             ∧ (policy = 1 → f.heldNow = [] → ∀ s1, page0 s1 →
               (missing ≠ [] → s1.stepRule t.node n = none → exec (.pclose d a b) s = .next (s0.trap 0x0C (BitVec.setWidth 64 step)))
               ∧ (missing = [] ∨ s1.stepRule t.node n ≠ none →
                 ∀ s2, s1.needPages n.vf t.node (missing.flatMap (Node.blockPages t.node n)) = (s2, none) →
                   closes ((missing.foldl (fun u k => (u.applyBlock t.node n k []).1) s2).closeStep t.node n) 0)))))))

/-! ## Tasks, queues and launches -/

/-- R37, R40, R41, R179 to R186: the task instructions of a thread of launch `l`, on its core's deque (core index `j`):
DQPUSH of the record `w`, or 1 when the deque is full; DQPOP of its bottom record, of its own slice only; EXIT with SWADD of
1 on the task's sync word, which ends the waits that GEN passes; YIELD, MIGR and MIGRC, which send a context, once the thread's
sweeps, matrix operations and stores are over, and hold the slot until the answer; a MIGR of a label of another module has it
checked there first and then stays on its core; a context carries its registers' poison (R359); PHADV, which waits while its count would pass the allowance; PHQRY and QUIET.
Log entries 20, 24, 41, 74: what the model chose here. -/
def Obligations.TaskInstructions : Prop :=
  ∀ (s : State) (d a b : Reg) (id : Nat) (l : Launch), s.cur < 49152 → s.launchOf s.cur = some id → s.launch id = some l →
    l.slots.getLsbD (s.cur % 16) = true →
    let tile := s.cur / 48
    let j := l.coreIndex tile (s.cur / 16 % 3)
    let others (u : State) : Prop := (∀ k, k ≠ s.cur → u.thread k = s.thread k) ∧ ∀ k, k ≠ id → Store.find u.launches k = Store.find s.launches k
    (∀ key, s.localAddr s.cur (s.reg a) = .ok key → key / 2 ^ 20 = tile → key % 16 = 0 →
      let w (i : Nat) : Word := BitVec.ofNat 64 (s.spad.readLe (key + 8 * i) 8)
      let full := 4 * popOf l.slots ≤ (l.deque j).length
      let pushed : TaskRec :=
        { entry := w 0, arg0 := w 1, arg1 := w 2, sync := w 3, slice := s.me.slice, stolen := false, origin := s.coreWord s.cur }
      (s.spadPoisoned key 32 = true → exec (.dqpush d a) s = .next (s.trap 0x13 (Config.poisonValue (s.reg a))))
      ∧ (s.spadPoisoned key 32 = false → 2 ^ 40 ≤ (w 0).toNat ∨ (w 0).toNat % 8 ≠ 0 →
          exec (.dqpush d a) s = .next (s.trap 0x0C (Config.trapValue 1 (s.reg a) (w 0))))
      ∧ (s.spadPoisoned key 32 = false → (w 0).toNat < 2 ^ 40 → (w 0).toNat % 8 = 0 → s.relPending s.cur = true →
          exec (.dqpush d a) s = .next (s.stall .order))
      ∧ (s.spadPoisoned key 32 = false → (w 0).toNat < 2 ^ 40 → (w 0).toNat % 8 = 0 → s.relPending s.cur = false →
        (full → results (.dqpush d a) s d 1)
        ∧ (¬ full → completes (.dqpush d a) s (fun u =>
          u = { s with threads := u.threads, launches := u.launches } ∧ others u ∧ regWrite s.me u.me d 0
          ∧ Store.find u.launches id
            = some { l with work := { l.work with deques := Store.put l.work.deques j (l.deque j ++ [pushed]) } }))))
    ∧ ((l.deque j = [] ∨ ∃ r, (l.deque j).getLast? = some r ∧ r.slice ≠ s.me.slice) → results (.dqpop d) s d 0)
    ∧ (∀ r l1, l.takeBottom j = some (r, l1) → r.slice = s.me.slice → (l.deque j).getLast? = some r ∧
      completes (.dqpop d) s (fun u =>
        u = { s with threads := u.threads, launches := u.launches } ∧ others u ∧ Store.find u.launches id = some l1
        ∧ u.me = (((((s.me.setReg d 1).setReg 1 r.arg0).setReg 2 r.arg1).setReg 3 r.entry).setReg 4 r.sync)))
    ∧ (s.me.vectorBusy = false →
      let ended (u : State) (kept : Why → Bool) : Prop :=
        u = { s with threads := u.threads, accs := u.accs, spad := u.spad, mod := { s.mod with meters := u.mod.meters }
                     iss := { s.iss with moved := true } }
        ∧ (∀ k, k ≠ s.cur → u.thread k = { s.thread k with waits := (s.thread k).waits.filter kept })
        ∧ u.me = { s.me with work := false, waits := [], left := 0 }
      (s.me.task = 0 → completes .exit s (fun u => ended u (fun _ => true) ∧ u.spad = s.spad ∧ u.accs = s.accs ∧ u.mod = s.mod))
      ∧ (∀ key, s.me.task ≠ 0 → s.localAddr s.cur s.me.task = .ok key → key % 16 = 0 →
        let f (x : State) (i : Nat) : Nat := x.spad.readLe (key + 4 * i) 4
        let gen := (f s 2 + (f s 1 + 1) / f s 0) % 2 ^ 32
        (s.tagged key = false ∨ (s.spadPoisoned key 16 = false ∧ s.swAddOk key = false) → exec .exit s = .next (s.trap 0x0C s.me.task))
        ∧ (s.tagged key = true → s.spadPoisoned key 16 = true → exec .exit s = .next (s.trap 0x13 (Config.poisonValue s.me.task)))
        ∧ (s.swAddOk key = true → s.spadPoisoned key 16 = false → s.relPending s.cur = true → exec .exit s = .next (s.stall .order))
        ∧ (s.swAddOk key = true → s.spadPoisoned key 16 = false → s.relPending s.cur = false → completes .exit s (fun u => ended u (fun w => !w.passed key gen)
          ∧ f u 0 = f s 0 ∧ f u 1 = (f s 1 + 1) % f s 0 ∧ f u 2 = gen ∧ f u 3 = f s 3
          ∧ (∀ x, x < key ∨ key + 16 ≤ x → u.spad.read x = s.spad.read x)
          ∧ ∀ k x, Store.find s.accs k = some x → (x.passed key gen = true → Store.find u.accs k = some { x with state := .performed none 0 })
            ∧ (x.passed key gen = false → Store.find u.accs k = some x)))))
    ∧ (s.me.vectorBusy = false → s.buffered s.cur = [] →
      let carried (s0 : State) (live : Bool) (n : Nat) (r : Reg) : Bool :=
        decide (r.toNat ≤ n) && (!live || decide (r = 16) || (s0.liveOf s.cur).getLsbD r.toNat)
      let sent (s0 u : State) (x : Thread) (dst : Nat) (wide live mark : Bool) : Prop :=
        u = { s0 with threads := u.threads, next := s.next + 1, sync := { s0.sync with ctxs := u.sync.ctxs }
                      launches := if mark then (s.setMark s.cur).launches else s.launches, iss := { s.iss with moved := true } }
        ∧ (∀ k, k ≠ s.cur → u.thread k = s.thread k) ∧ u.me = { x with waits := .migr s.next :: s.me.waits }
        ∧ (∀ k, k ≠ s.next → Store.find u.sync.ctxs k = Store.find s.sync.ctxs k)
        ∧ ∃ c : Ctx, Store.find u.sync.ctxs s.next = some (c, .travelling)
          ∧ c = { c with launch := id, sender := s.cur, core := dst * 3 + s.cur / 16 % 3, pc := s.me.pc + 8, left := s.me.left - 1
                         task := s.me.task, slice := s.me.slice, wide := wide, hold := Held.none }
          ∧ ∀ r : Reg, 1 ≤ r.toNat → r.toNat ≤ 16 →
            c.regs[r.toNat - 1]? = some (if carried s0 live (if wide then 16 else 8) r then s.reg r else 0)
            ∧ c.bad[r.toNat - 1]? = some (carried s0 live (if wide then 16 else 8) r && s.me.pois.getLsbD r.toNat)
      completes .yield s (fun u => sent s u s.me tile true false false)
      ∧ (∀ live wide dst role slot, parseCore (s.reg a) = some (dst, role, slot) → l.hasTile dst = true →
          completes (.migrc a live wide) s (fun u => sent s u s.me dst wide live true))
      ∧ (∀ live wide lc t st n, s.remoteHome (s.reg a) = none → resolve s.maps (s.mapOf s.cur) (s.reg a) = ⟨.ok (lc, t), st⟩ →
          let s0 := { s with maps := s.maps.countHits st }
          s0.node t.node = some n →
          (n.targetExtent t.child ≤ (s.reg b).toNat → exec (.migr a b live wide) s = .next (s0.trap 0x08 (s.reg a)))
          ∧ ((s.reg b).toNat < n.targetExtent t.child →
              completes (.migr a b live wide) s (fun u => sent s0 u s.me (s0.migrTile l t (s.reg b).toNat) wide live true)))
      ∧ (∀ live wide h, s.remoteHome (s.reg a) = some h → s.me.far = some (s.reg a, s.reg b) →
          completes (.migr a b live wide) s (fun u => sent s u { s.me with far := none } tile wide live true)))
    ∧ (∀ live wide h, s.remoteHome (s.reg a) = some h → s.me.far ≠ some (s.reg a, s.reg b) → completes (.migr a b live wide) s (fun u =>
        u.iss = { s.iss with stalled := true } ∧ u.mod = s.modSent h (.access s.next (s.agentOf s.cur) (s.reg a) (s.reg b) 1 .probe)
        ∧ sends { s with iss := u.iss, mod := u.mod } u (s.access (.remote h (s.reg a) (s.reg b)) 1 .probe 0 .plain 3 .sent)))
    ∧ (s.me.vectorBusy = false → s.buffered s.cur ≠ [] → exec .yield s = .next (s.stall .fence)
      ∧ ∀ live wide dst role slot, parseCore (s.reg a) = some (dst, role, slot) → l.hasTile dst = true →
        exec (.migrc a live wide) s = .next (s.stall .fence))
    ∧ (∀ live wide, (parseCore (s.reg a) = none ∨ ∃ dst role slot, parseCore (s.reg a) = some (dst, role, slot) ∧ l.hasTile dst = false) →
        exec (.migrc a live wide) s = .next (s.trap 0x0E (s.reg a)))
    ∧ (s.phaseWaiters l tile = [] →
      let past := (l.count tile + 1 + 2 ^ 32 - (l.least tile + l.allow) % 2 ^ 32) % 2 ^ 32
      let may := l.neighbours tile = [] ∨ past = 0 ∨ 2 ^ 31 < past
      completes .phadv s (fun u => u = { s with threads := u.threads, launches := u.launches } ∧ others u
        ∧ (may → u.me = { s.me with stamp := s.cycle } ∧ Store.find u.launches id
            = some { l with work := { l.work with counts := Store.put l.work.counts tile ((l.count tile + 1) % 2 ^ 32) } })
        ∧ (¬ may → u.me = { s.me with stamp := s.cycle, waits := .phase :: s.me.waits } ∧ u.launches = s.launches)))
    ∧ results (.phqry d) s d (BitVec.ofNat 64 (l.least tile % 2 ^ 32 * 2 ^ 32 + l.count tile % 2 ^ 32))
    ∧ completes .quiet s (fun u => onlyThread s u s.cur ∧ sameBytes s u ∧ u.me = { s.me with waits := .quiet :: s.me.waits })

/-- (a) R36 to R41, R43: a thread that takes work starts the oldest arrived context, else the bottom record, else its core asks
its first victim; a victim, after its cycle's bundles, that serves another thief or has no record says so, another gives its top record, once none
of its own threads wants it, and is marked; a thief that has found work asks no more; a thief whose record comes starts it, with
STOLEN set, or keeps it in its deque where every thread has work and its share has room, else it asks the next victim or rests; a
context that arrives is queued, spilled (by the module that homes the spill area) or refused, and the answer frees its slot or traps there; a tile's count reaches its neighbour. A start sets what
`begins` says and nothing else of the thread.
(b) R42 to R44, R87, R367: the core that holds the Circus token passes it when it is idle, with its mark; back at core 0 a
marked round starts the count again, a first clean round counts, and a second one either returns the threads that wait in
QUIET or completes the launch, once its threads' stores have been performed: its tenures end (data whose page is demoted stays released), the modules at which it holds
tenure or merges learn of it, its DONE word takes SWADD of 1 where that may be, its interrupt is raised, and it leaves the module.
Log entries 23, 24, 35, 39, 41, 44, 68, 73: what the model chose here. -/
def Obligations.TaskEventsAndCompletion : Prop :=
  (∀ (s : State) (id : Nat) (l : Launch), s.launch id = some l →
       let begins (x y : Thread) (pc : Word) (left : Nat) (task : Word) (slice : BitVec 32) (regs : List Word)
           (bad : List Bool) : Prop :=
         y = { x with g := y.g, pois := y.pois, pc := pc, left := left, level := 0, work := true, waits := [], sonly := false
                      uonly := none, far := none, live := none, fst := 0, frm := 0, uvec := 0, ucause := 0, uepc := 0, uval := 0, task := task, slice := slice, code := l.code }
         ∧ ∀ r : Reg, (1 ≤ r.toNat → r.toNat < 24 → y.g[r.toNat] = regs.getD (r.toNat - 1) 0
               ∧ y.pois.getLsbD r.toNat = (decide (r.toNat ≤ 16) && bad.getD (r.toNat - 1) false))
             ∧ (24 ≤ r.toNat → y.g[r.toNat] = x.g[r.toNat] ∧ y.pois.getLsbD r.toNat = x.pois.getLsbD r.toNat)
       let only (x u : State) (tid : Nat) (l1 : Launch) : Prop := u = { x with threads := u.threads, launches := u.launches }
         ∧ (∀ k, k ≠ tid → u.thread k = s.thread k) ∧ Store.find u.launches id = some l1
         ∧ ∀ k, k ≠ id → Store.find u.launches k = Store.find s.launches k
       let steals (j : Nat) (x : StealState) : State :=
         { s with launches := Store.put s.launches id { l with work := { l.work with steals := Store.put l.work.steals j x } } }
       (∀ core tid, s.takerOn core = some (tid, id, l) → let j := l.coreIndex (tid / 48) (tid / 16 % 3)
         Store.find l.work.spilled j = none →
         (∀ c cs, l.arrivals j = c :: cs → completes (.takeWork core) s (fun u => only s u tid (l.setArrivals j cs)
             ∧ begins (s.thread tid) (u.thread tid) c.pc c.left c.task c.slice c.regs c.bad))
         ∧ (∀ r l1, l.arrivals j = [] → l.takeBottom j = some (r, l1) → (l.deque j).getLast? = some r ∧
             (s.targetCheck tid l.code r.entry = none → completes (.takeWork core) s (fun u => only s u tid l1
               ∧ begins (s.thread tid) (u.thread tid) r.entry 0 r.sync r.slice [r.arg0, r.arg1] [])))
         ∧ (l.arrivals j = [] → l.deque j = [] → exec (.takeWork core) s = .next (steals j (.asking (l.victims j)))))
       ∧ (∀ thief victim vs, Store.find l.work.steals thief = some (.asking (victim :: vs)) →
         let quits : State := { s with launches := Store.put s.launches id { l with work := { l.work with steals := Store.del l.work.steals thief } } }
         let serving : Prop := ∃ q ∈ l.work.steals, q.1 ≠ thief ∧ ∃ us r, q.2 = .answered us victim (some r)
         (s.partRuns l.part = false ∨ s.issuesDone = false → exec (.stealRequest id thief victim) s = .next s)
         ∧ (s.partRuns l.part = true → s.issuesDone = true →
         (s.mayAsk l thief = false → exec (.stealRequest id thief victim) s = .next quits)
         ∧ (s.mayAsk l thief = true → serving ∨ l.deque victim = [] →
           exec (.stealRequest id thief victim) s = .next ((steals thief (.answered vs victim none)).chargeAlley l thief victim))
         ∧ (∀ r l1, s.mayAsk l thief = true → ¬ serving → l.takeTop victim = some (r, l1) → (l.deque victim).head? = some r ∧
             ((l.threadsOn victim).any (s.wantsWork l) = true → exec (.stealRequest id thief victim) s = .next s)
             ∧ ((l.threadsOn victim).any (s.wantsWork l) = false →
             completes (.stealRequest id thief victim) s (fun u => u = { s.chargeAlley l thief victim with launches := u.launches }
               ∧ ∃ l2 : Launch, Store.find u.launches id = some l2 ∧ l2.work.deques = l1.work.deques ∧ victim ∈ l2.work.marks
                 ∧ (∀ k, k ∈ l2.work.marks → k = victim ∨ k ∈ l.work.marks)
                 ∧ Store.find l2.work.steals thief = some (.answered vs victim (some r)))))))
       ∧ (∀ thief victim vs, Store.find l.work.steals thief = some (.answered vs victim none) → let c := s.chargeAlley l victim thief
         let goes (st : Store StealState) : Prop := exec (.stealReply id thief) s
           = .next { c with launches := Store.put s.launches id { l with work := { l.work with steals := st } } }
         (s.mayAsk l thief = false → goes (Store.del l.work.steals thief))
         ∧ (s.mayAsk l thief = true → vs = [] → goes (Store.put l.work.steals thief .resting))
         ∧ (s.mayAsk l thief = true → vs ≠ [] → goes (Store.put l.work.steals thief (.asking vs))))
       ∧ (∀ thief victim vs r, Store.find l.work.steals thief = some (.answered vs victim (some r)) → let c := s.chargeAlley l victim thief
         let l1 : Launch := { l with work := { l.work with steals := Store.del l.work.steals thief } }
         (∀ tid, (l.threadsOn thief).find? (fun t => s.wantsWork l t) = some tid → s.targetCheck tid l.code r.entry = none →
           completes (.stealReply id thief) s (fun u => only c u tid l1
             ∧ begins (s.thread tid) (u.thread tid) r.entry 0 r.sync r.slice [r.arg0, r.arg1] []))
         ∧ ((l.threadsOn thief).find? (fun t => s.wantsWork l t) = none → s.partRuns l.part = false ∨ 4 * popOf l.slots ≤ (l.deque thief).length →
           exec (.stealReply id thief) s = .next s)
         ∧ ((l.threadsOn thief).find? (fun t => s.wantsWork l t) = none → s.partRuns l.part = true → (l.deque thief).length < 4 * popOf l.slots → completes (.stealReply id thief) s (fun u =>
           u = { c with launches := u.launches } ∧ ∃ l2 : Launch, Store.find u.launches id = some l2
             ∧ l2.deque thief = l.deque thief ++ [{ r with stolen := true }] ∧ Store.find l2.work.steals thief = none)))
       ∧ (∀ n c, Store.find s.sync.ctxs n = some (c, .travelling) → c.launch = id → let j := l.coreIndex (c.core / 3) (c.core % 3)
         let answer (u : State) (x : CtxState) : State := { u with sync := { u.sync with ctxs := Store.put u.sync.ctxs n (c, x) } }
         let wanted : Prop := l.deque j ≠ [] ∧ (l.threadsOn j).any (s.wantsWork l) = true
         (wanted → exec (.contextArrival n) s = .next s)
         ∧ (¬ wanted → (l.arrivals j).length < l.limit → Store.find l.work.spilled j = none → exec (.contextArrival n) s
           = .next (answer { s with launches := Store.put s.launches id (l.setArrivals j (l.arrivals j ++ [c])) } .accepted))
         ∧ (¬ wanted → l.limit ≤ (l.arrivals j).length → l.spill = 0 → exec (.contextArrival n) s
           = .next (answer s (.refused 0x0F (BitVec.ofNat 64 (coreName c.core)))))
         ∧ (∀ h, ¬ wanted → l.limit ≤ (l.arrivals j).length ∨ l.spilledFor j ≠ 0 → s.farHome (s.mapOf c.sender) l.spill = some h →
           (h ∈ s.mod.link.lost → exec (.contextArrival n) s = .next (answer s (.refused 0x06 l.spill)))
           ∧ (h ∉ s.mod.link.lost → ∃ u, exec (.contextArrival n) s = .next (answer u .spilling)
             ∧ State.asksFor { s with launches := Store.put s.launches id (l.setSpilled j (l.spilledFor j + 1)) } u h c.sender n l.spill
               (.spill c)))
         ∧ (¬ wanted → l.limit ≤ (l.arrivals j).length ∨ l.spilledFor j ≠ 0 → s.farHome (s.mapOf c.sender) l.spill = none →
           ∀ s1, s.spill l.spill c = (s1, .ok ()) → exec (.contextArrival n) s
           = .next (answer (s1.updLaunch id (fun l => l.setSpilled j (l.spilledFor j + 1))) .accepted)))
       ∧ (∀ n c x, Store.find s.sync.ctxs n = some (c, x) →
         let s1 := { s with sync := { s.sync with ctxs := Store.del s.sync.ctxs n } }
         (x = .accepted → c.hold = Held.none → completes (.contextAnswer n) s (fun u => u = { s1 with threads := u.threads }
           ∧ (∀ k, k ≠ c.sender → u.thread k = s.thread k)
           ∧ u.thread c.sender = { s.thread c.sender with work := false, waits := [], left := 0 }))
         ∧ (∀ e v, x = .refused e v → exec (.contextAnswer n) s = .next ((s1.unblock c.sender (.migr n)).answerTrap c.sender n c.hold
             (s.thread c.sender).pc (s.thread c.sender).left e v)))
       ∧ (∀ source target, l.hasTile source = true → l.hasTile target = true → source ∈ l.neighbours target → s.phaseWaiters l target = [] →
         exec (.phaseCountMessage id source target) s = .next { s with launches := Store.put s.launches id { l with work := { l.work with
           heard := Store.put l.work.heard (target * 1024 + source) (l.count source) } } }))
  ∧ (∀ (s : State) (id : Nat) (l : Launch), s.launch id = some l → l.phase = .running → s.partRuns l.part = true →
       let work (w : LaunchWork) : State := { s with launches := Store.put s.launches id { l with work := w } }
       (l.work.tokDue = false → let j := l.work.token
         (s.coreIdle id l j = false → exec (.circusTokenPass id) s = .next s)
         ∧ (s.coreIdle id l j = true → exec (.circusTokenPass id) s = .next (State.chargeAlley (work { l.work with
             token := (j + 1) % l.cores, tokDue := decide ((j + 1) % l.cores = 0), tokMark := l.work.tokMark || l.work.marks.contains j
             marks := l.work.marks.filter (fun k => decide (k ≠ j))
             steals := match Store.find l.work.steals j with
               | some .resting => Store.del l.work.steals j
               | _ => l.work.steals }) l j ((j + 1) % l.cores))))
       ∧ (l.work.tokDue = true → let next (n : Nat) : State := work { l.work with rounds := n, tokMark := false, tokDue := false }
         let quiet := l.threads.filter (fun t => (s.thread t).waits.contains .quiet)
         (l.work.tokMark = true → exec (.circusRound id) s = .next (next 0))
         ∧ (l.work.tokMark = false → l.work.rounds = 0 → exec (.circusRound id) s = .next (next 1))
         ∧ (l.work.tokMark = false → l.work.rounds ≠ 0 → quiet ≠ [] → completes (.circusRound id) s (fun u =>
             u = { next 0 with threads := u.threads } ∧ ∀ t, let left := (s.thread t).waits.filter (fun w => decide (w ≠ .quiet))
               u.thread t = if t ∈ quiet then { s.thread t with waits := left } else s.thread t))
         ∧ (l.work.tokMark = false → l.work.rounds ≠ 0 → quiet = [] → s.completionHeld l = true → exec (.circusRound id) s = .next s)
         ∧ (l.work.tokMark = false → l.work.rounds ≠ 0 → quiet = [] → s.completionHeld l = false → let s0 := s.endTenures id
             let s1 := s0.tellEnded id l.vf false
             let s2 := if l.dn = true ∧ s1.swAddOk l.done = true then (s1.swAdd l.done 1).charge l.vf 6000 else s1
             let s3 := if l.irq then s2.raiseVector l.vf (2 + l.queue % 62) else s2
             completes (.circusRound id) s (fun u =>
               u = { s3 with threads := u.threads, launches := Store.del s3.launches id
                             eng := { s3.eng with merges := s3.eng.merges.filter (fun m => decide (m.2.launch ≠ id)) } }
               ∧ (s1 = { s0 with mod := { s0.mod with link := s1.mod.link } } ∧ s1.mod.link.reach = s0.mod.link.reach.filter (fun p => decide (p.1 ≠ id))
                 ∧ ∃ sent, s1.mod.link.outbox = s0.mod.link.outbox ++ sent ∧ sent.map (fun p => (p.1, p.2.body))
                   = (s0.mod.link.reach.filter (fun p => decide (p.1 = id))).map (fun p => (p.2, LinkBody.ended id false)))
               ∧ (∀ x ∈ u.tens, x.2.holder.launch = id → x.2.mode = .released 3 ∧ x.2.held ≠ [])
               ∧ ∀ t, u.thread t = if t ∈ l.threads then { s.thread t with work := false, waits := [] } else s3.thread t))))

/-- (a) R182, R299, R323, R347, R348: QLAUNCH waits for the thread's buffered stores, answers 2 for a queue its partition does
not have, 3 for a packet that fails a check, 1 for a full ring, and else writes the packet at TAIL and advances it. QCTL on a
queue that its issuer's virtual function has: QSTOP stops dispatch, QSTART, QDRAIN, which stops dispatch and waits until the
queue's placed launches are complete, and QRESET, which cancels the queue's launches, those that SAVE has sealed among them;
another queue answers 1. A packet in poisoned units traps (R359).
(b) R28, R30, R33 to R35, R234, R347 to R352: after what the host has posted before, its TAIL, of which more packets than the
ring holds are an error, which takes a packet that waits for its place back; the
head packet is refused, cancelled or waits for its place; placement deals slice i to core i mod N in rising order, to
each deque up to four records a slot, clears what the launch owns, sets the B banks, and consumes the packet; a launch starts at its time; a
vector that is unmasked is sent if it was pending and its function is not masked. RING, PRIO and LOG2 are written in STATE 0 alone.
Log entries 13, 31, 37, 38, 68, 71, 74: what the model chose here. -/
def Obligations.QueuesAndLaunches : Prop :=
  (∀ (s : State) (d a b : Reg),
       let vfp (x : Nat × Nat) (u : State) (q : Queue) : State :=
         { u with mod := { u.mod with host := { u.mod.host with queues := Store.put u.mod.host.queues (x.1 * 4096 + x.2) q } } }
       (∀ key, s.cur < 49152 → s.localAddr s.cur (s.reg a) = .ok key → key / 2 ^ 20 = s.cur / 48 → key % 64 = 0 →
         (s.spadPoisoned key 64 = true → exec (.qlaunch d a b) s = .next (s.trap 0x13 (Config.poisonValue (s.reg a))))
         ∧ (s.spadPoisoned key 64 = false → s.relPending s.cur = true → exec (.qlaunch d a b) s = .next (s.stall .order))
         ∧ (s.spadPoisoned key 64 = false → s.relPending s.cur = false →
         let p := (s.partOf s.cur).getD 0
         let vf := (s.part p).vf
         let n := (s.reg b).toNat
         let ws := (List.range 8).map (fun i => BitVec.ofNat 64 (s.spad.readLe (key + 8 * i) 8))
         let q := s.queue vf n
         let held := n < (s.part p).qquota.toNat ∧ n < 4096
         (¬ held → replies (.qlaunch d a b) s s 0 d 2 none)
         ∧ (held → s.packetBad p ws ≠ none → replies (.qlaunch d a b) s s 0 d 3 none)
         ∧ (held → s.packetBad p ws = none →
           (2 ^ q.log2 ≤ (q.tail - q.head).toNat → replies (.qlaunch d a b) s s 0 d 1 none)
           ∧ ((q.tail - q.head).toNat < 2 ^ q.log2 → ∀ s1 r, s.ringWrite vf q.ring (64 * (q.tail.toNat % 2 ^ q.log2)) ws = (s1, r) →
             (r = none → replies (.qlaunch d a b) s (vfp (vf, n) s1 { q with tail := q.tail + 1 }) 0 d 0 none)
             ∧ ∀ c v, r = some (c, v) → exec (.qlaunch d a b) s = .next (s1.trap c v)))))
       ∧ (let n := (s.reg a).toNat
         let p := if 2 ≤ s.me.level.toNat then some (s.selPart s.cur) else s.partOf s.cur
         (s.sysVf = none ∨ p = none ∨ (∃ k, p = some k ∧ ((s.part k).qquota.toNat ≤ n ∨ 4096 ≤ n)) →
           ∀ i : Instr, i = .qstop d a ∨ i = .qstart d a ∨ i = .qdrain d a ∨ i = .qreset d a → replies i s s 0 d 1 none)
         ∧ (∀ vf k, s.sysVf = some vf → p = some k → n < (s.part k).qquota.toNat → n < 4096 →
           let q := s.queue vf n
           let from_ (l : Nat × Launch) : Bool := decide (l.2.vf = vf) && decide (l.2.queue = n)
           let unplaced : State := { s with launches := s.launches.filter (fun l => !(from_ l && decide (l.2.phase = .waiting))) }
           let mine := (s.launches.filter (fun l => from_ l && decide (l.2.phase ≠ .waiting))).length
           replies (.qstop d a) s (vfp (vf, n) unplaced { q with state := if q.state = 3 then 3 else 0 }) 0 d 0 none
           ∧ (2 ^ q.log2 < (q.tail - q.head).toNat → replies (.qstart d a) s s 0 d 0 none)
           ∧ ((q.tail - q.head).toNat ≤ 2 ^ q.log2 → replies (.qstart d a) s (vfp (vf, n) s { q with state := 1, err := 0 }) 0 d 0 none)
           ∧ (mine = 0 → replies (.qdrain d a) s (vfp (vf, n) unplaced { q with state := if q.state = 3 then 3 else 0, drain := none }) 0 d
               (BitVec.ofNat 64 (q.drain.getD 0 % 2 ^ 32 * 2 ^ 32)) none)
           ∧ (mine ≠ 0 → exec (.qdrain d a) s = .next
               ((vfp (vf, n) unplaced { q with state := if q.state = 3 then 3 else 2, drain := some (q.drain.getD mine) }).stall (.drain vf n)))
           ∧ (∀ s1 count, s.cancelAll vf (some n) 3 = (s1, count) → let q1 := s1.queue vf n
               replies (.qreset d a) s (vfp (vf, n) s1 { q1 with head := q1.tail, state := 0, err := 0 }) 0 d
                 (BitVec.ofNat 64 (count % 2 ^ 32 * 2 ^ 32)) none))))
  ∧ ((∀ (s0 : State) (vf n : Nat) (tail : BitVec 32), vf < 256 → n < 4096 → let s := s0.landWrites
       let q := { s.queue vf n with tail := tail }
       let set (q : Queue) : State :=
         { s with mod := { s.mod with host := { s.mod.host with queues := Store.put s.mod.host.queues (vf * 4096 + n) q } } }
       (s0.mod.host.posted = [] → s = s0)
       ∧ ((tail - q.head).toNat ≤ 2 ^ q.log2 → exec (.queueTailWrite vf n tail) s0 = .next (set q))
       ∧ (2 ^ q.log2 < (tail - q.head).toNat → completes (.queueTailWrite vf n tail) s0 (fun u =>
           u = { s with mod := { s.mod with host := u.mod.host }, launches := u.launches }
           ∧ (∀ l, l ∈ u.launches ↔ l ∈ s.launches ∧ ¬ (q.state ≠ 3 ∧ l.2.vf = vf ∧ l.2.queue = n ∧ l.2.phase = .waiting))
           ∧ u.queue vf n = { q with state := 3, err := 0x80, errIdx := q.head } ∧ (∀ x y, (x, y) ≠ (vf, n) → x < 256 → y < 4096 → u.queue x y = s.queue x y)
           ∧ (q.state ≠ 3 → vf * 64 + 1 ∈ u.mod.host.pending ∨ u.mod.host.sent ≠ s.mod.host.sent)
           ∧ (q.state = 3 → u.mod.host = (set { q with err := 0x80, errIdx := q.head }).mod.host))))
     ∧ (∀ (s s1 : State) (vf n : Nat) (h : HeadState), s.judgeHead vf n = (s1, h) → let q := s1.queue vf n
       let set (q : Queue) : State :=
         { s1 with mod := { s1.mod with host := { s1.mod.host with queues := Store.put s1.mod.host.queues (vf * 4096 + n) q } } }
       (h = .idle → exec (.launchDispatch vf n) s = .next s)
       ∧ (∀ row, h = .refused row → let s2 := set { q with state := 3, err := row, errIdx := q.head }
           let kept := s1.launches.filter (fun l => !(decide (l.2.vf = vf) && decide (l.2.queue = n) && decide (l.2.phase = .waiting)))
           exec (.launchDispatch vf n) s = .next (State.raiseVector { s2 with launches := kept } vf 1))
       ∧ (∀ ws, h = .ready ws → exec (.launchDispatch vf n) s = .next { s1 with
           launches := Store.put s1.launches s1.next (s1.newLaunch ((s1.partOfVf vf).getD 0) vf n ws), next := s1.next + 1 })
       ∧ (∀ ws, h = .cancelled ws → pkDn ws = false → exec (.launchDispatch vf n) s = .next (set { q with head := q.head + 1 }))
       ∧ (∀ ws p key, h = .cancelled ws → pkDn ws = true → s.partOfVf vf = some p → s1.syncWordKey p (pkSyncTile ws) (pkDone ws) = some key →
           exec (.launchDispatch vf n) s = .next ((set { q with head := q.head + 1 }).writeStatus key 0 3 |>.charge vf 6000)))
     ∧ (∀ (s : State) (id row col : Nat) (l : Launch), s.launch id = some l → let n := l.cores
       let l1 : Launch := { l with row0 := row, col0 := col, phase := .placed }
       let q := s.queue l.vf l.queue
       (q.state ≠ 1 → exec (.launchPlacement id row col) s = .next s)
       ∧ (q.state = 1 → l.phase = .waiting → row < 32 → col < 32 → s.partRuns l.part = true → s.fits id l row col = true → s.overtakes l = false →
       l.work.deques = [] → 0 < n → l.slices ≤ 2 ^ 24 → completes (.launchPlacement id row col) s (fun u =>
         u = { s with launches := u.launches, sync := { s.sync with sems := u.sync.sems, waiters := u.sync.waiters }
                      eng := { s.eng with bbank := u.eng.bbank, bPois := u.eng.bPois, acc := u.eng.acc }
                      mod := { s.mod with llc := u.mod.llc, meters := u.mod.meters
                                          host := { s.mod.host with queues := u.mod.host.queues, turn := u.mod.host.turn } } }
         ∧ (∀ tile, let bank (x : State) : Nat := (Store.find x.mod.llc.bbank tile).getD 0
             (l.bbank ≠ 0 → tile ∈ l1.tiles → bank u = l.bbank)
             ∧ (tile ∉ l1.tiles → bank u = bank s ∧ ∀ x, x.tile = tile → (x ∈ u.mod.llc.lines ↔ x ∈ s.mod.llc.lines)))
         ∧ (∀ k, k ≠ id → Store.find u.launches k = Store.find s.launches k)
         ∧ (∃ l2 : Launch, u.launch id = some l2 ∧ l2 = { l1 with work := { l.work with dealt := l2.work.dealt, deques := l2.work.deques } }
             ∧ ∀ j, j < n → (l2.deque j).length ≤ 4 * popOf l.slots
               ∧ (l2.deque j).map (fun r => r.slice.toNat) ++ (Store.find l2.work.dealt j).getD []
                 = (List.range ((l.slices - j + n - 1) / n)).map (fun i => j + n * i)
               ∧ ∀ r ∈ l2.deque j, r.entry = l.entry ∧ r.arg0 = l.arg0 ∧ r.arg1 = l.arg1 ∧ r.sync = 0 ∧ r.stolen = false)
         ∧ u.queue l.vf l.queue = { q with head := q.head + 1 } ∧ Store.find u.mod.host.turn (l.vf * 4 + q.prio) = some l.queue
         ∧ (∀ k, l.slots.getLsbD (k % 32 / 2) = true → l1.hasTile (k / 32) = true →
             Store.find u.sync.sems k = none ∧ Store.find u.sync.waiters k = none)
         ∧ (l.bbank ≠ 0 → ∀ k, (l1.hasTile (k / 2 ^ 21) = true → u.eng.bbank.read k = 0) ∧ (l1.hasTile (k / 2 ^ 15) = true → u.eng.acc.read k = 0)))))
     ∧ (∀ (s : State) (vf n : Nat) (v : Word), vf < 256 → n < 4096 → let q := s.queue vf n
       let set (q : Queue) : State :=
         { s with mod := { s.mod with host := { s.mod.host with queues := Store.put s.mod.host.queues (vf * 4096 + n) q } } }
       let log2 := v.toNat % 16
       (q.state ≠ 0 → s.hostWrite (.ring vf n v) = s ∧ s.hostWrite (.level vf n v) = s)
       ∧ (q.state = 0 → s.hostWrite (.ring vf n v) = set { q with ring := v }
         ∧ (4 ≤ log2 → log2 ≤ 14 → v.toNat < 64 → s.hostWrite (.level vf n v) = set { q with prio := v.toNat / 16, log2 := log2 })))
     ∧ (∀ (s : State) (id : Nat) (l : Launch), s.launch id = some l → l.phase = .placed →
       (s.time < l.start → exec (.launchStart id) s = .next s)
       ∧ (l.start ≤ s.time → exec (.launchStart id) s = .next { s with launches := Store.put s.launches id { l with phase := .running } }))
     ∧ (∀ (s0 : State) (vf v : Nat), vf < 256 → v < 64 → let k := vf * 64 + v
       let s := s0.landWrites
       let due : Prop := k ∈ s.mod.host.pending ∧ vf ∉ s.mod.host.masked
       completes (.msixUnmask vf v) s0 (fun u =>
         u = { s with mod := { s.mod with host := { s.mod.host with unmasked := u.mod.host.unmasked, pending := u.mod.host.pending, sent := u.mod.host.sent } } }
         ∧ k ∈ u.mod.host.unmasked
         ∧ (∀ j, j ≠ k → Store.find u.mod.host.sent j = Store.find s.mod.host.sent j)
         ∧ (¬ due → u.mod.host.sent = s.mod.host.sent ∧ u.mod.host.pending = s.mod.host.pending)
         ∧ (due → u.mod.host.pending = s.mod.host.pending.filter (fun x => decide (x ≠ k)) ∧ Store.find u.mod.host.sent k = some ((Store.find s.mod.host.sent k).getD 0 + 1)))))

/-! ## Privileged operation -/

/-- (a) R285, R286, R296, R319, Tables 18.2 and 18.3: MFP of a register that the level may not read traps with 0x02 and its
number; a per-thread register reads at once; a per-partition one is read where it lives, with a reply. `p` is the
thread's own partition, or at levels 2 and 3 the one in cr.psel.
(b) R285, R287, R296, R326, R331, R334, R362, Tables 18.3 and 20.1: MTP. A register that the level may not write traps with
0x02 and its number, a reserved bit with 0x01 and the value, a refused write of a per-partition register with 0x09 and the
value, each with nothing written; the table's own names for two kinds of MTP are the same operation. Binding makes the
partition valid and gives the virtual function its key.
Log entries 13, 26, 31, 35: what the model chose here. -/
def Obligations.PrivilegedRegisters : Prop :=
  (∀ (s : State) (d : Reg), let t := s.me
       let level := t.level.toNat
       let per (n : Nat) : Prop := n = 0x104 ∨ (0x111 ≤ n ∧ n ≤ 0x11A)
       let readable (n : Nat) : Prop := 2 ≤ level ∨ (level = 1 ∧ (n ≤ 0x10C ∨ (0x111 ≤ n ∧ n ≤ 0x11A)) ∧ ¬ (49152 ≤ s.cur ∧ per n))
       let thread (n : BitVec 16) (v : Word) : Prop := readable n.toNat → results (.mfp d n) s d v
       let part (n : BitVec 16) (v : Word) : Prop := readable n.toNat → replies (.mfp d n) s s 0 d v none
       let p := s.part (if 2 ≤ level then (t.sys.psel.extractLsb' 0 4).toNat else (s.partOf s.cur).getD 0)
       let arg (i : Nat) : Word := match t.sys.latch with
         | some c => c.args.getD i 0
         | none => 0
       (∀ n : BitVec 16, ¬ readable n.toNat → exec (.mfp d n) s = .next (s.trap 0x02 (n.setWidth 64)))
       ∧ thread 0x100 t.sys.svec ∧ thread 0x101 t.sys.scause ∧ thread 0x102 t.sys.sepc ∧ thread 0x103 t.sys.sval
       ∧ thread 0x105 t.sys.sxcode ∧ thread 0x106 (t.level.setWidth 64) ∧ thread 0x107 t.sys.dbgsel ∧ thread 0x10B t.sys.dbgidx
       ∧ thread 0x110 t.sys.psel ∧ thread 0x11B t.sys.stopcycle ∧ thread 0x126 t.sys.cret0 ∧ thread 0x127 t.sys.cret1
       ∧ thread 0x121 (match t.sys.latch with
         | some c => c.callw
         | none => 0)
       ∧ thread 0x122 (arg 0) ∧ thread 0x123 (arg 1) ∧ thread 0x124 (arg 2) ∧ thread 0x125 (arg 3)
       ∧ part 0x104 p.scode ∧ part 0x111 (BitVec.ofNat 64 ((if p.valid then 256 else 0) + p.vf))
       ∧ part 0x112 ((if level ≤ 1 then p.vslots else p.slots).setWidth 64)
       ∧ part 0x113 ((if level ≤ 1 then p.vbanks else p.banks).setWidth 64)
       ∧ part 0x114 (p.ways.setWidth 64) ∧ part 0x115 (p.chans.setWidth 64) ∧ part 0x116 (p.qquota.setWidth 64)
       ∧ part 0x117 (p.pagequota.setWidth 64) ∧ part 0x118 (BitVec.ofNat 64 (p.pageuse.toNat + if p.valid then s.mapPool p.vf else 0)) ∧ part 0x119 (p.tbudget.setWidth 64)
       ∧ part 0x11A (p.ebudget.setWidth 64))
  ∧ (∀ (s : State) (d : Reg), let t := s.me
       let level := t.level.toNat
       let v := s.reg d
       let p := (t.sys.psel.extractLsb' 0 4).toNat
       let x := s.part p
       let sys (n : BitVec 16) (lowest : Nat) (reserved : Word) (after : ThreadSys) : Prop := lowest ≤ level →
         (v &&& reserved = 0 → completes (.mtp d n) s (fun u => onlyThread s u s.cur ∧ sameBytes s u ∧ u.me = { t with sys := after }))
         ∧ (v &&& reserved ≠ 0 → exec (.mtp d n) s = .next (s.trap 0x01 v))
       let part (n : BitVec 16) (reserved : Word) (refused : Prop) (after : Part) : Prop := 2 ≤ level →
         ∀ i : Instr, i = .mtp d n ∨ i = .partitionRegisterWrite d n →
         (v &&& reserved ≠ 0 → exec i s = .next (s.trap 0x01 v))
         ∧ (v &&& reserved = 0 → refused → exec i s = .next (s.trap 0x09 v))
         ∧ (v &&& reserved = 0 → ¬ refused → acks i s { s with parts := Store.put s.parts p after })
       let others (f : Part → Prop) : Prop := ∃ y ∈ s.parts, y.1 ≠ p ∧ f y.2
       (∀ n : BitVec 16, (level = 0 ∨ n.toNat = 0x106 ∨ n.toNat = 0x118 ∨ (0x120 ≤ n.toNat ∧ n.toNat ≤ 0x125)
           ∨ (level = 1 ∧ (n.toNat = 0x104 ∨ 0x110 ≤ n.toNat))) → exec (.mtp d n) s = .next (s.trap 0x02 (n.setWidth 64)))
       ∧ sys 0x100 1 0xFFFFFF0000000006 { t.sys with svec := v } ∧ sys 0x101 1 0x4FFFFFFFFFFFFF00 { t.sys with scause := v }
       ∧ sys 0x102 1 0xFFFF000000000007 { t.sys with sepc := v } ∧ sys 0x103 1 0 { t.sys with sval := v }
       ∧ sys 0x105 1 0 { t.sys with sxcode := v } ∧ sys 0x110 2 0xFFFFFFFFFFFFFFF0 { t.sys with psel := v }
       ∧ sys 0x11B 2 0 { t.sys with stopcycle := v }
       ∧ (t.sys.latch ≠ none → sys 0x126 2 0 { t.sys with cret0 := v } ∧ sys 0x127 2 0 { t.sys with cret1 := v })
       ∧ (2 ≤ level → t.sys.latch = none → exec (.mtp d 0x126) s = .next (s.trap 0x01 0x126)
           ∧ exec (.mtp d 0x127) s = .next (s.trap 0x01 0x127))
       ∧ part 0x104 0 (x.valid = true) { x with scode := v }
       ∧ part 0x112 0xFFFFFFFFFFFF0000 (x.valid = true ∨ others (fun y => y.slots &&& v.setWidth 16 ≠ 0))
           { x with slots := v.setWidth 16, vslots := v.setWidth 16 }
       ∧ part 0x113 0xFFFFFFFFFF000000 (x.valid = true ∨ others (fun y => y.banks &&& v.setWidth 24 ≠ 0))
           { x with banks := v.setWidth 24, vbanks := v.setWidth 24 }
       ∧ part 0x114 0xFFFFFFFFFFFF0000 False { x with ways := v.setWidth 16 }
       ∧ part 0x115 0xFFFFFFFFFF000000 False { x with chans := v.setWidth 24 }
       ∧ part 0x116 0xFFFFFFFFFFFFE000 (4096 < s.otherQueues p + v.toNat ∨ x.valid = true ∧ ∃ q ∈ s.mod.host.queues,
             q.1 / 4096 = x.vf ∧ v.toNat ≤ q.1 % 4096 ∧ q.2.head ≠ q.2.tail) { x with qquota := v.setWidth 13 }
       ∧ part 0x117 0xFFFFFFFF00000000 False { x with pagequota := v.setWidth 32 }
       ∧ (x.valid = false → part 0x119 0xFFFFFFFF00000000 False { x with tbudget := v.setWidth 32 }
           ∧ part 0x11A 0xFFFFFFFF00000000 False { x with ebudget := v.setWidth 32 })
       ∧ (2 ≤ level → x.valid = true → v.toNat < 2 ^ 32 → let put (y : Part) : State := { s with parts := Store.put s.parts p y }
           (∀ i : Instr, i = .mtp d 0x119 ∨ i = .partitionRegisterWrite d 0x119 →
             acks i s ((put { x with tbudget := v.setWidth 32 }).meterWrite x.vf 24 4 v.toNat))
           ∧ (∀ i : Instr, i = .mtp d 0x11A ∨ i = .partitionRegisterWrite d 0x11A →
             acks i s ((put { x with ebudget := v.setWidth 32 }).meterWrite x.vf 28 4 v.toNat)))
       ∧ (v.getLsbD 8 = false → part 0x111 0xFFFFFFFFFFFFFE00 (x.valid = true) { x with vf := v.toNat % 256 })
       ∧ (2 ≤ level → v &&& 0xFFFFFFFFFFFFFE00 = 0 → v.getLsbD 8 = true → ∀ i : Instr, i = .mtp d 0x111 ∨ i = .bindVf d →
           let vf := v.toNat % 256
           let taken := x.valid = true ∨ others (fun y => y.valid = true ∧ y.vf = vf)
           let bound := s.bindMeter p vf
           (taken → exec i s = .next (s.trap 0x09 v))
           ∧ (¬ taken → acks i s bound ∧ bound.part p
                 = { x with valid := true, vf := vf, pageuse := (s.meter vf).pages, vslots := x.slots, vbanks := x.banks }
               ∧ (∃ k, Store.find bound.mod.keys.dseq vf = some k) ∧ (bound.meter vf).bound = true)))

/-- R302 to R304, R319, Table 18.8: the debugger. cr.dbgsel takes the core number of a thread in the partition's slots, else
0x09; cr.dbgctl halts the selected thread, releases it or gives it one step, a halt with QUIESCE waiting for its jobs;
cr.dbgdata reads and writes a register of a halted thread, with the checks of its own level, and 0x09 of a running one.
Log entries 13, 36: what the model chose here. -/
def Obligations.Debugger : Prop :=
  ∀ (s : State) (d : Reg) (target : Nat), let t := s.me
    let v := s.reg d
    let x := s.thread target
    let sel := t.sys.dbgsel
    let idx := t.sys.dbgidx.toNat % 2 ^ 16
    t.level.toNat ≠ 0 →
    (∀ i : Instr, i = .mtp d 0x107 ∨ i = .debugSelect d → v.toNat < 2 ^ 32 →
      (s.debugTarget s.cur v = none → exec i s = .next (s.trap 0x09 v))
      ∧ (s.debugTarget s.cur v ≠ none → completes i s (fun u => onlyThread s u s.cur ∧ sameBytes s u
          ∧ u.me = { t with sys := { t.sys with dbgsel := v } })))
    ∧ (let ok := v.toNat < 32 ∨ (0x8000 ≤ v.toNat ∧ v.toNat ≤ 0x800F) ∨ (0x8100 ≤ v.toNat ∧ v.toNat ≤ 0x8106 ∧ v.toNat ≠ 0x8104)
      (ok → completes (.mtp d 0x10B) s (fun u => onlyThread s u s.cur ∧ sameBytes s u ∧ u.me = { t with sys := { t.sys with dbgidx := v } }))
      ∧ (¬ ok → exec (.mtp d 0x10B) s = .next (s.trap 0x01 v)))
    ∧ (s.debugTarget s.cur sel = none → ∀ i : Instr, i = .mfp d 0x108 ∨ i = .mfp d 0x109 ∨ i = .mfp d 0x10A ∨ i = .mfp d 0x10C →
        exec i s = .next (s.trap 0x09 sel))
    ∧ (s.debugTarget s.cur sel = some target →
      let set (y : ThreadSys) : State := s.setThread target { x with sys := y }
      let held : ThreadSys := { x.sys with halted := true, stepping := false }
      replies (.mfp d 0x108) s s 0 d (if x.sys.halted then 8 else 0) none
      ∧ replies (.mfp d 0x109) s s 0 d x.sys.dbgcode none ∧ replies (.mfp d 0x10A) s s 0 d x.sys.dbgmatch none
      ∧ acks (.mtp d 0x109) s (set { x.sys with dbgcode := v })
      ∧ (v &&& 0xFFFFFF0000000006 = 0 → acks (.mtp d 0x10A) s (set { x.sys with dbgmatch := v }))
      ∧ (∀ i : Instr, i = .mtp d 0x108 ∨ i = .debugHalt d → v.toNat < 16 → v.getLsbD 0 = true →
        (v.getLsbD 1 = false ∨ s.jobsQuiet target = true → acks i s (set held))
        ∧ (v.getLsbD 1 = true → s.jobsQuiet target = false → exec i s = .next ((set held).stall (.quiesce target))))
      ∧ (∀ i : Instr, (i = .mtp d 0x108 ∨ i = .debugRelease d ∧ v.getLsbD 2 = false ∨ i = .debugStep d ∧ v.getLsbD 2 = true) →
        v.toNat < 16 → v.getLsbD 0 = false → acks i s (set { x.sys with halted := false, stepping := v.getLsbD 2 }))
      ∧ (∀ i : Instr, i = .mfp d 0x10C ∨ i = .debugDataAccess false d →
        (x.sys.halted = false → exec i s = .next (s.trap 0x09 sel))
        ∧ (x.sys.halted = true → replies i s s 0 d (s.dbgRead target idx) none))
      ∧ (∀ i : Instr, i = .mtp d 0x10C ∨ i = .debugDataAccess true d →
        (x.sys.halted = false → exec i s = .next (s.trap 0x09 sel))
        ∧ (x.sys.halted = true → (∀ c w, s.dbgWriteBad target idx v = some (c, w) → exec i s = .next (s.trap c w))
          ∧ (s.dbgWriteBad target idx v = none → acks i s (s.dbgWrite target idx v)))))
    ∧ (∀ y : Nat, (∀ r : Reg, r ≠ 0 → s.dbgRead y r.toNat = (s.thread y).g[r.toNat]) ∧ s.dbgRead y 0 = 0
        ∧ s.dbgRead y 0x8006 = (s.thread y).fst ∧ s.dbgRead y 0x800F = (s.thread y).code ∧ s.dbgRead y 0x8101 = (s.thread y).sys.scause
        ∧ s.dbgWriteBad y 5 v = none ∧ ∀ r : Reg, s.dbgWrite y r.toNat v = s.setThread y ((s.thread y).setReg r v))

/-- R61, R63, R297, R310, R311: LMINV, once its thread's buffered stores are performed, starts a shoot-down of a label range (of
an empty one where a label is invalid), LMINV of a virtual function one of its whole map, and its thread waits for it; with no valid partition they have no effect.
Each tile drops, once, the entries that it and its cores hold for the range, and those that lead to a node, or passed a stub,
that the shoot-down of a map operation names, and its cores' lines of code likewise; when all 1,024 tiles have, the shoot-down ends and the thread that waits for it,
or the access, goes on.
Log entries 8, 25, 62: what the model chose here. -/
def Obligations.ShootDowns : Prop :=
  ∀ (s : State) (a b : Reg),
    (∀ i : Instr, i = .lminv a b ∨ i = .lminvVf → (s.sysVf = none → exec i s = .next s))
    ∧ (∀ vf, s.sysVf = some vf → s.relPending s.cur = true → ∀ i : Instr, i = .lminv a b ∨ i = .lminvVf →
      exec i s = .next (s.stall .order))
    ∧ (∀ vf, s.sysVf = some vf → s.relPending s.cur = false →
      let starts (i : Instr) (lo hi : Word) (all : Bool) : Prop := completes i s (fun u =>
        let shoot : Shoot := { vf := vf, lo := lo, hi := hi, all := all, via := [], seen := [], acks := 0, tid := some s.cur }
        u = { s with threads := u.threads, shoots := Store.put s.shoots s.next shoot, next := s.next + 1 }
        ∧ (∀ k, k ≠ s.cur → u.thread k = s.thread k) ∧ u.me = { s.me with waits := .shootdown s.next :: s.me.waits })
      (lblValid (s.reg a) = true → lblValid (s.reg b) = true → starts (.lminv a b) (s.reg a) (s.reg b) false)
      ∧ (lblValid (s.reg a) = false ∨ lblValid (s.reg b) = false → starts (.lminv a b) (BitVec.allOnes 64) 0 false)
      ∧ starts .lminvVf 0 0 true)
    ∧ (∀ id tile x, Store.find s.shoots id = some x → tile < 1024 →
      (x.seen.contains tile = true → exec (.shootdownInvalidate id tile) s = .next s)
      ∧ (x.seen.contains tile = false → completes (.shootdownInvalidate id tile) s (fun u =>
        let ranged (l : Word) : Prop := x.lo.toNat / 16 ≤ l.toNat / 16 ∧ l.toNat / 16 ≤ x.hi.toNat / 16
        u = { s with tlb := u.tlb, icache := u.icache, shoots := Store.put s.shoots id { x with seen := tile :: x.seen } }
        ∧ (∀ e, e ∈ u.icache ↔ e ∈ s.icache ∧ ¬ (e.core / 3 = tile ∧ e.vf = x.vf ∧ (x.all = true ∨ e.node ∈ x.via ∨ ranged e.label)))
        ∧ ∀ e, e ∈ u.tlb ↔ e ∈ s.tlb ∧ ¬ ((e.tier / 3 = tile ∧ e.tier < 3072 ∨ e.tier = 3072 + tile) ∧ e.vf = x.vf
            ∧ (x.all = true ∨ e.node ∈ x.via ∨ (∃ i ∈ e.stubs, i ∈ x.via) ∨ ranged e.label)))))
    ∧ (∀ id x, Store.find s.shoots id = some x →
      (x.seen.length ≤ x.acks → exec (.shootdownAck id) s = .next s)
      ∧ (x.acks < x.seen.length → x.acks + 1 ≠ 1024 →
          exec (.shootdownAck id) s = .next { s with shoots := Store.put s.shoots id { x with acks := x.acks + 1 } })
      ∧ (x.acks < x.seen.length → x.acks + 1 = 1024 →
        let s1 := { s with shoots := Store.del s.shoots id }
        (x.tid = none → exec (.shootdownAck id) s = .next s1)
        ∧ (∀ t, x.tid = some t → completes (.shootdownAck id) s (fun u => u = { s1 with threads := u.threads }
          ∧ (∀ k, k ≠ t → u.thread k = s.thread k)
          ∧ u.thread t = { s.thread t with waits := (s.thread t).waits.filter (fun w => decide (w ≠ .shootdown id)) }))))

/-- (a) R298, R315, R316, R170: SSTOP arms a partition's stop at cr.stopcycle, which must lie 4,096 cycles ahead, and its
cancellation takes an armed one back while as much is left, neither touching one whose cycle is reached; at the cycle, in a
partition that is resident, issue stops, TACQs that wait at their homes, on other modules too, are withdrawn and steals end;
the flush token visits the routers from router 0 once phase 2 has ended, one on each Ring Road cycle after its flits have
hopped, TACQs that have come to wait meanwhile being withdrawn, and a tour of 1,024 that absorbs nothing completes the stop.
(b) R300, R301, R317 to R320: PARTX SAVE of a stopped partition seals its image into the node named, takes its state off the
module and makes it non-resident; RESTORE puts an image that its checks accept, sealed here or on another module, into an
unbound partition at its own positions of equal rank, binds it and posts its escalated threads' records again; one from
another module brings its tenure records and queue registers too. Each refusal is its code, and SAVE waits for an armed stop,
RESTORE for the image's stop time, which returns it to the rotation.
Log entries 13, 40, 42, 72: what the model chose here. -/
def Obligations.StopsAndImages : Prop :=
  (∀ (s : State) (a : Reg) (p : Nat), let x := s.part p
       let stopped (u : State) (y : StopState) : State := { u with parts := Store.put u.parts p { u.part p with stop := y } }
       (16 ≤ (s.reg a).toNat → exec (.sstop a) s = .next (s.trap 0x0C (s.reg a)) ∧ exec (.sstopCancel a) s = .next (s.trap 0x0C (s.reg a)))
       ∧ (s.reg a = BitVec.ofNat 64 p → p < 16 → let c := s.me.sys.stopcycle.toNat
         (c < s.cycle + 4096 → exec (.sstop a) s = .next (s.trap 0x0C s.me.sys.stopcycle))
         ∧ (s.cycle + 4096 ≤ c → (x.stop = .none ∨ ∃ c, x.stop = .armed c ∧ s.cycle < c) → acks (.sstop a) s (stopped s (.armed c)))
         ∧ (s.cycle + 4096 ≤ c → x.stop ≠ .none → (∀ c, x.stop = .armed c → c ≤ s.cycle) → acks (.sstop a) s s)
         ∧ (∀ c, x.stop = .armed c → (s.cycle + 4096 ≤ c → acks (.sstopCancel a) s (stopped s .none))
             ∧ (s.cycle < c → c < s.cycle + 4096 → exec (.sstopCancel a) s = .next (s.trap 0x0C (BitVec.ofNat 64 c)))
             ∧ (c ≤ s.cycle → acks (.sstopCancel a) s s))
         ∧ ((∀ c, x.stop ≠ .armed c) → acks (.sstopCancel a) s s))
       ∧ (∀ c, x.stop = .armed c →
         (s.cycle < c → exec (.stopCycle p) s = .next s)
         ∧ (c ≤ s.cycle → x.valid = false → exec (.stopCycle p) s = .next (stopped s .none))
         ∧ (c ≤ s.cycle → x.valid = true → completes (.stopCycle p) s (fun u =>
           let ended := s.launches.map (fun l => if l.2.part = p then (l.1, l.2.endSteals) else l)
           let l := s.mod.link
           u = { stopped s (.flushing c s.time 0 false) with
                 threads := u.threads, treqs := u.treqs, launches := ended
                 mod := { s.mod with link := { l with outbox := u.mod.link.outbox, undone := u.mod.link.undone } } }
           ∧ ((∀ k a, (k, a) ∈ s.accs → a.state ≠ .sent ∨ x.hasThread a.tid = false) → u.mod = s.mod)
           ∧ (∀ k a h r n f v d tl tr b b', s.accs = [(k, a)] → x.hasThread a.tid = true → a.state = .sent → a.place = .remote h r n →
             a.op = .far f v → f.op = .tacq d tl tr b b' → k ∉ l.undone → u.mod.link.undone = k :: l.undone
               ∧ ∃ m : LinkPacket, u.mod.link.outbox = l.outbox ++ [(h, m)] ∧ m.vf = x.vf ∧ m.body = .withdraw k)
           ∧ (∀ q ∈ u.treqs, q ∈ s.treqs ∧ (x.hasThread q.2.tid = false ∨ q.2.queued = none))
           ∧ (∀ t, x.hasThread t = false → u.thread t = s.thread t)
           ∧ ∀ k q, s.treqs = [(k, q)] → x.hasThread q.tid = true → (q.queued = none → u.treqs = s.treqs ∧ u.threads = s.threads)
             ∧ (q.queued ≠ none → u.treqs = [] ∧ u.thread q.tid = { s.thread q.tid with
               waits := (s.thread q.tid).waits.filter (fun w => decide (w ≠ .tenure k)), pc := q.pc, left := q.left, sonly := q.hold.sonly
               restamp := some q.stamp }))))
       ∧ (∀ c t r ab, x.stop = .flushing c t r ab →
         (r = 0 → s.phase2Done x = false → exec (.flushTokenHop p) s = .next (s.withdrawTacqs x))
         ∧ (r ≠ 0 ∨ s.phase2Done x = true → s.tourHeld p = true → exec (.flushTokenHop p) s = .next s)
         ∧ (r ≠ 0 ∨ s.phase2Done x = true → s.tourHeld p = false → ∀ s1 took,
           let s0 : State := { s with mod := { s.mod with net := { s.mod.net with visitAt := Store.put s.mod.net.visitAt p (s.cycle / 2 + 1) } } }
           s0.absorb p (serpentine r) = (s1, took) →
           ((r + 1) % 1024 ≠ 0 → exec (.flushTokenHop p) s = .next (stopped s1 (.flushing c t (r + 1) (ab || took))))
           ∧ ((r + 1) % 1024 = 0 → ((ab || took) = true ∨ s1.phase2Done (s1.part p) = false) →
               exec (.flushTokenHop p) s = .next (stopped s1 (.flushing c t (r + 1) false)))
           ∧ ((r + 1) % 1024 = 0 → (ab || took) = false → s1.phase2Done (s1.part p) = true →
               exec (.flushTokenHop p) s = .next (stopped s1 (.stopped c t))))))
  ∧ (∀ (s : State) (d a b : Reg) (p : Nat) (lc : Word) (t : Target) (st : List Nat),
       let l := s.reg b
       let s0 := { s with maps := s.maps.countHits st }
       let x := s.part p
       let node := t.node
       s.reg a = BitVec.ofNat 64 p → p < 16 → resolve s.maps 256 l = ⟨.ok (lc, t), st⟩ →
       (x.valid = false → replies (.partxSave d a b) s s0 0 d 3 none)
       ∧ (x.valid = true → x.stop = .none → replies (.partxSave d a b) s s0 0 d 1 none)
       ∧ (x.valid = true → ((∃ c, x.stop = .armed c) ∨ ∃ c t r ab, x.stop = .flushing c t r ab) →
           exec (.partxSave d a b) s = .next (s0.stall (.stop p)))
       ∧ (∀ c t, x.valid = true → x.stop = .stopped c t → let img0 := s0.imageOf p
         let img := { img0 with cipher := img0.sealed s0.next }
         (img.vf = x.vf ∧ img.cycle = c ∧ img.time = t)
         ∧ (s0.plainExtent node < img.size → replies (.partxSave d a b) s s0 0 d (BitVec.ofNat 64 (img.size % 2 ^ 40 * 2 ^ 24 + 2)) none)
         ∧ (img.size ≤ s0.plainExtent node → ∀ s1, s0.pageChecks 256 0 (firstPages node img.size) = (s1, none) →
           let s2 := s1.writeSealed node img
           let s3 : State := { s2 with next := s2.next + 1, mod := { s2.mod with keys := { s2.mod.keys with
             images := Store.put s2.mod.keys.images s2.next img } } }
           let s4 := (s3.takeOff p).unbind p
           replies (.partxSave d a b) s s4 0 d 0 none ∧ (s4.part p).valid = false
           ∧ (∀ q ∈ s4.threads, x.hasThread q.1 = false) ∧ (∀ q ∈ s4.launches, q.2.part ≠ p) ∧ ∀ q ∈ s4.eng.jobs, x.hasThread q.2.tid = false))
       ∧ (let fits (img : Image) : Prop := popOf x.slots = popOf img.slots ∧ popOf x.banks = popOf img.banks
             ∧ ∀ i, i < 16 → img.slots.getLsbD i = true → (rankMap img.slots x.slots).getD i i % 2 = i % 2
         (x.valid = true → replies (.partxRestore d a b) s s0 0 d 5 none)
         ∧ (x.valid = false → s0.findImage node = none → replies (.partxRestore d a b) s s0 0 d 4 none)
         ∧ (∀ img foreign, x.valid = false → s0.findImage node = some (img, foreign) →
           (s0.partOfVf img.vf ≠ none → replies (.partxRestore d a b) s s0 0 d 5 none)
           ∧ (s0.partOfVf img.vf = none → ¬ fits img → replies (.partxRestore d a b) s s0 0 d 6 none)
           ∧ (s0.partOfVf img.vf = none → fits img → s.mod.boot.locked = false → replies (.partxRestore d a b) s s0 0 d 7 none)
           ∧ (s0.partOfVf img.vf = none → fits img → s.mod.boot.locked = true →
             (s.time < img.time → exec (.partxRestore d a b) s = .next (s0.stall (.time img.time)))
             ∧ (img.time ≤ s.time → foreign = false →
                 replies (.partxRestore d a b) s (((s0.bindMeter p img.vf).putImage p img).repost p) 0 d 0 none)
             ∧ (img.time ≤ s.time → foreign = true → let own := img.shift s.next
                 replies (.partxRestore d a b) s ((((s0.bindMeter p own.vf).putImage p own).joinForeign own).repost p) 0 d 0 none))))
       ∧ (∀ tid ns rest, (s.thread tid).waits = .time ns :: rest →
         (s.time < ns → exec (.restoreStopTimePassed tid) s = .next s)
         ∧ (ns ≤ s.time → completes (.restoreStopTimePassed tid) s (fun u => onlyThread s u tid
             ∧ u.thread tid = { s.thread tid with waits := rest.filter (fun w => decide (w ≠ .time ns)) }))))

/-- (a) R332 to R335: the page services of the root, asked for by HVC. PMOVE copies one page a step with its poison to a frame
of the channel asked for, each after the last one's shoot-down, skips what has no page or no free frame and ends with the
count; DEMOTE seals a present page of an encrypted node into a holding node and frees its frame under the next DSEQ;
PROMOTE brings the bytes back where the seal matches, else a poisoned page of zeros. DEMOTE waits for the accesses under way
to its page. Refusals end with their status, a call with an unlisted code is answered with FAIL 1. The placement logic moves a
page by the same steps, but none with a tenured element (R74).
(b) R278, R336, R352, R359: RESETVF, a Function Level Reset and an uncorrectable error in a virtual function's maps arm its
partition's stop 4,096 cycles ahead, after a PARTX SAVE at work on it; once that is complete the reset is performed: its
tenures end without writing back, its launches are cancelled with code 2, its queues are empty and stopped, an abort token
goes to the peers of its collectives, its reset number goes up and its partition becomes non-resident. Physical function 0's
reset touches no tenant.
Log entries 7, 42, 45, 46, 47, 50: what the model chose here. -/
def Obligations.PagesAndResets : Prop :=
  (∀ (s s1 : State) (caller : Nat) (x : Service), let vf := (x.arg 0).toNat
       let page := (x.arg 2).toNat
       (∀ st n, Why.call ∈ (s.thread x.call.tid).waits → x.call.callw.extractLsb' 44 4 = 0 →
         let u := s.endService x st n
         u = { s with threads := u.threads, mod := { s.mod with service := Store.del s.mod.service x.call.tid } }
         ∧ (∀ k, k ≠ x.call.tid → u.thread k = s.thread k) ∧ (u.thread x.call.tid).g[1] = BitVec.ofNat 64 st ∧ (u.thread x.call.tid).g[2] = BitVec.ofNat 64 n)
       ∧ (s.serviceOf caller 0x40 = some (s1, x) → x.shoot = none → x.next = 0 → ∀ s2 tgt, s1.serviceNode x = (s2, tgt) →
         let skipped := s2.setService x.call.tid (some { x with next := 1, shoot := none })
         ((tgt = none ∨ pmoveArg (x.arg 3) = none) → exec (.pmove caller) s = .next (s2.endService x 1 x.moved))
         ∧ (∀ p id count die chan, tgt = some (p, id) → pmoveArg (x.arg 3) = some (count, die, chan) →
           ((s2.part p).chans.getLsbD chan = false → exec (.pmove caller) s = .next (s2.endService x 1 x.moved))
           ∧ ((s2.part p).chans.getLsbD chan = true → 0 < count →
             (s2.pageOf id page = none → exec (.pmove caller) s = .next skipped)
             ∧ (∀ dseq, s2.pageOf id page = some (.demoted dseq) → exec (.pmove caller) s = .next (s2.endService x 6 x.moved))
             ∧ (∀ q old, s2.pageOf id page = some q → q.frame = some old → (frameDie old = die ∨ s2.pageTenured id page = false) →
               (s2.maps.frameOn die chan = none → exec (.pmove caller) s = .next skipped)
               ∧ (∀ new s3 k, s2.maps.frameOn die chan = some new → s2.movePage id page q old new = (s3, k) →
                 exec (.pmove caller) s = .next (s3.setService x.call.tid (some
                   { x with next := 1, moved := x.moved + 1, shoot := some (k, old) }))
                 ∧ s3.pageOf id page = some (q.withFrame new)
                 ∧ ∀ o, s2.dram.wf = true → o < 65536 → new ≠ old → s3.dram.read (new * 65536 + o) = s2.dram.read (old * 65536 + o))))))
       ∧ (s.serviceOf caller 0x41 = some (s1, x) → ∀ s2 s3 tgt hold, s1.serviceNode x = (s2, tgt) → s2.holding (x.arg 3) = (s3, hold) →
         ((tgt = none ∨ hold = none) → exec (.demote caller) s = .next (s3.endService x 1 0))
         ∧ (∀ p id h n, tgt = some (p, id) → hold = some h → s3.node id = some n →
           let dseq := (Store.find s3.mod.keys.dseq vf).getD 1
           (n.enc = false → exec (.demote caller) s = .next (s3.endService x 2 0))
           ∧ (n.enc = true → 2 ^ 48 - 1 ≤ dseq → exec (.demote caller) s = .next (s3.endService x 5 0))
           ∧ (n.enc = true → dseq < 2 ^ 48 - 1 → (∀ f, s3.pageOf id page ≠ some (.present f)) → exec (.demote caller) s = .next (s3.endService x 6 0))
           ∧ (∀ f s4, n.enc = true → dseq < 2 ^ 48 - 1 → s3.pageOf id page = some (.present f) →
             (s3.pageBusy id page = true → exec (.demote caller) s = .next s)
             ∧ (s3.pageBusy id page = false → s3.pageChecks 256 0 (firstPages h sealedLen) = (s4, none) → ∀ n4, s4.node id = some n4 →
               let s5 := s4.demotePage vf id page h f dseq
               exec (.demote caller) s = .next (s5.endService x 0 0) ∧ s5.pageOf id page = some (.demoted dseq)
               ∧ Store.find s5.mod.keys.dseq vf = some (dseq + 1) ∧ f ∉ s5.maps.frames))))
       ∧ (s.serviceOf caller 0x42 = some (s1, x) → ∀ s2 s3 tgt hold, s1.serviceNode x = (s2, tgt) → s2.holding (x.arg 3) = (s3, hold) →
         ((tgt = none ∨ hold = none) → exec (.promote caller) s = .next (s3.endService x 1 0))
         ∧ (∀ p id h, tgt = some (p, id) → hold = some h →
           ((∀ dseq, s3.pageOf id page ≠ some (.demoted dseq)) → exec (.promote caller) s = .next (s3.endService x 6 0))
           ∧ (∀ dseq s4 e, s3.pageOf id page = some (.demoted dseq) → s3.allocPage vf id page 0 = (s4, e) →
             (e ≠ none → exec (.promote caller) s = .next (s4.endService x 3 0))
             ∧ (∀ f, e = none → s4.pageOf id page = some (.present f) →
               (s3.findSealed vf h (id * 2 ^ 25 + page) dseq = none →
                 exec (.promote caller) s = .next ((s4.setPage id page (.poisoned true f)).endService x 0x12 0))
               ∧ (∀ k y, s3.findSealed vf h (id * 2 ^ 25 + page) dseq = some (k, y) → exec (.promote caller) s = .next (State.endService
                 (State.undoDue { s4 with
                   dram := y.body.foldl (fun (m : Memory) (c : Nat × Byte) => m.write (f * 65536 + c.1) c.2) s4.dram
                   dramPois := s4.dramPois ++ y.pois.map (fun u => f * 1024 + u)
                   mod := { s4.mod with keys := { s4.mod.keys with pages := Store.del s4.mod.keys.pages k } } } id page) x 0 0))))))
       ∧ (∀ c, Store.find s.mod.service caller = none → s.unlistedCall caller = some c → let u := (s.takeCall c).reply c true 0 0
         (s.serviceOf caller 0x40 = none → exec (.pmove caller) s = .next u) ∧ (s.serviceOf caller 0x41 = none → exec (.demote caller) s = .next u)
         ∧ (s.serviceOf caller 0x42 = none → exec (.promote caller) s = .next u) ∧ (s.serviceOf caller 0x43 = none → exec (.resetvf caller) s = .next u))
       ∧ (∀ node pg die chan, let key := 65536 + node * 2 ^ 25 + pg
         Store.find s.mod.service key = none → s.pageTenured node pg = true → exec (.pagePlacementMove node pg die chan) s = .next s)
       ∧ (∀ node pg die chan n q old p, let key := 65536 + node * 2 ^ 25 + pg
         (∀ y k, Store.find s.mod.service key = some y → y.shoot = some (k, old) → Store.find s.shoots k = none →
           exec (.pagePlacementMove node pg die chan) s = .next ((s.freeFrameNow old).setService key none))
         ∧ (Store.find s.mod.service key = none → s.node node = some n → s.pageOf node pg = some q → q.frame = some old → s.partOfVf n.vf = some p →
           die < 4 → chan < 24 → (s.part p).chans.getLsbD chan = true → s.maps.isHost node = false →
           s.pageTenured node pg = false → ∀ new s2 k, s.maps.frameOn die chan = some new →
           s.movePage node pg q old new = (s2, k) → let moving : Service :=
             { call := { tid := 65536, callw := 0, args := [] }, code := 0x40, args := [], next := 0, moved := 1, shoot := some (k, old) }
           exec (.pagePlacementMove node pg die chan) s = .next (s2.setService key (some moving)))))
  ∧ (∀ (s : State) (vf : Nat), vf < 256 →
       let armed (p : Nat) : State := { s with parts := Store.put s.parts p { s.part p with stop := .armed (s.cycle + 4096) } }
       let clear (s2 : State) : State := { s2 with mod := { s2.mod with host := { s2.mod.host with
         queues := s2.mod.host.queues.filter (fun q => decide (q.1 / 4096 ≠ vf)), turn := s2.mod.host.turn.filter (fun q => decide (q.1 / 4 ≠ vf))
         entries := s2.mod.host.entries.filter (fun x => decide (x.1 / 64 ≠ vf)), masked := s2.mod.host.masked.filter (fun k => decide (k ≠ vf))
         unmasked := s2.mod.host.unmasked.filter (fun k => decide (k / 64 ≠ vf))
         pending := s2.mod.host.pending.filter (fun k => decide (k / 64 ≠ vf)) } } }
       let under (u : State) (m : Store Bool) : State := { u with mod := { u.mod with resets := m } }
       let flr := (Store.find s.mod.resets vf).getD false
       let saving (p : Nat) : Prop := ∃ t ∈ s.threads, t.2.waits.contains (.stop p) = true
       (∀ p, s.partOfVf vf = some p →
         (saving p → exec (.functionLevelReset vf) s = .next (under s (Store.put s.mod.resets vf true)))
         ∧ (¬ saving p → (s.part p).stop = .none →
           exec (.functionLevelReset vf) s = .next (under (armed p) (Store.put s.mod.resets vf true))
           ∧ exec (.uncorrectableError 4 vf) s = .next (under (armed p) (Store.put s.mod.resets vf flr)))
         ∧ ((∃ c, (s.part p).stop = .armed c) →
           exec (.functionLevelReset vf) s = .next (under s (Store.put s.mod.resets vf true))))
       ∧ ((s.partOfVf vf = none ∨ ∃ p c t, s.partOfVf vf = some p ∧ ¬ saving p ∧ (s.part p).stop = .stopped c t) →
         let s2 := (s.resetVf vf).1
         exec (.functionLevelReset vf) s = .next (under (clear s2) (Store.del s2.mod.resets vf))
         ∧ exec (.uncorrectableError 4 vf) s = .next (if flr then under (clear s2) (Store.del s2.mod.resets vf) else under s2 (Store.del s2.mod.resets vf)))
       ∧ (let s2 := (s.resetVf vf).1
         (∀ l ∈ s2.launches, l.2.vf ≠ vf)
         ∧ (∀ q ∈ s2.mod.host.queues, q.1 / 4096 = vf → q.2.head = q.2.tail ∧ q.2.state = 0 ∧ q.2.err = 0)
         ∧ Store.find s2.mod.link.own vf = some ((Store.find s.mod.link.own vf).getD 0 + 1)
         ∧ ∀ l ∈ s.collectives vf, ∀ h ∈ s.peersOf vf l, ∃ m ∈ s2.mod.link.outbox, m.1 = h ∧ m.2.vf = vf ∧ m.2.body = .abort l
             ∧ m.2.reset = (Store.find s.mod.link.own vf).getD 0 + 1)
       ∧ (∀ caller s1 x, s.serviceOf caller 0x43 = some (s1, x) →
         (256 ≤ (x.arg 0).toNat → exec (.resetvf caller) s = .next (s1.endService x 1 0))
         ∧ ((x.arg 0).toNat = vf →
           (∀ s2, s1.resetDue vf = (s2, false) → exec (.resetvf caller) s = .next (s2.setService caller (some x)))
           ∧ (∀ s2 s3 n, s1.resetDue vf = (s2, true) → s2.resetVf vf = (s3, n) → exec (.resetvf caller) s = .next (s3.endService x 0 n))))
       ∧ exec .pf0Flr s = .next s)

/-! ## Network, start-up, power and errors -/

/-- (a) R16, R316, R337, R338: once in two core cycles every flit of the Ring Road leaves through one of its router's four ports
or waits; alone it takes a hop that brings it nearer, columns first, and at its destination it is held for its packet, which
is delivered once when its last flit has come; at a router that the flush token of its partition has visited, whose save
buffer has room, it is absorbed there instead, and the tour has absorbed something. One still to be injected stays while a flit
of its partition that a stop absorbed waits for that. The golden token waits for
the flit it serves, makes a saturated flit at its router golden, or goes to the next router of its order.
(b) R277, R339, R340, R342 to R344: a lane fault takes a port one row down its table and a successful retrain, tried every
100 ms, at least one row up; training learns the peer's incarnation, a changed one being a loss; a lost module's outstanding
accesses fail with 0x06 and its label, but for one that never traps, which answers its own word, and a PCLOSE that awaits it,
which answers 2, and a job's sector that stands there faults with 0x06; a packet is dropped and counted for a wrong incarnation, dropped for an old reset number, and else performed
once, when no tenure and no unpublished data makes it wait; an abort token ends an ordered contribution to another module with
STATUS code 4.
Log entries 35, 41, 43, 51, 52, 53: what the model chose here. -/
def Obligations.Fabrics : Prop :=
  (∀ (s : State), let n := s.mod.net
       let now := s.cycle / 2 + 1
       let with_ (m : NetState) : State := { s with mod := { s.mod with net := m } }
       ((n.hopAt = now ∨ n.flits = []) → exec .flitHop s = .next s)
       ∧ (n.hopAt ≠ now → n.flits ≠ [] → completes .flitHop s (fun u =>
         u = { s with parts := u.parts, mod := { s.mod with net := u.mod.net, meters := u.mod.meters } } ∧ u.mod.net.hopAt = now
         ∧ (∀ p, u.part p = s.part p ∨ ∃ c t r ab, (s.part p).stop = .flushing c t r ab ∧ u.part p = { s.part p with stop := .flushing c t r true })
         ∧ (let waits (f : Flit) : Prop := f ∈ n.flits ∧ f.age = 0 ∧ f.again = false
               ∧ ∃ g ∈ n.flits, g.again = true ∧ g.age = 0 ∧ g.part = f.part
           (∀ f, waits f → f ∈ u.mod.net.flits)
           ∧ ∀ g ∈ u.mod.net.flits, waits g ∨ g.at_ ≠ g.dst ∧ ∃ f ∈ n.flits, ¬ waits f
             ∧ (g = f ∨ ∃ p, p < 4 ∧ g = { f with at_ := routerStep f.at_ p, age := Nat.min 255 (f.age + 1) }))))
       ∧ (∀ f, n.flits = [f] → n.hopAt ≠ now → f.at_ < 1024 → f.dst < 1024 → f.at_ ≠ f.dst → completes .flitHop s (fun u =>
         ∃ r, hops r f.dst + 1 = hops f.at_ f.dst ∧ (r / 32 = f.at_ / 32 ∨ f.at_ % 32 = f.dst % 32)
           ∧ (let g := { f with at_ := r, age := Nat.min 255 (f.age + 1) }
             let buf := (Store.find n.saved r).getD []
             let absorbed := s.visited f.part r = true ∧ buf.length < 32
             (absorbed → u.mod.net.flits = [] ∧ u.mod.net.packets = n.packets ∧ u.mod.net.saved = Store.put n.saved r (buf ++ [g])
               ∧ ∀ c t k ab, (s.part f.part).stop = .flushing c t k ab → (u.part f.part).stop = .flushing c t k true)
             ∧ (¬ absorbed → r ≠ f.dst → u.mod.net.flits = [g] ∧ u.mod.net.packets = n.packets ∧ u.mod.net.saved = n.saved)
             ∧ (¬ absorbed → r = f.dst → u.mod.net.flits = [] ∧ u.mod.net.saved = n.saved
               ∧ u.mod.net.packets = Store.upd n.packets f.packet (·.take f.seq)))))
       ∧ (n.tokAt = now → exec .goldenTokenStep s = .next s)
       ∧ (n.tokAt ≠ now → let n0 := { n with tokAt := now }
         (∀ k q, n.golden = some (k, q) → exec .goldenTokenStep s
           = .next (with_ (if n.flits.any (fun f => decide (f.packet = k) && decide (f.seq = q)) then n0 else { n0 with golden := none })))
         ∧ (n.golden = none → (∀ f ∈ n.flits, f.at_ = serpentine n.token → f.age ≠ 255) →
             exec .goldenTokenStep s = .next (with_ { n0 with token := (n.token + 1) % 1024 }))
         ∧ (∀ f, n.golden = none → n.flits = [f] → f.at_ = serpentine n.token → f.age = 255 →
             exec .goldenTokenStep s = .next (with_ { n0 with golden := some (f.packet, f.seq), flits := [{ f with golden := true }] })))
       ∧ (∀ k p, Store.find n.packets k = some p →
         (p.got.length < p.total → exec (.packetReassembly k) s = .next s)
         ∧ (p.total ≤ p.got.length → exec (.packetReassembly k) s = .next (with_ { n with packets := Store.del n.packets k }))))
  ∧ (∀ (s : State), let l := s.mod.link
       let link (m : LinkState) : State := { s with mod := { s.mod with link := m } }
       let port (p : Nat) (x : Port) : State := link { l with ports := Store.put l.ports p x }
       (∀ p, p < 16 → let x := s.port p
         exec (.laneFault p) s = .next (if 4 ≤ x.state then s else port p
           { x with state := x.state + 1, tried := if x.state = 0 then s.time else x.tried })
         ∧ ∀ good, exec (.retrainAttempt p good) s = .next (if x.state = 0 ∨ s.time < x.tried + 100000000 then s else port p
           { x with state := if good then x.state - 1 - Config.retrainRows p s.time else x.state, tried := s.time }))
       ∧ (∀ p (peer inc : BitVec 16), p < 16 → peer ≠ 0 → inc ≠ 0 → (s.port p).state < 4 → let m := peer.toNat
         let known := Store.find l.incs m
         let trained (s1 : State) (changed : Bool) : State :=
           let k := s1.mod.link
           let k1 : LinkState :=
             { k with incs := Store.put k.incs m inc.toNat, lost := k.lost.filter (fun x => decide (x ≠ m))
                      resets := if changed then k.resets.filter (fun x => decide (x.1 / 256 ≠ m)) else k.resets
                      ports := Store.put k.ports p { s1.port p with peer := peer } }
           { s1 with mod := { s1.mod with link := k1 } }
         (known = none ∨ known = some inc.toNat → exec (.linkTraining p peer inc) s = .next (trained s false))
         ∧ (∀ i, known = some i → i ≠ inc.toNat → exec (.linkTraining p peer inc) s = .next (trained (s.loseModule m) true)))
       ∧ (∀ peer : BitVec 16, peer ≠ 0 → peer.toNat ≠ s.self → completes (.moduleLost peer) s (fun u =>
         u = { s with accs := u.accs, threads := u.threads, spad := u.spad, dram := u.dram, dramPois := u.dramPois, maps := u.maps
                      eng := u.eng, sync := u.sync, launches := u.launches, frozen := u.frozen
                      mod := { s.mod with link := u.mod.link, meters := u.mod.meters } }
         ∧ peer.toNat ∈ u.mod.link.lost ∧ (∀ x, x ∈ u.mod.link.asks ↔ x ∈ l.asks ∧ x.2.peer ≠ peer.toNat)
         ∧ (∀ k a c y, l.asks = [(k, a)] → a.peer = peer.toNat → a.op = .spill c → Store.find s.sync.ctxs a.id = some y →
             Store.find u.sync.ctxs a.id = some (y.1, .refused 0x06 a.label))
         ∧ (∀ k a lab off, Store.find s.accs k = some a → a.place = .remote peer.toNat lab off → (a.state = .sent ∨ a.state = .held) →
             ((∀ f w, a.op ≠ .far f (some w)) → Store.find u.accs k = some { a with state := .failed 0x06 lab })
             ∧ ∀ f w, a.op = .far f (some w) → Store.find u.accs k = some { a with state := .performed (some w) 0 })
         ∧ (∀ k a i w lab m st, Store.find s.accs k = some a → (∃ r id o c, a.place = .glob r id o c) → a.state = .waiting → a.shoot = some i →
             (i, w) ∈ l.awaits → w.peer = peer.toNat → w.op = .close lab m st →
             Store.find u.accs k = some { a with state := .performed (some 2) 0, shoot := none })
         ∧ (∀ id j, s.eng.jobs = [(id, j)] → j.away = true → j.state = .started → s.jobHome j = some peer.toNat → ∃ j1, u.job id = some j1
             ∧ j1.state = .parked 0x06 j.labelOf (s.runsFor j.tid) ∧ j1.away = false ∧ j1.op = j.op)
         ∧ ((∀ x ∈ s.eng.jobs, x.2.away = false) → (∀ x ∈ l.asks, x.2.peer ≠ peer.toNat) → u.threads = s.threads ∧ u.spad = s.spad
           ∧ u.mod.meters = s.mod.meters ∧ u.sync = s.sync ∧ u.launches = s.launches ∧ u.frozen = s.frozen
           ∧ ∀ k a, Store.find s.accs k = some a → (∀ lab off, a.place ≠ .remote peer.toNat lab off) →
             (∀ i w, a.shoot = some i → (i, w) ∈ l.awaits → w.peer ≠ peer.toNat ∧ w.set ∉ s.pairedWith peer.toNat) →
             Store.find u.accs k = some a)))
       ∧ (∀ p k x, Store.find l.inbox k = some x → p < 16 → (s.port p).state < 4 →
         let l1 := { l with inbox := Store.del l.inbox k }
         let key := x.src.toNat * 256 + x.vf
         let y := s.port p
         (Store.find l.incs x.src.toNat ≠ some x.inc.toNat → exec (.scaleupPacketReceive p k) s
           = .next (((link l1).dismiss (guestTid k)).setPort p { y with stale := y.stale + 1 }))
         ∧ (Store.find l.incs x.src.toNat = some x.inc.toNat →
           (x.reset < (Store.find l.resets key).getD 0 → exec (.scaleupPacketReceive p k) s = .next ((link l1).dismiss (guestTid k)))
           ∧ ((Store.find l.resets key).getD 0 ≤ x.reset → let s2 := link { l1 with resets := Store.put l.resets key x.reset }
             (s2.receive k x = none → exec (.scaleupPacketReceive p k) s = .next s)
             ∧ (∀ u, s2.receive k x = some u → exec (.scaleupPacketReceive p k) s = .next u)
             ∧ (∀ req a r, x.body = .hwDone req r → Store.find l.asks req = some a → a.peer = x.src.toNat →
                 (∀ off ext ws, a.op = .line off → r = .line ext ws → (s2.receive k x).map (·.icache) = some (fillLine s.icache
                   { core := coreOf a.tid, vf := s.mapOf a.tid, label := a.label, line := off / 64, words := ws, node := 0, far := some ext }))
                 ∧ ∀ c y, a.op = .spill c → r = .spilled → Store.find s.sync.ctxs a.id = some y →
                   ((s2.receive k x).bind (fun u => Store.find u.sync.ctxs a.id)) = some (y.1, .accepted))
             ∧ (∀ req who lab op, x.body = .hw req who lab op → ∃ u r, s2.receive k x = some u
                 ∧ (u.mod.link.outbox.getLast?.map (fun y => (y.1, y.2.body))) = some (x.src.toNat, .hwDone req r))
             ∧ ∀ req a v fl lab off, x.body = .value req v fl → Store.find s.accs req = some a → a.place = .remote x.src.toNat lab off → a.state = .sent →
                 s2.receive k x = some { s2.chargeFar a.tid with accs := Store.upd s.accs req (fun a => { a with state := .performed v fl }) })))
       ∧ (∀ id j, s.job id = some j → j.contribution ≠ none → s.jobHome j ≠ none → j.state = .started → completes (.collectiveAbort id) s (fun u =>
         let threads (more : Why → Bool) : Prop := ∀ t, u.thread t = { s.thread t with
           waits := (s.thread t).waits.filter (fun w => decide (w ≠ .dtwait id) && decide (w ≠ .matrix id) && more w) }
         u = { s with threads := u.threads, spad := u.spad, accs := u.accs, eng := { s.eng with jobs := u.eng.jobs }
                      mod := { s.mod with meters := u.mod.meters } }
         ∧ Store.find u.eng.jobs id = none ∧ (∀ k, k ≠ id → Store.find u.eng.jobs k = Store.find s.eng.jobs k)
         ∧ (j.sync = 0 → u.spad = s.spad ∧ u.accs = s.accs ∧ threads (fun _ => true))
         ∧ ∀ key, j.sync ≠ 0 → s.localAddr j.tid j.sync = .ok key →
           (s.tagged key = false → u.spad = s.spad ∧ u.accs = s.accs ∧ threads (fun _ => true))
           ∧ (s.tagged key = true → let gen := (s.spad.readLe (key + 8) 4 + 1) % 2 ^ 32
             u.spad.readLe (key + 12) 4 = 4 ∧ u.spad.readLe (key + 8) 4 = gen
             ∧ (∀ b, b < key + 8 ∨ key + 16 ≤ b → u.spad.read b = s.spad.read b) ∧ threads (fun w => !w.passed key gen)
             ∧ ∀ k a, Store.find s.accs k = some a → (a.passed key gen = true → Store.find u.accs k = some { a with state := .performed none 0 })
               ∧ (a.passed key gen = false → Store.find u.accs k = some a)))))

/-- (a) R353 to R356, R358: the first PTP lock sets cr.time, which never goes back, and later corrections are slewed; a start whose
root image, service firmware and hypervisor verify leaves, once complete, the reset state but for what it keeps (host memory, a
warm start the ports' settings and the keys too), under the next incarnation, with the failure counters at zero; one whose
images do not fails at step 3; a failed one stands still and is counted, three failed cold starts ending in safe mode, which a
verified root image ends; a warm start that cannot be made is a cold one, and the start that follows a freeze is warm; standby
loss forgets what the always-on domain holds.
(b) R357 to R361: a running module's report for a nonce holds its number, incarnation, versions and image digests and is signed
with the identity key over its first 288 bytes; freeze; the read-out of a frozen one, of whose components the later five
need a signed command; a poisoned register, unit, page or L1 unit, a freeze for root state; a die's count of corrected errors;
a power report, which raises the supply and the power event as each begins; either that persists for 10 ms freezes the module.
Log entries 50, 54, 55, 56, 57: what the model chose here. -/
def Obligations.StartsAndManagement : Prop :=
  (∀ (s : State), let b := s.mod.boot
       let boot (x : BootState) : State := { s with mod := { s.mod with boot := x } }
       let inc : BitVec 16 := if b.inc = 0xFFFF then 1 else b.inc + 1
       let accepted (image : Nat) : Prop := image % 8 = 7 ∧ b.minVer ≤ image / 8
       let rest := accepted b.firmware.service ∧ accepted b.firmware.hyp
       let good := accepted b.firmware.root ∧ rest
       let started (cold : Bool) (u : State) : Prop :=
         u.threads = [] ∧ u.spad = [] ∧ u.dram = s.dram.filter (fun c => decide (2 ^ 41 ≤ c.1)) ∧ u.eng = EngState.empty ∧ u.maps.nodes = []
         ∧ u.maps.roots = [] ∧ u.parts = [] ∧ u.launches = [] ∧ u.accs = [] ∧ u.tens = [] ∧ u.cycle = 0 ∧ u.frozen = false ∧ u.agenda = s.agenda
         ∧ u.self = (if b.number = 0 then s.self else b.number.toNat)
         ∧ u.mod.boot.inc = inc ∧ u.mod.boot.warmFail = 0 ∧ u.mod.boot.coldFail = 0 ∧ u.mod.boot.safe = false ∧ u.mod.boot.up = true
         ∧ (cold = true → u.time = 0 ∧ u.mod.boot.locked = false ∧ u.mod.keys.dseq = [] ∧ u.mod.keys.identity = s.mod.keys.identity ∧ u.mod.link.ports = [])
         ∧ (cold = false → u.time = s.time ∧ u.mod.boot.locked = b.locked ∧ u.mod.keys = s.mod.keys
           ∧ u.mod.link.ports = s.mod.link.ports.map (fun p => (p.1, { p.2 with peer := 0 })))
       let failed (b : BootState) (cold : Bool) (n : BitVec 16) : State :=
         if cold then { boot { b with inc := n, coldFail := b.coldFail + 1, safe := decide (3 ≤ b.coldFail + 1), retained := false, starting := none, up := false } with frozen := true }
         else { boot { b with inc := n, warmFail := b.warmFail + 1, starting := none, up := false } with frozen := true }
       (∀ ns, exec (.ptpLock ns) s = .next (if b.locked then s else { boot { b with locked := true, slew := 0 } with time := Nat.max s.time ns }))
       ∧ (∀ ns, exec (.timebaseCorrection ns) s = .next (if b.locked then boot { b with slew := ns } else s))
       ∧ (b.safe = false → b.starting = none → let warm := b.retained = true ∧ b.warmFail < 2
         let frozen := s.frozen = true ∧ warm
         (good → (¬ frozen → completes (.coldStart 0) s (started true)) ∧ (frozen → completes (.coldStart 0) s (started false))
           ∧ (warm → completes (.warmStart 0) s (started false)) ∧ (¬ warm → completes (.warmStart 0) s (started true)))
         ∧ ∀ k, k < 8 → (good → k ≠ 0) → let n := if k = 1 ∨ k = 2 then b.inc else inc
           (¬ frozen → exec (.coldStart k) s = .next (failed b true n)) ∧ (frozen → exec (.coldStart k) s = .next (failed b false n))
           ∧ (warm → exec (.warmStart k) s = .next (failed b false n)) ∧ (¬ warm → exec (.warmStart k) s = .next (failed b true n)))
       ∧ ((b.safe = true ∨ b.starting ≠ none) → ∀ k, exec (.coldStart k) s = .next s ∧ exec (.warmStart k) s = .next s)
       ∧ (b.starting = none → exec .startTimeout s = .next s)
       ∧ (∀ cold t, b.starting = some (cold, t) → exec .startTimeout s = .next (failed b cold b.inc) ∧ exec .freezeCommand s = .next (failed b cold b.inc))
       ∧ (∀ image, let taken := b.safe = true ∧ accepted image
         let b1 : BootState := { b with firmware := { b.firmware with root := image }, failsAt := 0 }
         (taken → b.failsAt = 0 → rest → completes (.recoveryImageLoad image) s (fun u => started true u ∧ u.mod.boot.firmware.root = image))
         ∧ (taken → b.failsAt < 8 → (rest → b.failsAt ≠ 0) → exec (.recoveryImageLoad image) s
             = .next (failed b1 true (if b.failsAt = 1 ∨ b.failsAt = 2 then b.inc else inc)))
         ∧ (¬ taken → exec (.recoveryImageLoad image) s = .next s))
       ∧ (∀ seed, exec (.standbyPowerLoss seed) s = .next { boot { b with
           inc := seed, warmFail := 0, coldFail := 0, safe := false, retained := false, starting := none, up := false } with frozen := true }))
  ∧ (∀ (s : State), let b := s.mod.boot
       let boot (x : BootState) : State := { s with mod := { s.mod with boot := x } }
       (∀ nonce, s.frozen = false → b.up = true → let r : Report :=
           { nonce := nonce, number := s.self, inc := b.inc, minVer := b.minVer, warm := b.warm, root := Config.imageDigest b.firmware.root
             hyp := Config.imageDigest b.firmware.hyp, service := Config.imageDigest b.firmware.service, sign := 0 }
         exec (.attestationRequest nonce) s = .next (boot { b with report := some { r with sign := Config.falconSign s.mod.keys.identity r.bytes } })
         ∧ r.bytes.length = 288 ∧ r.bytes.take 32 = leBytes 32 nonce.toNat ∧ (r.bytes.drop 34).take 2 = leBytes 2 b.inc.toNat
         ∧ (r.bytes.drop 96).take 64 = leBytes 64 r.root.toNat ∧ r.bytes.drop 224 = leBytes 64 r.service.toNat)
       ∧ (∀ nonce, s.frozen = true ∨ b.up = false → exec (.attestationRequest nonce) s = .next s)
       ∧ (b.starting = none → exec .freezeCommand s = .next { s with frozen := true } ∧ exec (.uncorrectableError 5 0) s = .next { s with frozen := true })
       ∧ (∀ c i signed, (s.frozen = false ∨ (5 ≤ c ∧ signed = false)) → exec (.readout c i signed) s = .next s)
       ∧ (∀ c i signed, s.frozen = true → (c < 5 ∨ signed = true) →
         (∀ d, s.dump c i = some d → exec (.readout c i signed) s = .next (boot { b with readout := some (c, i, d) }))
         ∧ (10 ≤ c → exec (.readout c i signed) s = .next s))
       ∧ (∀ tid r, 1 ≤ r → r < 32 → completes (.uncorrectableError 0 (tid * 32 + r)) s (fun u => onlyThread s u tid ∧ sameBytes s u
           ∧ u.thread tid = { s.thread tid with pois := (u.thread tid).pois }
           ∧ ∀ k, k < 32 → ((u.thread tid).pois.getLsbD k = true ↔ k = r ∨ (s.thread tid).pois.getLsbD k = true)))
       ∧ (∀ i, completes (.uncorrectableError 1 i) s (fun u => u = { s with spadPois := u.spadPois } ∧ ∀ k, k ∈ u.spadPois ↔ k = i ∨ k ∈ s.spadPois))
       ∧ (∀ i, completes (.uncorrectableError 2 i) s (fun u => u = { s with eng := { s.eng with bPois := u.eng.bPois } } ∧ ∀ k, k ∈ u.eng.bPois ↔ k = i ∨ k ∈ s.eng.bPois))
       ∧ (∀ i, completes (.uncorrectableError 3 i) s (fun u => u = { s with dramPois := u.dramPois } ∧ ∀ k, k ∈ u.dramPois ↔ k = i ∨ k ∈ s.dramPois))
       ∧ (∀ id page f, page < 2 ^ 25 → s.pageOf id page = some (.present f) →
           exec (.uncorrectableError 6 (id * 2 ^ 25 + page)) s = .next (s.setPage id page (.poisoned false f)))
       ∧ (∀ k i x, i < 2 ^ 34 → Store.find s.tens k = some x → completes (.uncorrectableError 7 (k * 2 ^ 34 + i)) s (fun u =>
           u = { s with tens := u.tens } ∧ ∃ y, Store.find u.tens k = some y ∧ y = { x with pois := y.pois } ∧ ∀ j, j ∈ y.pois ↔ j = i ∨ j ∈ x.pois))
       ∧ (∀ die, die < 4 → exec (.correctedError die) s = .next (boot { b with errors := Store.put b.errors die ((Store.find b.errors die).getD 0 + 1) }))
       ∧ (∀ mv mw held, let supply := 420 ≤ mv ∧ held = false
         let power := 3200000 < mw
         let e := b.events
         exec (.powerReport mv mw held) s = .next (boot { b with
           power := some { dies := b.sensors, core := mv, total := mw, held := held }
           events := { supplyFor := if supply then e.supplyFor + 1 else 0, powerFor := if power then e.powerFor + 1 else 0
                       supplyRaised := e.supplyRaised + (if supply ∧ e.supplyFor = 0 then 1 else 0)
                       powerRaised := e.powerRaised + (if power ∧ e.powerFor = 0 then 1 else 0) } }))
       ∧ (b.events.supplyFor ≤ 10 → b.events.powerFor ≤ 10 → exec .powerExcursion s = .next s)
       ∧ ((10 < b.events.supplyFor ∨ 10 < b.events.powerFor) → b.starting = none → exec .powerExcursion s = .next { s with frozen := true }))

/-- (a) R329 to R331: every 1,024 cycles each virtual function's charges are applied: the time units and the whole nJ of its
energy are counted as spent, what was accrued is cleared, and its gate closes when either balance, so reduced, is not above
zero; at each 100,000 ns of cr.time the charges are applied first and then, per bound function, the spent counts return to
zero and the gate opens, unless a balance so refilled is still not above zero.
(b) R14, R326, R329: a part of 64 bytes that work reads or writes at its home goes through the last-level cache. A hit, in any
way, is a last-level access; a miss fills a way of the partition's WAYS and is one access and an LPDDR6 transfer, with another
for the line that it puts out where that has been written; WAYS 0 bypasses the caches. A slice whose B bank changes its size is
written back and invalidated first. (The lines, their places and the sum are the model's choice, log entry 71.)
Log entries 35, 63, 71: what the model chose here. -/
def Obligations.Budgets : Prop :=
  (∀ (s : State),
       (s.cycle % 1024 ≠ 0 → exec .chargeApplication s = .next s)
       ∧ (s.cycle % 1024 = 0 → exec .chargeApplication s = .next s.applyCharges)
       ∧ (s.time / 100000 ≤ s.mod.period → exec .periodBoundary s = .next s)
       ∧ (s.mod.period < s.time / 100000 → let k := s.time / 100000
         completes .periodBoundary s (fun u => u.mod.period = k ∧ u.cycle = s.cycle ∧ u.time = s.time ∧ u.threads = s.threads ∧ u.spad = s.spad
           ∧ u = { ((List.range 256).foldl (fun x vf => x.boundaryOne vf k) s.applyCharges) with mod := u.mod }))
       ∧ (s.meterNode = none → s.applyCharges = s)
       ∧ (∀ vf, s.meterNode ≠ none → let m := s.meter vf
         let frac := s.meterRead vf 48 8 + m.eAcc + (if m.trips = 0 then 0 else Config.homeFj s.cycle vf m.trips)
         let tbal := signedField (s.meterRead vf 8 8) 64 - m.tAcc
         let ebal := signedField (s.meterRead vf 16 8) 64 - ((frac / 1000000 : Nat) : Int)
         let gate := s.partOfVf vf ≠ none ∧ (tbal ≤ 0 ∨ ebal ≤ 0)
         let u := s.applyOne vf
         (u.meter vf).tAcc = 0 ∧ (u.meter vf).eAcc = 0 ∧ (u.meter vf).trips = 0 ∧ (u.meter vf).tSpent = m.tSpent + m.tAcc
           ∧ (u.meter vf).eSpent = m.eSpent + frac / 1000000 ∧ ((u.meter vf).gated = true ↔ gate ∨ m.gated = true)
           ∧ (∀ k, k ≠ vf → u.meter k = s.meter k) ∧ u.threads = s.threads ∧ u.spad = s.spad)
       ∧ (∀ vf k, s.partOfVf vf ≠ none → let u := s.boundaryOne vf k
         (u.meter vf).tSpent = 0 ∧ (u.meter vf).eSpent = 0
         ∧ (let ta : Int := s.meterRead vf 24 4
           let ea : Int := s.meterRead vf 28 4
           let still := decide (ta = 0) && decide (ea = 0)
           let poor := refill still (signedField (s.meterRead vf 8 8) 64) ta ≤ 0 ∨ refill still (signedField (s.meterRead vf 16 8) 64) ea ≤ 0
           (u.meter vf).gated = true ↔ s.meterNode ≠ none ∧ poor) ∧ u.threads = s.threads ∧ u.spad = s.spad))
  ∧ (∀ (c : Llc) (cycle unit : Nat) (mask : BitVec 16) (write : Bool), let out := (c.access cycle mask unit write).1
       let fj := (c.access cycle mask unit write).2
       let hit := ∃ x ∈ c.lines, x.unit = unit
       out.bbank = c.bbank
       ∧ (mask = 0 → out = c ∧ fj = 1900000)
       ∧ (mask ≠ 0 → hit → fj = 20000 ∧ (∀ x ∈ c.lines, x.unit ≠ unit → x ∈ out.lines)
         ∧ (∀ x ∈ c.lines, x.unit = unit → { x with dirty := x.dirty || write } ∈ out.lines)
         ∧ ∀ y ∈ out.lines, ∃ x ∈ c.lines, y = x ∨ x.unit = unit ∧ y = { x with dirty := x.dirty || write })
       ∧ (mask ≠ 0 → ¬ hit → ∃ x, x ∈ out.lines ∧ x.unit = unit ∧ x.dirty = write ∧ x.way < 16 ∧ mask.getLsbD x.way = true
         ∧ (let same (y : LlcLine) : Prop := y.tile = x.tile ∧ y.set = x.set ∧ y.way = x.way
           (∀ y, y ∈ out.lines ↔ y = x ∨ y ∈ c.lines ∧ ¬ same y)
           ∧ ((∃ y ∈ c.lines, same y ∧ y.dirty = true) → fj = 3820000) ∧ ((∀ y ∈ c.lines, same y → y.dirty = false) → fj = 1920000)))
       ∧ (∀ tile size, let old := (Store.find c.bbank tile).getD 0
         let r := c.resize tile size
         (old = size → r = (c, 0))
         ∧ (old ≠ size → (∀ x, x ∈ r.1.lines ↔ x ∈ c.lines ∧ x.tile ≠ tile) ∧ (Store.find r.1.bbank tile).getD 0 = size
           ∧ ∀ k, k ≠ tile → Store.find r.1.bbank k = Store.find c.bbank k)))

/-! ## Issue, the step, decoding and the whole machine -/

/-- R22 to R26, R110: a cycle goes to its owner slot when that thread is ready, else on a tenant core to the first ready
thread, in slot order after the owner, of the owner's launch whose own cycle lies 1 to 8 cycles back; none else issues. An
issue ends the thread's waits. A missing line arrives from code memory, or its fetch traps at the thread's pc; one that another module homes is asked for
there.
Log entries 25, 35, 41, 67: what the model chose here. -/
def Obligations.IssueCycles : Prop :=
  ∀ (s : State),
    (∀ core, 3084 ≤ core → exec (.issueCycle core) s = .next s)
    ∧ (∀ core, core < 3084 → let s1 := { (if core ≤ s.lastCore then s.nextCycle else s) with lastCore := core, iss := Issue.idle }
      (s1.issuer core = none → exec (.issueCycle core) s = .next s1)
      ∧ ∀ tid, s1.issuer core = some tid → completes (.issueCycle core) s (fun u =>
        u = { s1 with threads := u.threads, cur := tid, iss := u.iss } ∧ u.iss = { Issue.idle with who := some tid }
        ∧ u.thread tid = { s1.thread tid with last := some s1.cycle, waits := [] } ∧ ∀ k, k ≠ tid → u.thread k = s1.thread k))
    ∧ (s.nextCycle.cycle = s.cycle + 1 ∧ s.time ≤ s.nextCycle.time ∧ s.nextCycle.time ≤ s.time + 2 ∧ s.nextCycle.threads = s.threads)
    ∧ (∀ tid c, s.ready tid = true → (s.thread tid).last = some c → c + 8 ≤ s.cycle)
    ∧ (∀ tid, s.ready tid = true → s.scheduled tid = true ∧ s.missing tid = none ∧ ∀ w ∈ (s.thread tid).waits, s.waitOver tid w = true)
    ∧ (∀ core, let o := s.cycle % 16
      let lent (e : Nat) : Prop := core < 3072 ∧ 8 ≤ e ∧ e < 16 ∧ s.launchOf (core * 16 + o) ≠ none
        ∧ s.launchOf (core * 16 + (o + e) % 16) = s.launchOf (core * 16 + o) ∧ s.ready (core * 16 + (o + e) % 16) = true
      (s.ready (core * 16 + o) = true → s.issuer core = some (core * 16 + o))
      ∧ (s.ready (core * 16 + o) = false → (∀ e, lent e → (∀ e', e' < e → ¬ lent e') → s.issuer core = some (core * 16 + (o + e) % 16))
        ∧ ((∀ e, ¬ lent e) → s.issuer core = none)))
    ∧ (∀ tid, (s.missing tid = none ∨ s.scheduled tid = false ∨ (s.thread tid).waits.all (s.waitOver tid) = false) →
        exec (.instructionLineFill tid) s = .next s)
    ∧ (∀ tid off h, s.missing tid = some off → s.scheduled tid = true → (s.thread tid).waits.all (s.waitOver tid) = true →
        s.farHome (s.mapOf tid) (s.thread tid).code = some h → let code := (s.thread tid).code
      (h ∈ s.mod.link.lost → exec (.instructionLineFill tid) s = .next ((s.updThread tid (fun t => { t with waits := [] })).trapThread
        tid 0x06 code (s.thread tid).pc (s.thread tid).left))
      ∧ (h ∉ s.mod.link.lost → (∀ a ∈ s.mod.link.asks, ¬ (a.2.tid = tid ∧ a.2.label = code ∧ a.2.op = .line off)) →
        completes (.instructionLineFill tid) s (fun u => s.asksFor u h tid 0 code (.line off))))
    ∧ (∀ tid off s1 r, s.missing tid = some off → s.scheduled tid = true → (s.thread tid).waits.all (s.waitOver tid) = true →
        s.farHome (s.mapOf tid) (s.thread tid).code = none →
        s.translate tid .fetch (s.thread tid).code (word (off / 8 * 8)) 8 = (s1, r) →
      let awake (x : State) : State := x.updThread tid (fun t => { t with waits := [] })
      (∀ c v, r = .error (c, v) → exec (.instructionLineFill tid) s
        = .next ((awake s1).trapThread tid c v (s.thread tid).pc (s.thread tid).left))
      ∧ ∀ tg, r = .ok tg → let s2 := s1.chargeHome tid (s1.bytesOf tg (off / 64 * 64) 64) false
        let poisoned := (s2.bytesOf tg off 8).any (fun p => s2.homePoisoned p.1 p.2)
        (poisoned = true → exec (.instructionLineFill tid) s = .next ((awake s2).trapThread tid 0x13 (Config.poisonValue (word off))
          (s.thread tid).pc (s.thread tid).left))
        ∧ (poisoned = false → completes (.instructionLineFill tid) s (fun u => u = { s2 with icache := u.icache }
          ∧ (∃ l ∈ u.icache, l.core = coreOf tid ∧ l.vf = s2.mapOf tid ∧ l.label = (s.thread tid).code ∧ l.line = off / 64
              ∧ l.node = tg.node ∧ l.far = none ∧ l.words = (List.range 8).map (fun i =>
                  word (leNat ((s1.bytesOf tg (off / 64 * 64 + 8 * i) 8).map (fun p => s1.homeByte p.1 p.2)))))
          ∧ (∀ x ∈ s2.icache, x.core ≠ coreOf tid → x ∈ u.icache)
          ∧ ((s2.icache.filter (fun x => decide (x.core = coreOf tid))).length ≤ 512 →
              (u.icache.filter (fun x => decide (x.core = coreOf tid))).length ≤ 512))))

/-- R109 to R112, R26, R122, R135, R152, R289, R292, R303 to R305, R359: a step performs the head of the schedule, else the
hardware's first due event, else an issue; a frozen module takes only management events, one whose start is under way the
causes of a freeze too. The bundle of the issuing thread
traps on a pending external trap, then at its header, a debug match, a failed decode check (value: the bundle), waits for an
absent channel register, traps on a poisoned source, and else RUNS ITS DECODED SLOTS: with an empty vector slot the step is
`exec` of the scalar instruction, and with an empty scalar slot `exec` of the vector instruction, on the state whose bundle
has consumed its channel sources, then control moves on, and what the bundle has done is held back while an answer may still
trap it. A trap in a slot, and a wait in which the bundle stands whole, is the bundle's only effect; TRAP and HVC wait for
what their bundle waits for.
Log entries 3, 5, 30, 35, 58: what the model chose here. -/
def Obligations.StepRunsBundle : Prop :=
  ∀ (s : State),
    let shut (i : Instr) : Prop := s.frozen = true ∧ managementEvent i = false ∧ ¬ (s.mod.boot.starting ≠ none ∧ startEvent i = true)
    (∀ i rest, s.agenda = i :: rest → shut i → step s = .fault .frozen)
    ∧ (s.agenda = [] → s.frozen = true → step s = .fault .frozen)
    ∧ (∀ i rest, s.agenda = i :: rest → ¬ shut i → let s0 := { s with agenda := rest }
      (autonomous i = false → step s = .next s0)
      ∧ (autonomous i = true → (∀ c, i ≠ .issueCycle c) → step s = exec i s0)
      ∧ ∀ c, i = .issueCycle c → step s = andThen (exec i s0) (State.afterIssue exec))
    ∧ (s.agenda = [] → s.frozen = false →
      (∀ i, s.dueEvent exec = some i → (∀ c, i ≠ .issueCycle c) → step s = exec i s)
      ∧ (s.dueEvent exec = none → step s = andThen (exec (.issueCycle s.nextCore) s) (State.afterIssue exec)))
    ∧ (s.iss.who = none → s.afterIssue exec = .next s)
    ∧ ∀ who, s.iss.who = some who → let close (u : State) : State := u.endStep who (s.thread who).sys.noMatch
      let clear (x : State) : State := x.updMe (fun t => { t with sys := { t.sys with pend := none } })
      (∀ c v, s.me.sys.pend = some (c, v) → s.afterIssue exec = .next (close ((clear s).trap c v)))
      ∧ (s.me.sys.pend = none →
        (∀ s1, s.enterBlock = (s1, false) → s.afterIssue exec = .next (close s1))
        ∧ ∀ s1, s.enterBlock = (s1, true) → let t := s1.me
          let s2 := (s1.charge (s1.mapOf s1.cur) 5000).updMe (fun t => { t with sys := { t.sys with noMatch := false } })
          (t.debugMatch = true → s.afterIssue exec = .next (close (s2.trap 0x15 t.pc)))
          ∧ (t.debugMatch = false → ∀ w, s2.peekCode s2.cur t.code t.pc.toNat = some w →
            (∀ c, decodeChecks w t.level (roleOf s2.cur) = .error c → s.afterIssue exec = .next (close (s2.trap c w)))
            ∧ ∀ a b0, decodeChecks w t.level (roleOf s2.cur) = .ok (a, b0) → let b := if t.sonly then .vnop else b0
              let src := s2.slotSources a ++ s2.slotSources b
              let used := chanMask src
              let s3 := { s2 with iss := { s2.iss with snap := some s2.me.g } }
              let taken (x : State) : State := x.updMe (fun t => { t with pres := t.pres &&& ~~~ used })
              let usedS := chanMask (s2.slotSources a)
              let fin (u : State) (reg : Option (Reg × Word)) (bytes : List (Nat × Byte)) : State :=
                let h : Held := { used := used, usedV := chanMask (s2.slotSources b) &&& ~~~ usedS, vec := decide (b ≠ .vnop)
                                  sonly := t.sonly, reg := reg, bytes := bytes }
                close ((u.chargeSlots a b).endBundle (taken s3) (decide (a = .eret)) usedS h s2.next)
              (∀ r, s2.me.absent src = some r → s.afterIssue exec = .next (close (s2.stall (.chan r))))
              ∧ (s2.me.absent src = none → (∀ r, s2.me.poisoned src = some r →
                  s.afterIssue exec = .next (close (s2.trap 0x13 (Config.poisonValue (r.setWidth 64)))))
                ∧ (s2.me.poisoned src = none → s2.iss = { Issue.idle with who := some who } →
                  (∀ u, exec a s3 = .next u → u.iss.trapped = true → lateTrap a = false →
                    s.afterIssue exec = .next (close (u.updMe (fun t => { t with restamp := none }))))
                  ∧ (∀ u, exec a s3 = .next u → u.iss.trapped = false ∨ lateTrap a = true → u.standsWhole = true →
                    s.afterIssue exec = .next (close u))
                  ∧ (∀ u, b = .vnop → (∀ d, a ≠ .mts d 7) → exec a s3 = .next u → u.iss.trapped = false ∨ lateTrap a = true →
                    u.standsWhole = false →
                    (∀ v, lateTrap a = false ∨ s2.me.waits = [] → exec a (taken s3) = .next v → s.afterIssue exec = .next (fin v none []))
                    ∧ (lateTrap a = true → s2.me.waits ≠ [] → s.afterIssue exec = .next (fin ((taken s3).awaitVector a) none [])))
                  ∧ (∀ u v d, b = .vnop → a = .mts d 7 → exec a s3 = .next u → u.iss.trapped = false → u.standsWhole = false →
                      let held (x : State) : State := x.updMe (fun t => { t with frm := s3.reg d })
                      exec a (taken (held s3)) = .next v → s.afterIssue exec = .next (close ((v.chargeSlots a b).endBundle (taken (held s3)) false usedS
                        { used := used, usedV := 0, vec := false, sonly := t.sonly, reg := none, bytes := [] } s2.next)))
                  ∧ (∀ u, a = .snop → exec b s3 = .next u → u.iss.trapped = true ∨ u.iss.stalled = true → s.afterIssue exec = .next (close u))
                  ∧ (∀ u v, a = .snop → exec b s3 = .next u → u.iss.trapped = false → u.iss.stalled = false →
                      exec b (taken s3) = .next v → let w := (taken s3).vectorWrites b v
                      s.afterIssue exec = .next (fin v w.1 w.2))))))

/-- Tables 6.14, 6.18, 8.7, 9.9, 10.9, 11.10, 18.9 and 18.10: words written out there decode to the instructions beside
them; an unassigned opcode, an illegal field, a privileged opcode at user level and an engine slot on another role are
refused, in that order of checks. -/
def Obligations.DecodeWords : Prop :=
  decodeScalar 0x04A32000 = .ok (.add 5 3 4)
  ∧ decodeScalar 0x28A59040 = .ok (.movh 5 5 0x9040)
  ∧ decodeScalar 0x30A10000 = .ok (.cmpi .ne 1 1 0)
  ∧ decodeScalar 0x37FFFFFD = .ok (.b 0x3FFFFFD)
  ∧ decodeScalar 0x48A21CA8 = .ok (.ldg 5 2 3 .b32 .acq .die true)
  ∧ decodeScalar 0x54A21C09 = .ok (.amog 5 2 3 .b32 .plain .core .fadd)
  ∧ decodeScalar 0x5CC21FB0 = .ok (.casg 6 2 3 .b64 .acqRel .mod)
  ∧ decodeScalar 0x60000150 = .ok (.fence .rel .sys)
  ∧ decodeScalar 0x94800008 = .ok (.mts 4 8)
  ∧ decodeScalar 0x68A21809 = .ok (.lmov 5 2 3 .redirect)
  ∧ decodeScalar 0x6D220330 = .ok (.tdsc 9 2 .mod)
  ∧ decodeScalar 0x780F2811 = .ok (.swadd 15 5 .tile)
  ∧ decodeScalar 0x80AA0001 = .ok (.cpyqt 5 10)
  ∧ decodeScalar 0x84000003 = .ok .exit
  ∧ decodeScalar 0xD8A20003 = .ok (.qreset 5 2)
  ∧ decodeScalar 0xDCA21800 = .ok (.partxSave 5 2 3)
  ∧ decodeVector 0x04853400 = .ok (.vadd 4 5 6 .f32 (.fixed .rne))
  ∧ decodeVector 0x08853510 = .ok (.vfma 4 5 6 .bf16 .dyn)
  ∧ decodeVector 0x14E84C00 = .ok (.vsel 7 8 9 .f32)
  ∧ decodeVector 0x2CE00104 = .ok (.viota 7 .s32)
  ∧ decodeVector 0x40853611 = .ok (.mma 4 5 6 .q4x .dyn)
  ∧ decodeVector 0x41095404 = .ok (.mdrnOm 8 9 10 .f32 (.fixed .rne))
  ∧ decodeVector 0x44850001 = .ok (.cvjt 4 5)
  ∧ decodeScalar 0xA4000000 = .error .opcode ∧ decodeScalar 0x48A21C20 = .error .scalarField
  ∧ decodeVector 0x34000000 = .error .vectorSlot
  ∧ (∀ role v, decodeChecks ((0xA4000000 : BitVec 32) ++ (v : BitVec 32)) 2 role = .error 0x01)
  ∧ (∀ role v, decodeChecks ((0xCD000126 : BitVec 32) ++ (v : BitVec 32)) 0 role = .error 0x02)
  ∧ decodeChecks 0x0000000034000000 0 0 = .error 0x01
  ∧ decodeChecks 0x0000000044850001 0 0 = .error 0x0B
  ∧ decodeChecks 0x0821FFFF04853400 0 1 = .ok (.addi 1 1 0xFFFF, .vadd 4 5 6 .f32 (.fixed .rne))

/-- R109 to R123: the encoder and the decoder agree. Every well-formed instruction, with every operand at every value,
decodes from its own word in its own slot; and every word that a slot accepts is the word of the well-formed instruction it
decodes to, which belongs to that slot, so that no bit of an encoding is dropped and no word has two meanings there. -/
def Obligations.EncodeDecode : Prop :=
  (∀ (i : Instr) w, i.wf = true → encode i = some w → (i.isVector = false → decodeScalar w = .ok i)
    ∧ (i.isVector = true → decodeVector w = .ok i))
  ∧ (∀ w i, decodeScalar w = .ok i → encode i = some w ∧ i.wf = true ∧ i.isVector = false)
  ∧ (∀ w i, decodeVector w = .ok i → encode i = some w ∧ i.wf = true ∧ i.isVector = true)

/-- R354 step 8 and the model's own rule for memory: from every state whose memories (scratchpads, package memory, B banks,
accumulators) are in canonical form (addresses strictly rising, no byte equal to what an unlisted address reads as), every
step that answers a next state keeps them so, whichever instruction or event it performs. -/
def Obligations.MemoriesStayCanonical : Prop :=
  ∀ (s t : State), s.memOk = true → step s = .next t → t.memOk = true

/-- R354: after a start every byte of every memory reads zero, no partition, launch, node or root is there, the cycle count
and the time are 0 and the incarnation is 1; the memories are in canonical form. Log entry 2: each thread's registers and
control registers are zero and it holds no work, which is the model's choice. -/
def Obligations.ResetState : Prop :=
  let s := State.reset
  s.memOk = true ∧ s.frozen = false ∧ s.cycle = 0 ∧ s.time = 0 ∧ s.agenda = []
  ∧ (∀ a, s.spad.read a = 0 ∧ s.dram.read a = 0 ∧ s.eng.bbank.read a = 0 ∧ s.eng.acc.read a = 0 ∧ s.tagged a = false)
  ∧ (∀ p, (s.part p).valid = false) ∧ (∀ i, s.launch i = none) ∧ (∀ n, s.node n = none) ∧ s.maps.roots = [] ∧ s.mod.boot.inc = 1
  ∧ ∀ tid, (s.thread tid).work = false ∧ (s.thread tid).level = 0 ∧ (s.thread tid).pc = 0 ∧ (s.thread tid).waits = []
      ∧ (s.thread tid).pois = 0 ∧ ∀ r : Reg, (s.thread tid).g[r.toNat] = 0
end

