-- ==== Sys2Proof/Laws/Decode.lean ====
section
/-! SUPPORT. The fields of a slot: what a word built from fields gives back, and that a word is built from its fields. -/

namespace Sys2Proof

/-- The fields of a word built by `mkSlot`. -/
theorem slot_fields (op : BitVec 6) (d a : Reg) (l : BitVec 16) :
    slotOp (mkSlot op d a l) = op ∧ slotD (mkSlot op d a l) = d ∧ slotA (mkSlot op d a l) = a ∧ slotLow (mkSlot op d a l) = l := by
  have bit (k : Nat) : (mkSlot op d a l).getLsbD k
      = if k < 16 then l.getLsbD k else if k < 21 then a.getLsbD (k - 16) else if k < 26 then d.getLsbD (k - 21) else op.getLsbD (k - 26) := by
    change BitVec.getLsbD (w := 6 + 5 + 5 + 16) (op ++ d ++ a ++ l) k = _
    rw [BitVec.getLsbD_append, BitVec.getLsbD_append, BitVec.getLsbD_append]
    split
    · rfl
    · by_cases h1 : k < 21
      · simp [h1, show k - 16 < 5 by omega]
      · by_cases h2 : k < 26
        · simp only [h1, h2, show ¬ k - 16 < 5 by omega, show k - 16 - 5 = k - 21 by omega, show k - 21 < 5 by omega, if_true, if_false]
        · simp [h1, h2, show ¬ k - 16 < 5 by omega, show ¬ k - 16 - 5 < 5 by omega, show k - 16 - 5 - 5 = k - 26 by omega]
  refine ⟨?_, ?_, ?_, ?_⟩ <;> apply BitVec.eq_of_getLsbD_eq <;> intro i hi
  · simp [slotOp, bit, hi, show ¬ 26 + i < 16 by omega, show ¬ 26 + i < 21 by omega]
  · simp [slotD, bit, hi, show ¬ 21 + i < 16 by omega, show 21 + i < 26 by omega]
  · simp [slotA, bit, hi, show 16 + i < 21 by omega]
  · simp [slotLow, bit, hi]

@[simp] theorem slotOp_mkSlot (op : BitVec 6) (d a : Reg) (l : BitVec 16) : slotOp (mkSlot op d a l) = op := (slot_fields op d a l).1
@[simp] theorem slotD_mkSlot (op : BitVec 6) (d a : Reg) (l : BitVec 16) : slotD (mkSlot op d a l) = d := (slot_fields op d a l).2.1
@[simp] theorem slotA_mkSlot (op : BitVec 6) (d a : Reg) (l : BitVec 16) : slotA (mkSlot op d a l) = a := (slot_fields op d a l).2.2.1
@[simp] theorem slotLow_mkSlot (op : BitVec 6) (d a : Reg) (l : BitVec 16) : slotLow (mkSlot op d a l) = l :=
  (slot_fields op d a l).2.2.2

/-- The fields of a low half built by `mkLow`. -/
theorem low_fields (b : Reg) (fn : BitVec 11) : lowB (mkLow b fn) = b ∧ lowFn (mkLow b fn) = fn := by
  have bit (k : Nat) : (mkLow b fn).getLsbD k = if k < 11 then fn.getLsbD k else b.getLsbD (k - 11) := by
    change BitVec.getLsbD (w := 5 + 11) (b ++ fn) k = _
    rw [BitVec.getLsbD_append]
  constructor <;> apply BitVec.eq_of_getLsbD_eq <;> intro i hi
  · simp [lowB, bit, hi]
  · simp [lowFn, bit, hi]

@[simp] theorem lowB_mkLow (b : Reg) (fn : BitVec 11) : lowB (mkLow b fn) = b := (low_fields b fn).1
@[simp] theorem lowFn_mkLow (b : Reg) (fn : BitVec 11) : lowFn (mkLow b fn) = fn := (low_fields b fn).2

/-- A word is built from its fields. -/
theorem mkSlot_fields (w : BitVec 32) : mkSlot (slotOp w) (slotD w) (slotA w) (slotLow w) = w := by
  apply BitVec.eq_of_getLsbD_eq
  intro k hk
  change BitVec.getLsbD (w := 6 + 5 + 5 + 16) (slotOp w ++ slotD w ++ slotA w ++ slotLow w) k = _
  rw [BitVec.getLsbD_append, BitVec.getLsbD_append, BitVec.getLsbD_append]
  simp only [slotOp, slotD, slotA, slotLow, BitVec.getLsbD_extractLsb']
  by_cases h0 : k < 16
  · simp [h0]
  · by_cases h1 : k - 16 < 5
    · simp [h0, h1, show 16 + (k - 16) = k by omega]
    · by_cases h2 : k - 16 - 5 < 5
      · simp [h0, h1, h2, show 21 + (k - 16 - 5) = k by omega]
      · simp [h0, h1, h2, show k - 16 - 5 - 5 < 6 by omega, show 26 + (k - 16 - 5 - 5) = k by omega]

/-- A low half is built from its fields. -/
theorem mkLow_fields (l : BitVec 16) : mkLow (lowB l) (lowFn l) = l := by
  apply BitVec.eq_of_getLsbD_eq
  intro k hk
  change BitVec.getLsbD (w := 5 + 11) (lowB l ++ lowFn l) k = _
  rw [BitVec.getLsbD_append]
  simp only [lowB, lowFn, BitVec.getLsbD_extractLsb']
  by_cases h0 : k < 11
  · simp [h0]
  · simp [h0, show k - 11 < 5 by omega, show 11 + (k - 11) = k by omega]

/-- Two words with equal fields are equal. -/
theorem slot_ext {v w : BitVec 32} (ho : slotOp v = slotOp w) (hd : slotD v = slotD w) (ha : slotA v = slotA w)
    (hl : slotLow v = slotLow w) : v = w := by
  rw [← mkSlot_fields v, ← mkSlot_fields w, ho, hd, ha, hl]

/-! ## Field codes -/

@[simp] theorem Cond.ofCode_code (c : Cond) : Cond.ofCode c.code = some c := by cases c <;> rfl
@[simp] theorem Size.ofCode_code (c : Size) : Size.ofCode c.code = some c := by cases c <;> rfl
@[simp] theorem MemOrd.ofCode_code (c : MemOrd) : MemOrd.ofCode c.code = some c := by cases c <;> rfl
@[simp] theorem Scope.ofCode_code (c : Scope) : Scope.ofCode c.code = some c := by cases c <;> rfl
@[simp] theorem Aop.ofCode_code (c : Aop) : Aop.ofCode c.code = some c := by cases c <;> rfl
@[simp] theorem Stub.ofCode_code (c : Stub) : Stub.ofCode c.code = some c := by cases c <;> rfl
@[simp] theorem Ty.ofCode_code (c : Ty) : Ty.ofCode c.code = some c := by cases c <;> rfl
@[simp] theorem VPred.ofCode_code (c : VPred) : VPred.ofCode c.code = some c := by cases c <;> rfl
@[simp] theorem RedOp.ofCode_code (c : RedOp) : RedOp.ofCode c.code = some c := by cases c <;> rfl
@[simp] theorem ScanOp.ofCode_code (c : ScanOp) : ScanOp.ofCode c.code = some c := by cases c <;> rfl
@[simp] theorem Rnd.ofCode_code (c : Rnd) : Rnd.ofCode c.code = some c := by cases c with
  | dyn => rfl
  | fixed m => cases m <;> rfl

/-! A legal code is the code of what it names. -/

theorem Cond.code_ofCode {c : BitVec 3} {x : Cond} (h : Cond.ofCode c = some x) : x.code = c := by
  have all : ∀ c : BitVec 3, (Cond.ofCode c).all (fun x => decide (x.code = c)) = true := by decide
  simpa [h] using all c

theorem Size.code_ofCode {c : BitVec 2} {x : Size} (h : Size.ofCode c = some x) : x.code = c := by
  have all : ∀ c : BitVec 2, (Size.ofCode c).all (fun x => decide (x.code = c)) = true := by decide
  simpa [h] using all c

theorem MemOrd.code_ofCode {c : BitVec 2} {x : MemOrd} (h : MemOrd.ofCode c = some x) : x.code = c := by
  have all : ∀ c : BitVec 2, (MemOrd.ofCode c).all (fun x => decide (x.code = c)) = true := by decide
  simpa [h] using all c

theorem Scope.code_ofCode {c : BitVec 3} {x : Scope} (h : Scope.ofCode c = some x) : x.code = c := by
  have all : ∀ c : BitVec 3, (Scope.ofCode c).all (fun x => decide (x.code = c)) = true := by decide
  simpa [h] using all c

theorem Aop.code_ofCode {c : BitVec 4} {x : Aop} (h : Aop.ofCode c = some x) : x.code = c := by
  have all : ∀ c : BitVec 4, (Aop.ofCode c).all (fun x => decide (x.code = c)) = true := by decide
  simpa [h] using all c

theorem Stub.code_ofCode {c : BitVec 2} {x : Stub} (h : Stub.ofCode c = some x) : x.code = c := by
  have all : ∀ c : BitVec 2, (Stub.ofCode c).all (fun x => decide (x.code = c)) = true := by decide
  simpa [h] using all c

theorem Ty.code_ofCode {c : BitVec 4} {x : Ty} (h : Ty.ofCode c = some x) : x.code = c := by
  have all : ∀ c : BitVec 4, (Ty.ofCode c).all (fun x => decide (x.code = c)) = true := by decide
  simpa [h] using all c

theorem VPred.code_ofCode {c : BitVec 4} {x : VPred} (h : VPred.ofCode c = some x) : x.code = c := by
  have all : ∀ c : BitVec 4, (VPred.ofCode c).all (fun x => decide (x.code = c)) = true := by decide
  simpa [h] using all c

theorem RedOp.code_ofCode {c : BitVec 4} {x : RedOp} (h : RedOp.ofCode c = some x) : x.code = c := by
  have all : ∀ c : BitVec 4, (RedOp.ofCode c).all (fun x => decide (x.code = c)) = true := by decide
  simpa [h] using all c

theorem ScanOp.code_ofCode {c : BitVec 4} {x : ScanOp} (h : ScanOp.ofCode c = some x) : x.code = c := by
  have all : ∀ c : BitVec 4, (ScanOp.ofCode c).all (fun x => decide (x.code = c)) = true := by decide
  simpa [h] using all c

theorem Rnd.code_ofCode {c : BitVec 3} {x : Rnd} (h : Rnd.ofCode c = some x) : x.code = c := by
  have all : ∀ c : BitVec 3, (Rnd.ofCode c).all (fun x => decide (x.code = c)) = true := by decide
  simpa [h] using all c

/-! ## Subfields of FN and IMM16 -/

theorem smFn_fields (z : Size) (o : MemOrd) (p : Scope) (low : BitVec 4) :
    (smFn z o p low).extractLsb' 9 2 = z.code ∧ (smFn z o p low).extractLsb' 7 2 = o.code ∧ (smFn z o p low).extractLsb' 4 3 = p.code
      ∧ (smFn z o p low).extractLsb' 0 4 = low := by
  revert low
  cases z <;> cases o <;> cases p <;> decide

theorem vecFn_fields (t : Ty) (r : Rnd) (mem : BitVec 4) :
    (vecFn t r mem).extractLsb' 7 4 = t.code ∧ (vecFn t r mem).extractLsb' 4 3 = r.code ∧ (vecFn t r mem).extractLsb' 0 4 = mem := by
  revert mem
  cases t <;> rcases r with _ | m <;> first | decide | (cases m <;> decide)

theorem mapFn_fields (m : BitVec 3) (t : Stub) :
    (mapFn m t).extractLsb' 0 3 = m ∧ (mapFn m t).extractLsb' 3 2 = t.code ∧ (mapFn m t).extractLsb' 5 6 = 0 := by
  revert m
  cases t <;> decide

theorem tenFn_fields (m p : BitVec 3) (w nw : Bool) :
    (tenFn m p w nw).extractLsb' 8 3 = m ∧ (tenFn m p w nw).getLsbD 7 = false ∧ (tenFn m p w nw).extractLsb' 4 3 = p
      ∧ (tenFn m p w nw).extractLsb' 2 2 = 0 ∧ (tenFn m p w nw).extractLsb' 0 2 = bit1 w ++ bit1 nw
      ∧ (tenFn m p w nw).getLsbD 1 = w ∧ (tenFn m p w nw).getLsbD 0 = nw := by
  revert m p w nw
  decide

theorem syncFn_fields (m p : BitVec 3) :
    (syncFn m p).extractLsb' 0 3 = m ∧ (syncFn m p).extractLsb' 4 3 = p ∧ (syncFn m p).extractLsb' 7 4 = 0
      ∧ (syncFn m p).getLsbD 3 = false := by
  revert m p
  decide

theorem semImm_fields (m : BitVec 2) (k : BitVec 5) :
    (semImm m k).extractLsb' 14 2 = m ∧ (semImm m k).extractLsb' 0 5 = k ∧ (semImm m k).extractLsb' 5 9 = 0 := by
  revert m k
  decide

theorem shiftImm_fields (k : BitVec 6) : (shiftImm k).extractLsb' 0 6 = k ∧ (shiftImm k).extractLsb' 6 10 = 0 := by
  revert k
  decide

theorem skD_fields (c : Cond) (k : BitVec 2) : (skD c k).extractLsb' 2 3 = c.code ∧ (skD c k).extractLsb' 0 2 = k := by
  revert k
  cases c <;> decide

theorem migrFn_fields (m l w : Bool) :
    (migrFn m l w).getLsbD 0 = m ∧ (migrFn m l w).getLsbD 1 = w ∧ (migrFn m l w).getLsbD 2 = l ∧ (migrFn m l w).extractLsb' 3 8 = 0 := by
  revert m l w
  decide

theorem sxLow_fields (sx : Bool) : (sxLow sx).extractLsb' 0 3 = 0 ∧ (sxLow sx).getLsbD 3 = sx := by
  revert sx
  decide

/-- A branch offset is built from its three fields. -/
theorem off_fields (o : BitVec 26) : offD o ++ offA o ++ offLow o = o := by
  apply BitVec.eq_of_getLsbD_eq
  intro k hk
  rw [BitVec.getLsbD_append, BitVec.getLsbD_append]
  simp only [offD, offA, offLow, BitVec.getLsbD_extractLsb']
  by_cases h0 : k < 16
  · simp [h0]
  · by_cases h1 : k - 16 < 5
    · simp [h0, h1, show 16 + (k - 16) = k by omega]
    · simp [h0, h1, show k - 16 - 5 < 5 by omega, show 21 + (k - 16 - 5) = k by omega]

end Sys2Proof
end

