-- ==== Sys2Proof/Laws/Store.lean ====
section
/-! SUPPORT. The laws of `Store` and `Memory`: a read after a write, a write elsewhere, and that every operation keeps the
canonical form. -/

namespace Sys2Proof.Machine

variable {α : Type}

/-! ## Reading a store -/

@[simp] theorem Store.find_nil (a : Nat) : Store.find ([] : Store α) a = none := rfl

theorem Store.find_cons (k : Nat) (v : α) (m : Store α) (a : Nat) :
    Store.find ((k, v) :: m) a = if k = a then some v else Store.find m a := rfl

@[simp] theorem Store.find_put_self (m : Store α) (a : Nat) (x : α) : Store.find (Store.put m a x) a = some x := by
  induction m with
  | nil => simp [Store.put, Store.find]
  | cons p m ih =>
    obtain ⟨k, v⟩ := p
    simp only [Store.put]
    split
    · simp [Store.find]
    · split
      · simp [Store.find]
      · rename_i h _
        simp [Store.find, h, ih]

theorem Store.find_put_ne (m : Store α) {a b : Nat} (x : α) (h : b ≠ a) :
    Store.find (Store.put m a x) b = Store.find m b := by
  induction m with
  | nil => simp [Store.put, Store.find, Ne.symm h]
  | cons p m ih =>
    obtain ⟨k, v⟩ := p
    simp only [Store.put]
    split
    · rename_i hk
      subst hk
      simp [Store.find, Ne.symm h]
    · split
      · simp [Store.find, Ne.symm h]
      · simp [Store.find, ih]

theorem Store.find_put (m : Store α) (a b : Nat) (x : α) :
    Store.find (Store.put m a x) b = if b = a then some x else Store.find m b := by
  split
  · rename_i h
    subst h
    exact Store.find_put_self m b x
  · rename_i h
    exact Store.find_put_ne m x h

theorem Store.find_filter_key (m : Store α) (p : Nat → Bool) (a : Nat) :
    Store.find (m.filter (fun c => p c.1)) a = if p a then Store.find m a else none := by
  induction m with
  | nil => simp
  | cons c m ih =>
    obtain ⟨k, v⟩ := c
    by_cases hk : k = a
    · subst hk
      by_cases hp : p k <;> simp [hp, Store.find_cons, ih]
    · by_cases hp : p k <;> simp [hp, Store.find_cons, hk, ih]

@[simp] theorem Store.find_del_self (m : Store α) (a : Nat) : Store.find (Store.del m a) a = none := by
  have h := Store.find_filter_key m (fun k => decide (k ≠ a)) a
  simpa [Store.del] using h

theorem Store.find_del_ne (m : Store α) {a b : Nat} (h : b ≠ a) : Store.find (Store.del m a) b = Store.find m b := by
  have h' := Store.find_filter_key m (fun k => decide (k ≠ a)) b
  simpa [Store.del, h] using h'

theorem Store.find_upd_self (m : Store α) (a : Nat) (f : α → α) :
    Store.find (Store.upd m a f) a = (Store.find m a).map f := by
  unfold Store.upd
  cases h : Store.find m a <;> simp [h]

theorem Store.find_upd_ne (m : Store α) {a b : Nat} (f : α → α) (h : b ≠ a) :
    Store.find (Store.upd m a f) b = Store.find m b := by
  unfold Store.upd
  cases Store.find m a
  · rfl
  · exact Store.find_put_ne m _ h

/-! ## Canonical form -/

/-- Every key of a store lies above a bound. -/
def Store.above (b : Nat) (m : Store α) : Prop := ∀ p ∈ m, b < p.1

theorem Store.wf_cons (k : Nat) (v : α) (m : Store α) :
    Store.wf ((k, v) :: m) = true ↔ Store.above k m ∧ Store.wf m = true := by
  induction m generalizing k v with
  | nil => simp [Store.wf, Store.above]
  | cons p m ih =>
    obtain ⟨k', v'⟩ := p
    have h := ih k' v'
    simp only [Store.wf, Bool.and_eq_true, decide_eq_true_eq] at h ⊢
    constructor
    · rintro ⟨hlt, hw⟩
      refine ⟨?_, hw⟩
      have ha := (h.mp hw).1
      intro p hp
      rcases List.mem_cons.mp hp with rfl | hp
      · exact hlt
      · exact Nat.lt_trans hlt (ha p hp)
    · rintro ⟨ha, hw⟩
      exact ⟨ha (k', v') (List.mem_cons_self ..), hw⟩

theorem Store.above_put {b : Nat} {m : Store α} (h : Store.above b m) {a : Nat} (x : α) (ha : b < a) :
    Store.above b (Store.put m a x) := by
  induction m with
  | nil =>
    intro p hp
    simp only [Store.put, List.mem_singleton] at hp
    subst hp
    exact ha
  | cons c m ih =>
    obtain ⟨k, v⟩ := c
    have hm : Store.above b m := fun p hp => h p (List.mem_cons_of_mem _ hp)
    have hk : b < k := h (k, v) (List.mem_cons_self ..)
    simp only [Store.put]
    split
    · intro p hp
      rcases List.mem_cons.mp hp with rfl | hp
      · exact ha
      · exact hm p hp
    · split
      · intro p hp
        rcases List.mem_cons.mp hp with rfl | hp
        · exact ha
        · exact h p hp
      · intro p hp
        rcases List.mem_cons.mp hp with rfl | hp
        · exact hk
        · exact ih hm p hp

theorem Store.wf_put {m : Store α} (h : Store.wf m = true) (a : Nat) (x : α) : Store.wf (Store.put m a x) = true := by
  induction m with
  | nil => simp [Store.put, Store.wf]
  | cons c m ih =>
    obtain ⟨k, v⟩ := c
    obtain ⟨ha, hw⟩ := (Store.wf_cons k v m).mp h
    simp only [Store.put]
    split
    · rename_i hk
      subst hk
      exact (Store.wf_cons _ _ _).mpr ⟨ha, hw⟩
    · split
      · rename_i hlt
        refine (Store.wf_cons _ _ _).mpr ⟨?_, h⟩
        intro p hp
        rcases List.mem_cons.mp hp with rfl | hp
        · exact hlt
        · exact Nat.lt_trans hlt (ha p hp)
      · exact (Store.wf_cons _ _ _).mpr ⟨Store.above_put ha x (by omega), ih hw⟩

theorem Store.wf_filter {m : Store α} (h : Store.wf m = true) (p : Nat × α → Bool) : Store.wf (m.filter p) = true := by
  induction m with
  | nil => simp [Store.wf]
  | cons c m ih =>
    obtain ⟨k, v⟩ := c
    obtain ⟨ha, hw⟩ := (Store.wf_cons k v m).mp h
    simp only [List.filter_cons]
    split
    · exact (Store.wf_cons _ _ _).mpr ⟨fun q hq => ha q (List.mem_filter.mp hq).1, ih hw⟩
    · exact ih hw

theorem Store.wf_del {m : Store α} (h : Store.wf m = true) (a : Nat) : Store.wf (Store.del m a) = true :=
  Store.wf_filter h _

theorem Store.wf_upd {m : Store α} (h : Store.wf m = true) (a : Nat) (f : α → α) : Store.wf (Store.upd m a f) = true := by
  unfold Store.upd
  split
  · exact Store.wf_put h _ _
  · exact h

/-! ## Memory -/

@[simp] theorem Memory.read_nil (a : Nat) : Memory.read [] a = 0 := rfl

@[simp] theorem Memory.read_write_self (m : Memory) (a : Nat) (b : Byte) : (m.write a b).read a = b := by
  unfold Memory.write Memory.read
  split
  · rename_i h
    simp [h]
  · simp

theorem Memory.read_write_ne (m : Memory) {a c : Nat} (b : Byte) (h : c ≠ a) : (m.write a b).read c = m.read c := by
  unfold Memory.write Memory.read
  split
  · rw [Store.find_del_ne m h]
  · rw [Store.find_put_ne m b h]

theorem Memory.wf_nil : Memory.wf [] = true := rfl

theorem Memory.mem_put {m : Memory} {a : Nat} {b : Byte} {p : Nat × Byte} (h : p ∈ Store.put m a b) : p = (a, b) ∨ p ∈ m := by
  induction m with
  | nil => simpa [Store.put] using h
  | cons c m ih =>
    obtain ⟨k, v⟩ := c
    simp only [Store.put] at h
    split at h
    · rcases List.mem_cons.mp h with h | h
      · exact .inl h
      · exact .inr (List.mem_cons_of_mem _ h)
    · split at h
      · rcases List.mem_cons.mp h with h | h
        · exact .inl h
        · exact .inr h
      · rcases List.mem_cons.mp h with h | h
        · exact .inr (by simp [h])
        · rcases ih h with h | h
          · exact .inl h
          · exact .inr (List.mem_cons_of_mem _ h)

/-- A write keeps the canonical form. -/
theorem Memory.wf_write {m : Memory} (h : m.wf = true) (a : Nat) (b : Byte) : (m.write a b).wf = true := by
  simp only [Memory.wf, Bool.and_eq_true, List.all_eq_true, decide_eq_true_eq] at h ⊢
  unfold Memory.write
  split
  · exact ⟨Store.wf_del h.1 a, fun p hp => h.2 p (List.mem_filter.mp hp).1⟩
  · rename_i hb
    refine ⟨Store.wf_put h.1 a b, fun p hp => ?_⟩
    rcases Memory.mem_put hp with rfl | hp
    · exact hb
    · exact h.2 p hp

theorem Memory.wf_filter {m : Memory} (h : m.wf = true) (p : Nat × Byte → Bool) : Memory.wf (m.filter p) = true := by
  simp only [Memory.wf, Bool.and_eq_true, List.all_eq_true, decide_eq_true_eq] at h ⊢
  exact ⟨Store.wf_filter h.1 p, fun q hq => h.2 q (List.mem_filter.mp hq).1⟩

theorem Memory.wf_writeLe {m : Memory} (h : m.wf = true) (a n v : Nat) : (m.writeLe a n v).wf = true := by
  induction n generalizing m a v with
  | zero => exact h
  | succ n ih => exact ih (Memory.wf_write h a _) (a + 1) (v / 256)

theorem Memory.wf_writeBytes {m : Memory} (h : m.wf = true) (a : Nat) (l : List Byte) : (m.writeBytes a l).wf = true := by
  induction l generalizing m a with
  | nil => exact h
  | cons b l ih => exact ih (Memory.wf_write h a b) (a + 1)

theorem Memory.wf_zero {m : Memory} (h : m.wf = true) (a n : Nat) : (m.zero a n).wf = true := Memory.wf_filter h _

theorem Memory.wf_join {m : Memory} (h : m.wf = true) (c : Memory) : (m.join c).wf = true := by
  induction c generalizing m with
  | nil => exact h
  | cons p c ih => exact ih (Memory.wf_write h p.1 p.2)

/-- Zeroing reads as zero inside the range and leaves the rest. -/
theorem Memory.read_zero (m : Memory) (a n c : Nat) :
    (m.zero a n).read c = if a ≤ c ∧ c < a + n then 0 else m.read c := by
  have h := Store.find_filter_key m (fun k => !(decide (a ≤ k) && decide (k < a + n))) c
  unfold Memory.zero Memory.read
  rw [h]
  by_cases hc : a ≤ c ∧ c < a + n
  · simp [hc, Memory.blank]
  · rw [if_neg hc]
    have : (!(decide (a ≤ c) && decide (c < a + n))) = true := by
      simp only [Bool.not_eq_true', Bool.and_eq_false_iff, decide_eq_false_iff_not]
      by_contra hh
      push Not at hh
      exact hc hh
    rw [if_pos this]

/-- A byte outside a written range reads as before. -/
theorem Memory.read_writeLe_out (m : Memory) (a n v c : Nat) (h : c < a ∨ a + n ≤ c) : (m.writeLe a n v).read c = m.read c := by
  induction n generalizing m a v with
  | zero => rfl
  | succ n ih =>
    have h1 : c < a + 1 ∨ a + 1 + n ≤ c := by omega
    have h2 : c ≠ a := by omega
    show ((m.write a _).writeLe (a + 1) n (v / 256)).read c = m.read c
    rw [ih (m.write a _) (a + 1) (v / 256) h1, Memory.read_write_ne m _ h2]

/-- What a little-endian write stores is what a little-endian read gives back (R4). -/
theorem Memory.readLe_writeLe (m : Memory) (a n v : Nat) : (m.writeLe a n v).readLe a n = v % 256 ^ n := by
  induction n generalizing m a v with
  | zero => simp [Memory.readLe, Nat.mod_one]
  | succ n ih =>
    show (((m.write a (BitVec.ofNat 8 v)).writeLe (a + 1) n (v / 256)).read a).toNat
      + 256 * Memory.readLe ((m.write a (BitVec.ofNat 8 v)).writeLe (a + 1) n (v / 256)) (a + 1) n = v % 256 ^ (n + 1)
    rw [ih, Memory.read_writeLe_out _ _ _ _ _ (by omega), Memory.read_write_self]
    have h1 : (BitVec.ofNat 8 v : Byte).toNat = v % 256 := BitVec.toNat_ofNat v 8
    have h2 : v % (256 * 256 ^ n) = v % 256 + 256 * (v / 256 % 256 ^ n) := Nat.mod_mul
    rw [h1, Nat.pow_succ, Nat.mul_comm (256 ^ n) 256, h2]

end Sys2Proof.Machine
end

