-- ==== Sys2Proof/Laws/State.lean ====
section
/-! SUPPORT. The state updates field by field: what each named update leaves as it was and what it sets. Later proofs
rewrite with these and unfold no record update. -/

namespace Sys2Proof.Machine

/-! ## `setThread` -/

@[simp] theorem State.setThread_cycle (s : State) (tid : Nat) (t : Thread) : (s.setThread tid t).cycle = s.cycle := rfl
@[simp] theorem State.setThread_time (s : State) (tid : Nat) (t : Thread) : (s.setThread tid t).time = s.time := rfl
@[simp] theorem State.setThread_agenda (s : State) (tid : Nat) (t : Thread) : (s.setThread tid t).agenda = s.agenda := rfl
@[simp] theorem State.setThread_cur (s : State) (tid : Nat) (t : Thread) : (s.setThread tid t).cur = s.cur := rfl
@[simp] theorem State.setThread_lastCore (s : State) (tid : Nat) (t : Thread) : (s.setThread tid t).lastCore = s.lastCore := rfl
@[simp] theorem State.setThread_iss (s : State) (tid : Nat) (t : Thread) : (s.setThread tid t).iss = s.iss := rfl
@[simp] theorem State.setThread_next (s : State) (tid : Nat) (t : Thread) : (s.setThread tid t).next = s.next := rfl
@[simp] theorem State.setThread_threads (s : State) (tid : Nat) (t : Thread) : (s.setThread tid t).threads = Store.put s.threads tid t := rfl
@[simp] theorem State.setThread_icache (s : State) (tid : Nat) (t : Thread) : (s.setThread tid t).icache = s.icache := rfl
@[simp] theorem State.setThread_spad (s : State) (tid : Nat) (t : Thread) : (s.setThread tid t).spad = s.spad := rfl
@[simp] theorem State.setThread_spadPois (s : State) (tid : Nat) (t : Thread) : (s.setThread tid t).spadPois = s.spadPois := rfl
@[simp] theorem State.setThread_tags (s : State) (tid : Nat) (t : Thread) : (s.setThread tid t).tags = s.tags := rfl
@[simp] theorem State.setThread_dram (s : State) (tid : Nat) (t : Thread) : (s.setThread tid t).dram = s.dram := rfl
@[simp] theorem State.setThread_dramPois (s : State) (tid : Nat) (t : Thread) : (s.setThread tid t).dramPois = s.dramPois := rfl
@[simp] theorem State.setThread_maps (s : State) (tid : Nat) (t : Thread) : (s.setThread tid t).maps = s.maps := rfl
@[simp] theorem State.setThread_tlb (s : State) (tid : Nat) (t : Thread) : (s.setThread tid t).tlb = s.tlb := rfl
@[simp] theorem State.setThread_shoots (s : State) (tid : Nat) (t : Thread) : (s.setThread tid t).shoots = s.shoots := rfl
@[simp] theorem State.setThread_accs (s : State) (tid : Nat) (t : Thread) : (s.setThread tid t).accs = s.accs := rfl
@[simp] theorem State.setThread_tens (s : State) (tid : Nat) (t : Thread) : (s.setThread tid t).tens = s.tens := rfl
@[simp] theorem State.setThread_splits (s : State) (tid : Nat) (t : Thread) : (s.setThread tid t).splits = s.splits := rfl
@[simp] theorem State.setThread_treqs (s : State) (tid : Nat) (t : Thread) : (s.setThread tid t).treqs = s.treqs := rfl
@[simp] theorem State.setThread_pushes (s : State) (tid : Nat) (t : Thread) : (s.setThread tid t).pushes = s.pushes := rfl
@[simp] theorem State.setThread_sync (s : State) (tid : Nat) (t : Thread) : (s.setThread tid t).sync = s.sync := rfl
@[simp] theorem State.setThread_launches (s : State) (tid : Nat) (t : Thread) : (s.setThread tid t).launches = s.launches := rfl
@[simp] theorem State.setThread_parts (s : State) (tid : Nat) (t : Thread) : (s.setThread tid t).parts = s.parts := rfl
@[simp] theorem State.setThread_wins (s : State) (tid : Nat) (t : Thread) : (s.setThread tid t).wins = s.wins := rfl
@[simp] theorem State.setThread_eng (s : State) (tid : Nat) (t : Thread) : (s.setThread tid t).eng = s.eng := rfl
@[simp] theorem State.setThread_mod (s : State) (tid : Nat) (t : Thread) : (s.setThread tid t).mod = s.mod := rfl
@[simp] theorem State.setThread_self (s : State) (tid : Nat) (t : Thread) : (s.setThread tid t).self = s.self := rfl
@[simp] theorem State.setThread_frozen (s : State) (tid : Nat) (t : Thread) : (s.setThread tid t).frozen = s.frozen := rfl

/-! ## `updThread` -/

@[simp] theorem State.updThread_cycle (s : State) (tid : Nat) (f : Thread → Thread) : (s.updThread tid f).cycle = s.cycle := rfl
@[simp] theorem State.updThread_time (s : State) (tid : Nat) (f : Thread → Thread) : (s.updThread tid f).time = s.time := rfl
@[simp] theorem State.updThread_agenda (s : State) (tid : Nat) (f : Thread → Thread) : (s.updThread tid f).agenda = s.agenda := rfl
@[simp] theorem State.updThread_cur (s : State) (tid : Nat) (f : Thread → Thread) : (s.updThread tid f).cur = s.cur := rfl
@[simp] theorem State.updThread_lastCore (s : State) (tid : Nat) (f : Thread → Thread) : (s.updThread tid f).lastCore = s.lastCore := rfl
@[simp] theorem State.updThread_iss (s : State) (tid : Nat) (f : Thread → Thread) : (s.updThread tid f).iss = s.iss := rfl
@[simp] theorem State.updThread_next (s : State) (tid : Nat) (f : Thread → Thread) : (s.updThread tid f).next = s.next := rfl
@[simp] theorem State.updThread_threads (s : State) (tid : Nat) (f : Thread → Thread) : (s.updThread tid f).threads = Store.put s.threads tid (f (s.thread tid)) := rfl
@[simp] theorem State.updThread_icache (s : State) (tid : Nat) (f : Thread → Thread) : (s.updThread tid f).icache = s.icache := rfl
@[simp] theorem State.updThread_spad (s : State) (tid : Nat) (f : Thread → Thread) : (s.updThread tid f).spad = s.spad := rfl
@[simp] theorem State.updThread_spadPois (s : State) (tid : Nat) (f : Thread → Thread) : (s.updThread tid f).spadPois = s.spadPois := rfl
@[simp] theorem State.updThread_tags (s : State) (tid : Nat) (f : Thread → Thread) : (s.updThread tid f).tags = s.tags := rfl
@[simp] theorem State.updThread_dram (s : State) (tid : Nat) (f : Thread → Thread) : (s.updThread tid f).dram = s.dram := rfl
@[simp] theorem State.updThread_dramPois (s : State) (tid : Nat) (f : Thread → Thread) : (s.updThread tid f).dramPois = s.dramPois := rfl
@[simp] theorem State.updThread_maps (s : State) (tid : Nat) (f : Thread → Thread) : (s.updThread tid f).maps = s.maps := rfl
@[simp] theorem State.updThread_tlb (s : State) (tid : Nat) (f : Thread → Thread) : (s.updThread tid f).tlb = s.tlb := rfl
@[simp] theorem State.updThread_shoots (s : State) (tid : Nat) (f : Thread → Thread) : (s.updThread tid f).shoots = s.shoots := rfl
@[simp] theorem State.updThread_accs (s : State) (tid : Nat) (f : Thread → Thread) : (s.updThread tid f).accs = s.accs := rfl
@[simp] theorem State.updThread_tens (s : State) (tid : Nat) (f : Thread → Thread) : (s.updThread tid f).tens = s.tens := rfl
@[simp] theorem State.updThread_splits (s : State) (tid : Nat) (f : Thread → Thread) : (s.updThread tid f).splits = s.splits := rfl
@[simp] theorem State.updThread_treqs (s : State) (tid : Nat) (f : Thread → Thread) : (s.updThread tid f).treqs = s.treqs := rfl
@[simp] theorem State.updThread_pushes (s : State) (tid : Nat) (f : Thread → Thread) : (s.updThread tid f).pushes = s.pushes := rfl
@[simp] theorem State.updThread_sync (s : State) (tid : Nat) (f : Thread → Thread) : (s.updThread tid f).sync = s.sync := rfl
@[simp] theorem State.updThread_launches (s : State) (tid : Nat) (f : Thread → Thread) : (s.updThread tid f).launches = s.launches := rfl
@[simp] theorem State.updThread_parts (s : State) (tid : Nat) (f : Thread → Thread) : (s.updThread tid f).parts = s.parts := rfl
@[simp] theorem State.updThread_wins (s : State) (tid : Nat) (f : Thread → Thread) : (s.updThread tid f).wins = s.wins := rfl
@[simp] theorem State.updThread_eng (s : State) (tid : Nat) (f : Thread → Thread) : (s.updThread tid f).eng = s.eng := rfl
@[simp] theorem State.updThread_mod (s : State) (tid : Nat) (f : Thread → Thread) : (s.updThread tid f).mod = s.mod := rfl
@[simp] theorem State.updThread_self (s : State) (tid : Nat) (f : Thread → Thread) : (s.updThread tid f).self = s.self := rfl
@[simp] theorem State.updThread_frozen (s : State) (tid : Nat) (f : Thread → Thread) : (s.updThread tid f).frozen = s.frozen := rfl

/-! ## `updMe` -/

@[simp] theorem State.updMe_cycle (s : State) (f : Thread → Thread) : (s.updMe f).cycle = s.cycle := rfl
@[simp] theorem State.updMe_time (s : State) (f : Thread → Thread) : (s.updMe f).time = s.time := rfl
@[simp] theorem State.updMe_agenda (s : State) (f : Thread → Thread) : (s.updMe f).agenda = s.agenda := rfl
@[simp] theorem State.updMe_cur (s : State) (f : Thread → Thread) : (s.updMe f).cur = s.cur := rfl
@[simp] theorem State.updMe_lastCore (s : State) (f : Thread → Thread) : (s.updMe f).lastCore = s.lastCore := rfl
@[simp] theorem State.updMe_iss (s : State) (f : Thread → Thread) : (s.updMe f).iss = s.iss := rfl
@[simp] theorem State.updMe_next (s : State) (f : Thread → Thread) : (s.updMe f).next = s.next := rfl
@[simp] theorem State.updMe_threads (s : State) (f : Thread → Thread) : (s.updMe f).threads = Store.put s.threads s.cur (f s.me) := rfl
@[simp] theorem State.updMe_icache (s : State) (f : Thread → Thread) : (s.updMe f).icache = s.icache := rfl
@[simp] theorem State.updMe_spad (s : State) (f : Thread → Thread) : (s.updMe f).spad = s.spad := rfl
@[simp] theorem State.updMe_spadPois (s : State) (f : Thread → Thread) : (s.updMe f).spadPois = s.spadPois := rfl
@[simp] theorem State.updMe_tags (s : State) (f : Thread → Thread) : (s.updMe f).tags = s.tags := rfl
@[simp] theorem State.updMe_dram (s : State) (f : Thread → Thread) : (s.updMe f).dram = s.dram := rfl
@[simp] theorem State.updMe_dramPois (s : State) (f : Thread → Thread) : (s.updMe f).dramPois = s.dramPois := rfl
@[simp] theorem State.updMe_maps (s : State) (f : Thread → Thread) : (s.updMe f).maps = s.maps := rfl
@[simp] theorem State.updMe_tlb (s : State) (f : Thread → Thread) : (s.updMe f).tlb = s.tlb := rfl
@[simp] theorem State.updMe_shoots (s : State) (f : Thread → Thread) : (s.updMe f).shoots = s.shoots := rfl
@[simp] theorem State.updMe_accs (s : State) (f : Thread → Thread) : (s.updMe f).accs = s.accs := rfl
@[simp] theorem State.updMe_tens (s : State) (f : Thread → Thread) : (s.updMe f).tens = s.tens := rfl
@[simp] theorem State.updMe_splits (s : State) (f : Thread → Thread) : (s.updMe f).splits = s.splits := rfl
@[simp] theorem State.updMe_treqs (s : State) (f : Thread → Thread) : (s.updMe f).treqs = s.treqs := rfl
@[simp] theorem State.updMe_pushes (s : State) (f : Thread → Thread) : (s.updMe f).pushes = s.pushes := rfl
@[simp] theorem State.updMe_sync (s : State) (f : Thread → Thread) : (s.updMe f).sync = s.sync := rfl
@[simp] theorem State.updMe_launches (s : State) (f : Thread → Thread) : (s.updMe f).launches = s.launches := rfl
@[simp] theorem State.updMe_parts (s : State) (f : Thread → Thread) : (s.updMe f).parts = s.parts := rfl
@[simp] theorem State.updMe_wins (s : State) (f : Thread → Thread) : (s.updMe f).wins = s.wins := rfl
@[simp] theorem State.updMe_eng (s : State) (f : Thread → Thread) : (s.updMe f).eng = s.eng := rfl
@[simp] theorem State.updMe_mod (s : State) (f : Thread → Thread) : (s.updMe f).mod = s.mod := rfl
@[simp] theorem State.updMe_self (s : State) (f : Thread → Thread) : (s.updMe f).self = s.self := rfl
@[simp] theorem State.updMe_frozen (s : State) (f : Thread → Thread) : (s.updMe f).frozen = s.frozen := rfl

/-! ## `setReg` -/

@[simp] theorem State.setReg_cycle (s : State) (d : Reg) (v : Word) : (s.setReg d v).cycle = s.cycle := rfl
@[simp] theorem State.setReg_time (s : State) (d : Reg) (v : Word) : (s.setReg d v).time = s.time := rfl
@[simp] theorem State.setReg_agenda (s : State) (d : Reg) (v : Word) : (s.setReg d v).agenda = s.agenda := rfl
@[simp] theorem State.setReg_cur (s : State) (d : Reg) (v : Word) : (s.setReg d v).cur = s.cur := rfl
@[simp] theorem State.setReg_lastCore (s : State) (d : Reg) (v : Word) : (s.setReg d v).lastCore = s.lastCore := rfl
@[simp] theorem State.setReg_iss (s : State) (d : Reg) (v : Word) : (s.setReg d v).iss = s.iss := rfl
@[simp] theorem State.setReg_next (s : State) (d : Reg) (v : Word) : (s.setReg d v).next = s.next := rfl
@[simp] theorem State.setReg_threads (s : State) (d : Reg) (v : Word) : (s.setReg d v).threads = Store.put s.threads s.cur (s.me.setReg d v) := rfl
@[simp] theorem State.setReg_icache (s : State) (d : Reg) (v : Word) : (s.setReg d v).icache = s.icache := rfl
@[simp] theorem State.setReg_spad (s : State) (d : Reg) (v : Word) : (s.setReg d v).spad = s.spad := rfl
@[simp] theorem State.setReg_spadPois (s : State) (d : Reg) (v : Word) : (s.setReg d v).spadPois = s.spadPois := rfl
@[simp] theorem State.setReg_tags (s : State) (d : Reg) (v : Word) : (s.setReg d v).tags = s.tags := rfl
@[simp] theorem State.setReg_dram (s : State) (d : Reg) (v : Word) : (s.setReg d v).dram = s.dram := rfl
@[simp] theorem State.setReg_dramPois (s : State) (d : Reg) (v : Word) : (s.setReg d v).dramPois = s.dramPois := rfl
@[simp] theorem State.setReg_maps (s : State) (d : Reg) (v : Word) : (s.setReg d v).maps = s.maps := rfl
@[simp] theorem State.setReg_tlb (s : State) (d : Reg) (v : Word) : (s.setReg d v).tlb = s.tlb := rfl
@[simp] theorem State.setReg_shoots (s : State) (d : Reg) (v : Word) : (s.setReg d v).shoots = s.shoots := rfl
@[simp] theorem State.setReg_accs (s : State) (d : Reg) (v : Word) : (s.setReg d v).accs = s.accs := rfl
@[simp] theorem State.setReg_tens (s : State) (d : Reg) (v : Word) : (s.setReg d v).tens = s.tens := rfl
@[simp] theorem State.setReg_splits (s : State) (d : Reg) (v : Word) : (s.setReg d v).splits = s.splits := rfl
@[simp] theorem State.setReg_treqs (s : State) (d : Reg) (v : Word) : (s.setReg d v).treqs = s.treqs := rfl
@[simp] theorem State.setReg_pushes (s : State) (d : Reg) (v : Word) : (s.setReg d v).pushes = s.pushes := rfl
@[simp] theorem State.setReg_sync (s : State) (d : Reg) (v : Word) : (s.setReg d v).sync = s.sync := rfl
@[simp] theorem State.setReg_launches (s : State) (d : Reg) (v : Word) : (s.setReg d v).launches = s.launches := rfl
@[simp] theorem State.setReg_parts (s : State) (d : Reg) (v : Word) : (s.setReg d v).parts = s.parts := rfl
@[simp] theorem State.setReg_wins (s : State) (d : Reg) (v : Word) : (s.setReg d v).wins = s.wins := rfl
@[simp] theorem State.setReg_eng (s : State) (d : Reg) (v : Word) : (s.setReg d v).eng = s.eng := rfl
@[simp] theorem State.setReg_mod (s : State) (d : Reg) (v : Word) : (s.setReg d v).mod = s.mod := rfl
@[simp] theorem State.setReg_self (s : State) (d : Reg) (v : Word) : (s.setReg d v).self = s.self := rfl
@[simp] theorem State.setReg_frozen (s : State) (d : Reg) (v : Word) : (s.setReg d v).frozen = s.frozen := rfl

/-! ## `orFlags` -/

@[simp] theorem State.orFlags_cycle (s : State) (tid fl : Nat) : (s.orFlags tid fl).cycle = s.cycle := rfl
@[simp] theorem State.orFlags_time (s : State) (tid fl : Nat) : (s.orFlags tid fl).time = s.time := rfl
@[simp] theorem State.orFlags_agenda (s : State) (tid fl : Nat) : (s.orFlags tid fl).agenda = s.agenda := rfl
@[simp] theorem State.orFlags_cur (s : State) (tid fl : Nat) : (s.orFlags tid fl).cur = s.cur := rfl
@[simp] theorem State.orFlags_lastCore (s : State) (tid fl : Nat) : (s.orFlags tid fl).lastCore = s.lastCore := rfl
@[simp] theorem State.orFlags_iss (s : State) (tid fl : Nat) : (s.orFlags tid fl).iss = s.iss := rfl
@[simp] theorem State.orFlags_next (s : State) (tid fl : Nat) : (s.orFlags tid fl).next = s.next := rfl
@[simp] theorem State.orFlags_threads (s : State) (tid fl : Nat) : (s.orFlags tid fl).threads = Store.put s.threads tid { s.thread tid with fst := (s.thread tid).fst ||| word fl } := rfl
@[simp] theorem State.orFlags_icache (s : State) (tid fl : Nat) : (s.orFlags tid fl).icache = s.icache := rfl
@[simp] theorem State.orFlags_spad (s : State) (tid fl : Nat) : (s.orFlags tid fl).spad = s.spad := rfl
@[simp] theorem State.orFlags_spadPois (s : State) (tid fl : Nat) : (s.orFlags tid fl).spadPois = s.spadPois := rfl
@[simp] theorem State.orFlags_tags (s : State) (tid fl : Nat) : (s.orFlags tid fl).tags = s.tags := rfl
@[simp] theorem State.orFlags_dram (s : State) (tid fl : Nat) : (s.orFlags tid fl).dram = s.dram := rfl
@[simp] theorem State.orFlags_dramPois (s : State) (tid fl : Nat) : (s.orFlags tid fl).dramPois = s.dramPois := rfl
@[simp] theorem State.orFlags_maps (s : State) (tid fl : Nat) : (s.orFlags tid fl).maps = s.maps := rfl
@[simp] theorem State.orFlags_tlb (s : State) (tid fl : Nat) : (s.orFlags tid fl).tlb = s.tlb := rfl
@[simp] theorem State.orFlags_shoots (s : State) (tid fl : Nat) : (s.orFlags tid fl).shoots = s.shoots := rfl
@[simp] theorem State.orFlags_accs (s : State) (tid fl : Nat) : (s.orFlags tid fl).accs = s.accs := rfl
@[simp] theorem State.orFlags_tens (s : State) (tid fl : Nat) : (s.orFlags tid fl).tens = s.tens := rfl
@[simp] theorem State.orFlags_splits (s : State) (tid fl : Nat) : (s.orFlags tid fl).splits = s.splits := rfl
@[simp] theorem State.orFlags_treqs (s : State) (tid fl : Nat) : (s.orFlags tid fl).treqs = s.treqs := rfl
@[simp] theorem State.orFlags_pushes (s : State) (tid fl : Nat) : (s.orFlags tid fl).pushes = s.pushes := rfl
@[simp] theorem State.orFlags_sync (s : State) (tid fl : Nat) : (s.orFlags tid fl).sync = s.sync := rfl
@[simp] theorem State.orFlags_launches (s : State) (tid fl : Nat) : (s.orFlags tid fl).launches = s.launches := rfl
@[simp] theorem State.orFlags_parts (s : State) (tid fl : Nat) : (s.orFlags tid fl).parts = s.parts := rfl
@[simp] theorem State.orFlags_wins (s : State) (tid fl : Nat) : (s.orFlags tid fl).wins = s.wins := rfl
@[simp] theorem State.orFlags_eng (s : State) (tid fl : Nat) : (s.orFlags tid fl).eng = s.eng := rfl
@[simp] theorem State.orFlags_mod (s : State) (tid fl : Nat) : (s.orFlags tid fl).mod = s.mod := rfl
@[simp] theorem State.orFlags_self (s : State) (tid fl : Nat) : (s.orFlags tid fl).self = s.self := rfl
@[simp] theorem State.orFlags_frozen (s : State) (tid fl : Nat) : (s.orFlags tid fl).frozen = s.frozen := rfl

/-! ## `block` -/

@[simp] theorem State.block_cycle (s : State) (tid : Nat) (w : Why) : (s.block tid w).cycle = s.cycle := rfl
@[simp] theorem State.block_time (s : State) (tid : Nat) (w : Why) : (s.block tid w).time = s.time := rfl
@[simp] theorem State.block_agenda (s : State) (tid : Nat) (w : Why) : (s.block tid w).agenda = s.agenda := rfl
@[simp] theorem State.block_cur (s : State) (tid : Nat) (w : Why) : (s.block tid w).cur = s.cur := rfl
@[simp] theorem State.block_lastCore (s : State) (tid : Nat) (w : Why) : (s.block tid w).lastCore = s.lastCore := rfl
@[simp] theorem State.block_iss (s : State) (tid : Nat) (w : Why) : (s.block tid w).iss = s.iss := rfl
@[simp] theorem State.block_next (s : State) (tid : Nat) (w : Why) : (s.block tid w).next = s.next := rfl
@[simp] theorem State.block_threads (s : State) (tid : Nat) (w : Why) : (s.block tid w).threads = Store.put s.threads tid { s.thread tid with waits := w :: (s.thread tid).waits } := rfl
@[simp] theorem State.block_icache (s : State) (tid : Nat) (w : Why) : (s.block tid w).icache = s.icache := rfl
@[simp] theorem State.block_spad (s : State) (tid : Nat) (w : Why) : (s.block tid w).spad = s.spad := rfl
@[simp] theorem State.block_spadPois (s : State) (tid : Nat) (w : Why) : (s.block tid w).spadPois = s.spadPois := rfl
@[simp] theorem State.block_tags (s : State) (tid : Nat) (w : Why) : (s.block tid w).tags = s.tags := rfl
@[simp] theorem State.block_dram (s : State) (tid : Nat) (w : Why) : (s.block tid w).dram = s.dram := rfl
@[simp] theorem State.block_dramPois (s : State) (tid : Nat) (w : Why) : (s.block tid w).dramPois = s.dramPois := rfl
@[simp] theorem State.block_maps (s : State) (tid : Nat) (w : Why) : (s.block tid w).maps = s.maps := rfl
@[simp] theorem State.block_tlb (s : State) (tid : Nat) (w : Why) : (s.block tid w).tlb = s.tlb := rfl
@[simp] theorem State.block_shoots (s : State) (tid : Nat) (w : Why) : (s.block tid w).shoots = s.shoots := rfl
@[simp] theorem State.block_accs (s : State) (tid : Nat) (w : Why) : (s.block tid w).accs = s.accs := rfl
@[simp] theorem State.block_tens (s : State) (tid : Nat) (w : Why) : (s.block tid w).tens = s.tens := rfl
@[simp] theorem State.block_splits (s : State) (tid : Nat) (w : Why) : (s.block tid w).splits = s.splits := rfl
@[simp] theorem State.block_treqs (s : State) (tid : Nat) (w : Why) : (s.block tid w).treqs = s.treqs := rfl
@[simp] theorem State.block_pushes (s : State) (tid : Nat) (w : Why) : (s.block tid w).pushes = s.pushes := rfl
@[simp] theorem State.block_sync (s : State) (tid : Nat) (w : Why) : (s.block tid w).sync = s.sync := rfl
@[simp] theorem State.block_launches (s : State) (tid : Nat) (w : Why) : (s.block tid w).launches = s.launches := rfl
@[simp] theorem State.block_parts (s : State) (tid : Nat) (w : Why) : (s.block tid w).parts = s.parts := rfl
@[simp] theorem State.block_wins (s : State) (tid : Nat) (w : Why) : (s.block tid w).wins = s.wins := rfl
@[simp] theorem State.block_eng (s : State) (tid : Nat) (w : Why) : (s.block tid w).eng = s.eng := rfl
@[simp] theorem State.block_mod (s : State) (tid : Nat) (w : Why) : (s.block tid w).mod = s.mod := rfl
@[simp] theorem State.block_self (s : State) (tid : Nat) (w : Why) : (s.block tid w).self = s.self := rfl
@[simp] theorem State.block_frozen (s : State) (tid : Nat) (w : Why) : (s.block tid w).frozen = s.frozen := rfl

/-! ## `unblock` -/

@[simp] theorem State.unblock_cycle (s : State) (tid : Nat) (w : Why) : (s.unblock tid w).cycle = s.cycle := rfl
@[simp] theorem State.unblock_time (s : State) (tid : Nat) (w : Why) : (s.unblock tid w).time = s.time := rfl
@[simp] theorem State.unblock_agenda (s : State) (tid : Nat) (w : Why) : (s.unblock tid w).agenda = s.agenda := rfl
@[simp] theorem State.unblock_cur (s : State) (tid : Nat) (w : Why) : (s.unblock tid w).cur = s.cur := rfl
@[simp] theorem State.unblock_lastCore (s : State) (tid : Nat) (w : Why) : (s.unblock tid w).lastCore = s.lastCore := rfl
@[simp] theorem State.unblock_iss (s : State) (tid : Nat) (w : Why) : (s.unblock tid w).iss = s.iss := rfl
@[simp] theorem State.unblock_next (s : State) (tid : Nat) (w : Why) : (s.unblock tid w).next = s.next := rfl
@[simp] theorem State.unblock_threads (s : State) (tid : Nat) (w : Why) : (s.unblock tid w).threads = Store.put s.threads tid { s.thread tid with waits := (s.thread tid).waits.filter (fun x => decide (x ≠ w)) } := rfl
@[simp] theorem State.unblock_icache (s : State) (tid : Nat) (w : Why) : (s.unblock tid w).icache = s.icache := rfl
@[simp] theorem State.unblock_spad (s : State) (tid : Nat) (w : Why) : (s.unblock tid w).spad = s.spad := rfl
@[simp] theorem State.unblock_spadPois (s : State) (tid : Nat) (w : Why) : (s.unblock tid w).spadPois = s.spadPois := rfl
@[simp] theorem State.unblock_tags (s : State) (tid : Nat) (w : Why) : (s.unblock tid w).tags = s.tags := rfl
@[simp] theorem State.unblock_dram (s : State) (tid : Nat) (w : Why) : (s.unblock tid w).dram = s.dram := rfl
@[simp] theorem State.unblock_dramPois (s : State) (tid : Nat) (w : Why) : (s.unblock tid w).dramPois = s.dramPois := rfl
@[simp] theorem State.unblock_maps (s : State) (tid : Nat) (w : Why) : (s.unblock tid w).maps = s.maps := rfl
@[simp] theorem State.unblock_tlb (s : State) (tid : Nat) (w : Why) : (s.unblock tid w).tlb = s.tlb := rfl
@[simp] theorem State.unblock_shoots (s : State) (tid : Nat) (w : Why) : (s.unblock tid w).shoots = s.shoots := rfl
@[simp] theorem State.unblock_accs (s : State) (tid : Nat) (w : Why) : (s.unblock tid w).accs = s.accs := rfl
@[simp] theorem State.unblock_tens (s : State) (tid : Nat) (w : Why) : (s.unblock tid w).tens = s.tens := rfl
@[simp] theorem State.unblock_splits (s : State) (tid : Nat) (w : Why) : (s.unblock tid w).splits = s.splits := rfl
@[simp] theorem State.unblock_treqs (s : State) (tid : Nat) (w : Why) : (s.unblock tid w).treqs = s.treqs := rfl
@[simp] theorem State.unblock_pushes (s : State) (tid : Nat) (w : Why) : (s.unblock tid w).pushes = s.pushes := rfl
@[simp] theorem State.unblock_sync (s : State) (tid : Nat) (w : Why) : (s.unblock tid w).sync = s.sync := rfl
@[simp] theorem State.unblock_launches (s : State) (tid : Nat) (w : Why) : (s.unblock tid w).launches = s.launches := rfl
@[simp] theorem State.unblock_parts (s : State) (tid : Nat) (w : Why) : (s.unblock tid w).parts = s.parts := rfl
@[simp] theorem State.unblock_wins (s : State) (tid : Nat) (w : Why) : (s.unblock tid w).wins = s.wins := rfl
@[simp] theorem State.unblock_eng (s : State) (tid : Nat) (w : Why) : (s.unblock tid w).eng = s.eng := rfl
@[simp] theorem State.unblock_mod (s : State) (tid : Nat) (w : Why) : (s.unblock tid w).mod = s.mod := rfl
@[simp] theorem State.unblock_self (s : State) (tid : Nat) (w : Why) : (s.unblock tid w).self = s.self := rfl
@[simp] theorem State.unblock_frozen (s : State) (tid : Nat) (w : Why) : (s.unblock tid w).frozen = s.frozen := rfl

/-! ## `setPart` -/

@[simp] theorem State.setPart_cycle (s : State) (p : Nat) (x : Part) : (s.setPart p x).cycle = s.cycle := rfl
@[simp] theorem State.setPart_time (s : State) (p : Nat) (x : Part) : (s.setPart p x).time = s.time := rfl
@[simp] theorem State.setPart_agenda (s : State) (p : Nat) (x : Part) : (s.setPart p x).agenda = s.agenda := rfl
@[simp] theorem State.setPart_cur (s : State) (p : Nat) (x : Part) : (s.setPart p x).cur = s.cur := rfl
@[simp] theorem State.setPart_lastCore (s : State) (p : Nat) (x : Part) : (s.setPart p x).lastCore = s.lastCore := rfl
@[simp] theorem State.setPart_iss (s : State) (p : Nat) (x : Part) : (s.setPart p x).iss = s.iss := rfl
@[simp] theorem State.setPart_next (s : State) (p : Nat) (x : Part) : (s.setPart p x).next = s.next := rfl
@[simp] theorem State.setPart_threads (s : State) (p : Nat) (x : Part) : (s.setPart p x).threads = s.threads := rfl
@[simp] theorem State.setPart_icache (s : State) (p : Nat) (x : Part) : (s.setPart p x).icache = s.icache := rfl
@[simp] theorem State.setPart_spad (s : State) (p : Nat) (x : Part) : (s.setPart p x).spad = s.spad := rfl
@[simp] theorem State.setPart_spadPois (s : State) (p : Nat) (x : Part) : (s.setPart p x).spadPois = s.spadPois := rfl
@[simp] theorem State.setPart_tags (s : State) (p : Nat) (x : Part) : (s.setPart p x).tags = s.tags := rfl
@[simp] theorem State.setPart_dram (s : State) (p : Nat) (x : Part) : (s.setPart p x).dram = s.dram := rfl
@[simp] theorem State.setPart_dramPois (s : State) (p : Nat) (x : Part) : (s.setPart p x).dramPois = s.dramPois := rfl
@[simp] theorem State.setPart_maps (s : State) (p : Nat) (x : Part) : (s.setPart p x).maps = s.maps := rfl
@[simp] theorem State.setPart_tlb (s : State) (p : Nat) (x : Part) : (s.setPart p x).tlb = s.tlb := rfl
@[simp] theorem State.setPart_shoots (s : State) (p : Nat) (x : Part) : (s.setPart p x).shoots = s.shoots := rfl
@[simp] theorem State.setPart_accs (s : State) (p : Nat) (x : Part) : (s.setPart p x).accs = s.accs := rfl
@[simp] theorem State.setPart_tens (s : State) (p : Nat) (x : Part) : (s.setPart p x).tens = s.tens := rfl
@[simp] theorem State.setPart_splits (s : State) (p : Nat) (x : Part) : (s.setPart p x).splits = s.splits := rfl
@[simp] theorem State.setPart_treqs (s : State) (p : Nat) (x : Part) : (s.setPart p x).treqs = s.treqs := rfl
@[simp] theorem State.setPart_pushes (s : State) (p : Nat) (x : Part) : (s.setPart p x).pushes = s.pushes := rfl
@[simp] theorem State.setPart_sync (s : State) (p : Nat) (x : Part) : (s.setPart p x).sync = s.sync := rfl
@[simp] theorem State.setPart_launches (s : State) (p : Nat) (x : Part) : (s.setPart p x).launches = s.launches := rfl
@[simp] theorem State.setPart_parts (s : State) (p : Nat) (x : Part) : (s.setPart p x).parts = Store.put s.parts p x := rfl
@[simp] theorem State.setPart_wins (s : State) (p : Nat) (x : Part) : (s.setPart p x).wins = s.wins := rfl
@[simp] theorem State.setPart_eng (s : State) (p : Nat) (x : Part) : (s.setPart p x).eng = s.eng := rfl
@[simp] theorem State.setPart_mod (s : State) (p : Nat) (x : Part) : (s.setPart p x).mod = s.mod := rfl
@[simp] theorem State.setPart_self (s : State) (p : Nat) (x : Part) : (s.setPart p x).self = s.self := rfl
@[simp] theorem State.setPart_frozen (s : State) (p : Nat) (x : Part) : (s.setPart p x).frozen = s.frozen := rfl

/-! ## `updPart` -/

@[simp] theorem State.updPart_cycle (s : State) (p : Nat) (f : Part → Part) : (s.updPart p f).cycle = s.cycle := rfl
@[simp] theorem State.updPart_time (s : State) (p : Nat) (f : Part → Part) : (s.updPart p f).time = s.time := rfl
@[simp] theorem State.updPart_agenda (s : State) (p : Nat) (f : Part → Part) : (s.updPart p f).agenda = s.agenda := rfl
@[simp] theorem State.updPart_cur (s : State) (p : Nat) (f : Part → Part) : (s.updPart p f).cur = s.cur := rfl
@[simp] theorem State.updPart_lastCore (s : State) (p : Nat) (f : Part → Part) : (s.updPart p f).lastCore = s.lastCore := rfl
@[simp] theorem State.updPart_iss (s : State) (p : Nat) (f : Part → Part) : (s.updPart p f).iss = s.iss := rfl
@[simp] theorem State.updPart_next (s : State) (p : Nat) (f : Part → Part) : (s.updPart p f).next = s.next := rfl
@[simp] theorem State.updPart_threads (s : State) (p : Nat) (f : Part → Part) : (s.updPart p f).threads = s.threads := rfl
@[simp] theorem State.updPart_icache (s : State) (p : Nat) (f : Part → Part) : (s.updPart p f).icache = s.icache := rfl
@[simp] theorem State.updPart_spad (s : State) (p : Nat) (f : Part → Part) : (s.updPart p f).spad = s.spad := rfl
@[simp] theorem State.updPart_spadPois (s : State) (p : Nat) (f : Part → Part) : (s.updPart p f).spadPois = s.spadPois := rfl
@[simp] theorem State.updPart_tags (s : State) (p : Nat) (f : Part → Part) : (s.updPart p f).tags = s.tags := rfl
@[simp] theorem State.updPart_dram (s : State) (p : Nat) (f : Part → Part) : (s.updPart p f).dram = s.dram := rfl
@[simp] theorem State.updPart_dramPois (s : State) (p : Nat) (f : Part → Part) : (s.updPart p f).dramPois = s.dramPois := rfl
@[simp] theorem State.updPart_maps (s : State) (p : Nat) (f : Part → Part) : (s.updPart p f).maps = s.maps := rfl
@[simp] theorem State.updPart_tlb (s : State) (p : Nat) (f : Part → Part) : (s.updPart p f).tlb = s.tlb := rfl
@[simp] theorem State.updPart_shoots (s : State) (p : Nat) (f : Part → Part) : (s.updPart p f).shoots = s.shoots := rfl
@[simp] theorem State.updPart_accs (s : State) (p : Nat) (f : Part → Part) : (s.updPart p f).accs = s.accs := rfl
@[simp] theorem State.updPart_tens (s : State) (p : Nat) (f : Part → Part) : (s.updPart p f).tens = s.tens := rfl
@[simp] theorem State.updPart_splits (s : State) (p : Nat) (f : Part → Part) : (s.updPart p f).splits = s.splits := rfl
@[simp] theorem State.updPart_treqs (s : State) (p : Nat) (f : Part → Part) : (s.updPart p f).treqs = s.treqs := rfl
@[simp] theorem State.updPart_pushes (s : State) (p : Nat) (f : Part → Part) : (s.updPart p f).pushes = s.pushes := rfl
@[simp] theorem State.updPart_sync (s : State) (p : Nat) (f : Part → Part) : (s.updPart p f).sync = s.sync := rfl
@[simp] theorem State.updPart_launches (s : State) (p : Nat) (f : Part → Part) : (s.updPart p f).launches = s.launches := rfl
@[simp] theorem State.updPart_parts (s : State) (p : Nat) (f : Part → Part) : (s.updPart p f).parts = Store.put s.parts p (f (s.part p)) := rfl
@[simp] theorem State.updPart_wins (s : State) (p : Nat) (f : Part → Part) : (s.updPart p f).wins = s.wins := rfl
@[simp] theorem State.updPart_eng (s : State) (p : Nat) (f : Part → Part) : (s.updPart p f).eng = s.eng := rfl
@[simp] theorem State.updPart_mod (s : State) (p : Nat) (f : Part → Part) : (s.updPart p f).mod = s.mod := rfl
@[simp] theorem State.updPart_self (s : State) (p : Nat) (f : Part → Part) : (s.updPart p f).self = s.self := rfl
@[simp] theorem State.updPart_frozen (s : State) (p : Nat) (f : Part → Part) : (s.updPart p f).frozen = s.frozen := rfl

/-! ## `updLaunch` -/

@[simp] theorem State.updLaunch_cycle (s : State) (id : Nat) (f : Launch → Launch) : (s.updLaunch id f).cycle = s.cycle := rfl
@[simp] theorem State.updLaunch_time (s : State) (id : Nat) (f : Launch → Launch) : (s.updLaunch id f).time = s.time := rfl
@[simp] theorem State.updLaunch_agenda (s : State) (id : Nat) (f : Launch → Launch) : (s.updLaunch id f).agenda = s.agenda := rfl
@[simp] theorem State.updLaunch_cur (s : State) (id : Nat) (f : Launch → Launch) : (s.updLaunch id f).cur = s.cur := rfl
@[simp] theorem State.updLaunch_lastCore (s : State) (id : Nat) (f : Launch → Launch) : (s.updLaunch id f).lastCore = s.lastCore := rfl
@[simp] theorem State.updLaunch_iss (s : State) (id : Nat) (f : Launch → Launch) : (s.updLaunch id f).iss = s.iss := rfl
@[simp] theorem State.updLaunch_next (s : State) (id : Nat) (f : Launch → Launch) : (s.updLaunch id f).next = s.next := rfl
@[simp] theorem State.updLaunch_threads (s : State) (id : Nat) (f : Launch → Launch) : (s.updLaunch id f).threads = s.threads := rfl
@[simp] theorem State.updLaunch_icache (s : State) (id : Nat) (f : Launch → Launch) : (s.updLaunch id f).icache = s.icache := rfl
@[simp] theorem State.updLaunch_spad (s : State) (id : Nat) (f : Launch → Launch) : (s.updLaunch id f).spad = s.spad := rfl
@[simp] theorem State.updLaunch_spadPois (s : State) (id : Nat) (f : Launch → Launch) : (s.updLaunch id f).spadPois = s.spadPois := rfl
@[simp] theorem State.updLaunch_tags (s : State) (id : Nat) (f : Launch → Launch) : (s.updLaunch id f).tags = s.tags := rfl
@[simp] theorem State.updLaunch_dram (s : State) (id : Nat) (f : Launch → Launch) : (s.updLaunch id f).dram = s.dram := rfl
@[simp] theorem State.updLaunch_dramPois (s : State) (id : Nat) (f : Launch → Launch) : (s.updLaunch id f).dramPois = s.dramPois := rfl
@[simp] theorem State.updLaunch_maps (s : State) (id : Nat) (f : Launch → Launch) : (s.updLaunch id f).maps = s.maps := rfl
@[simp] theorem State.updLaunch_tlb (s : State) (id : Nat) (f : Launch → Launch) : (s.updLaunch id f).tlb = s.tlb := rfl
@[simp] theorem State.updLaunch_shoots (s : State) (id : Nat) (f : Launch → Launch) : (s.updLaunch id f).shoots = s.shoots := rfl
@[simp] theorem State.updLaunch_accs (s : State) (id : Nat) (f : Launch → Launch) : (s.updLaunch id f).accs = s.accs := rfl
@[simp] theorem State.updLaunch_tens (s : State) (id : Nat) (f : Launch → Launch) : (s.updLaunch id f).tens = s.tens := rfl
@[simp] theorem State.updLaunch_splits (s : State) (id : Nat) (f : Launch → Launch) : (s.updLaunch id f).splits = s.splits := rfl
@[simp] theorem State.updLaunch_treqs (s : State) (id : Nat) (f : Launch → Launch) : (s.updLaunch id f).treqs = s.treqs := rfl
@[simp] theorem State.updLaunch_pushes (s : State) (id : Nat) (f : Launch → Launch) : (s.updLaunch id f).pushes = s.pushes := rfl
@[simp] theorem State.updLaunch_sync (s : State) (id : Nat) (f : Launch → Launch) : (s.updLaunch id f).sync = s.sync := rfl
@[simp] theorem State.updLaunch_launches (s : State) (id : Nat) (f : Launch → Launch) : (s.updLaunch id f).launches = Store.upd s.launches id f := rfl
@[simp] theorem State.updLaunch_parts (s : State) (id : Nat) (f : Launch → Launch) : (s.updLaunch id f).parts = s.parts := rfl
@[simp] theorem State.updLaunch_wins (s : State) (id : Nat) (f : Launch → Launch) : (s.updLaunch id f).wins = s.wins := rfl
@[simp] theorem State.updLaunch_eng (s : State) (id : Nat) (f : Launch → Launch) : (s.updLaunch id f).eng = s.eng := rfl
@[simp] theorem State.updLaunch_mod (s : State) (id : Nat) (f : Launch → Launch) : (s.updLaunch id f).mod = s.mod := rfl
@[simp] theorem State.updLaunch_self (s : State) (id : Nat) (f : Launch → Launch) : (s.updLaunch id f).self = s.self := rfl
@[simp] theorem State.updLaunch_frozen (s : State) (id : Nat) (f : Launch → Launch) : (s.updLaunch id f).frozen = s.frozen := rfl

/-! ## `goTo` -/

@[simp] theorem State.goTo_cycle (s : State) (pc : Word) (left : Nat) : (s.goTo pc left).cycle = s.cycle := rfl
@[simp] theorem State.goTo_time (s : State) (pc : Word) (left : Nat) : (s.goTo pc left).time = s.time := rfl
@[simp] theorem State.goTo_agenda (s : State) (pc : Word) (left : Nat) : (s.goTo pc left).agenda = s.agenda := rfl
@[simp] theorem State.goTo_cur (s : State) (pc : Word) (left : Nat) : (s.goTo pc left).cur = s.cur := rfl
@[simp] theorem State.goTo_lastCore (s : State) (pc : Word) (left : Nat) : (s.goTo pc left).lastCore = s.lastCore := rfl
@[simp] theorem State.goTo_iss (s : State) (pc : Word) (left : Nat) : (s.goTo pc left).iss = { s.iss with moved := true } := rfl
@[simp] theorem State.goTo_next (s : State) (pc : Word) (left : Nat) : (s.goTo pc left).next = s.next := rfl
@[simp] theorem State.goTo_threads (s : State) (pc : Word) (left : Nat) : (s.goTo pc left).threads = Store.put s.threads s.cur { s.me with pc := pc, left := left } := rfl
@[simp] theorem State.goTo_icache (s : State) (pc : Word) (left : Nat) : (s.goTo pc left).icache = s.icache := rfl
@[simp] theorem State.goTo_spad (s : State) (pc : Word) (left : Nat) : (s.goTo pc left).spad = s.spad := rfl
@[simp] theorem State.goTo_spadPois (s : State) (pc : Word) (left : Nat) : (s.goTo pc left).spadPois = s.spadPois := rfl
@[simp] theorem State.goTo_tags (s : State) (pc : Word) (left : Nat) : (s.goTo pc left).tags = s.tags := rfl
@[simp] theorem State.goTo_dram (s : State) (pc : Word) (left : Nat) : (s.goTo pc left).dram = s.dram := rfl
@[simp] theorem State.goTo_dramPois (s : State) (pc : Word) (left : Nat) : (s.goTo pc left).dramPois = s.dramPois := rfl
@[simp] theorem State.goTo_maps (s : State) (pc : Word) (left : Nat) : (s.goTo pc left).maps = s.maps := rfl
@[simp] theorem State.goTo_tlb (s : State) (pc : Word) (left : Nat) : (s.goTo pc left).tlb = s.tlb := rfl
@[simp] theorem State.goTo_shoots (s : State) (pc : Word) (left : Nat) : (s.goTo pc left).shoots = s.shoots := rfl
@[simp] theorem State.goTo_accs (s : State) (pc : Word) (left : Nat) : (s.goTo pc left).accs = s.accs := rfl
@[simp] theorem State.goTo_tens (s : State) (pc : Word) (left : Nat) : (s.goTo pc left).tens = s.tens := rfl
@[simp] theorem State.goTo_splits (s : State) (pc : Word) (left : Nat) : (s.goTo pc left).splits = s.splits := rfl
@[simp] theorem State.goTo_treqs (s : State) (pc : Word) (left : Nat) : (s.goTo pc left).treqs = s.treqs := rfl
@[simp] theorem State.goTo_pushes (s : State) (pc : Word) (left : Nat) : (s.goTo pc left).pushes = s.pushes := rfl
@[simp] theorem State.goTo_sync (s : State) (pc : Word) (left : Nat) : (s.goTo pc left).sync = s.sync := rfl
@[simp] theorem State.goTo_launches (s : State) (pc : Word) (left : Nat) : (s.goTo pc left).launches = s.launches := rfl
@[simp] theorem State.goTo_parts (s : State) (pc : Word) (left : Nat) : (s.goTo pc left).parts = s.parts := rfl
@[simp] theorem State.goTo_wins (s : State) (pc : Word) (left : Nat) : (s.goTo pc left).wins = s.wins := rfl
@[simp] theorem State.goTo_eng (s : State) (pc : Word) (left : Nat) : (s.goTo pc left).eng = s.eng := rfl
@[simp] theorem State.goTo_mod (s : State) (pc : Word) (left : Nat) : (s.goTo pc left).mod = s.mod := rfl
@[simp] theorem State.goTo_self (s : State) (pc : Word) (left : Nat) : (s.goTo pc left).self = s.self := rfl
@[simp] theorem State.goTo_frozen (s : State) (pc : Word) (left : Nat) : (s.goTo pc left).frozen = s.frozen := rfl

/-! ## `stall` -/

@[simp] theorem State.stall_cycle (s : State) (w : Why) : (s.stall w).cycle = s.cycle := rfl
@[simp] theorem State.stall_time (s : State) (w : Why) : (s.stall w).time = s.time := rfl
@[simp] theorem State.stall_agenda (s : State) (w : Why) : (s.stall w).agenda = s.agenda := rfl
@[simp] theorem State.stall_cur (s : State) (w : Why) : (s.stall w).cur = s.cur := rfl
@[simp] theorem State.stall_lastCore (s : State) (w : Why) : (s.stall w).lastCore = s.lastCore := rfl
@[simp] theorem State.stall_iss (s : State) (w : Why) : (s.stall w).iss = { s.iss with stalled := true } := rfl
@[simp] theorem State.stall_next (s : State) (w : Why) : (s.stall w).next = s.next := rfl
@[simp] theorem State.stall_threads (s : State) (w : Why) : (s.stall w).threads = Store.put s.threads s.cur { s.me with waits := w :: s.me.waits } := rfl
@[simp] theorem State.stall_icache (s : State) (w : Why) : (s.stall w).icache = s.icache := rfl
@[simp] theorem State.stall_spad (s : State) (w : Why) : (s.stall w).spad = s.spad := rfl
@[simp] theorem State.stall_spadPois (s : State) (w : Why) : (s.stall w).spadPois = s.spadPois := rfl
@[simp] theorem State.stall_tags (s : State) (w : Why) : (s.stall w).tags = s.tags := rfl
@[simp] theorem State.stall_dram (s : State) (w : Why) : (s.stall w).dram = s.dram := rfl
@[simp] theorem State.stall_dramPois (s : State) (w : Why) : (s.stall w).dramPois = s.dramPois := rfl
@[simp] theorem State.stall_maps (s : State) (w : Why) : (s.stall w).maps = s.maps := rfl
@[simp] theorem State.stall_tlb (s : State) (w : Why) : (s.stall w).tlb = s.tlb := rfl
@[simp] theorem State.stall_shoots (s : State) (w : Why) : (s.stall w).shoots = s.shoots := rfl
@[simp] theorem State.stall_accs (s : State) (w : Why) : (s.stall w).accs = s.accs := rfl
@[simp] theorem State.stall_tens (s : State) (w : Why) : (s.stall w).tens = s.tens := rfl
@[simp] theorem State.stall_splits (s : State) (w : Why) : (s.stall w).splits = s.splits := rfl
@[simp] theorem State.stall_treqs (s : State) (w : Why) : (s.stall w).treqs = s.treqs := rfl
@[simp] theorem State.stall_pushes (s : State) (w : Why) : (s.stall w).pushes = s.pushes := rfl
@[simp] theorem State.stall_sync (s : State) (w : Why) : (s.stall w).sync = s.sync := rfl
@[simp] theorem State.stall_launches (s : State) (w : Why) : (s.stall w).launches = s.launches := rfl
@[simp] theorem State.stall_parts (s : State) (w : Why) : (s.stall w).parts = s.parts := rfl
@[simp] theorem State.stall_wins (s : State) (w : Why) : (s.stall w).wins = s.wins := rfl
@[simp] theorem State.stall_eng (s : State) (w : Why) : (s.stall w).eng = s.eng := rfl
@[simp] theorem State.stall_mod (s : State) (w : Why) : (s.stall w).mod = s.mod := rfl
@[simp] theorem State.stall_self (s : State) (w : Why) : (s.stall w).self = s.self := rfl
@[simp] theorem State.stall_frozen (s : State) (w : Why) : (s.stall w).frozen = s.frozen := rfl

/-! ## Reading back -/

theorem State.thread_setThread (s : State) (a b : Nat) (t : Thread) :
    (s.setThread a t).thread b = if b = a then t else s.thread b := by
  unfold State.thread
  rw [State.setThread_threads, Store.find_put]
  split <;> rfl

@[simp] theorem State.thread_setThread_self (s : State) (a : Nat) (t : Thread) : (s.setThread a t).thread a = t := by
  rw [State.thread_setThread, if_pos rfl]

theorem State.thread_setThread_ne (s : State) {a b : Nat} (t : Thread) (h : b ≠ a) : (s.setThread a t).thread b = s.thread b := by
  rw [State.thread_setThread, if_neg h]

@[simp] theorem State.thread_updThread_self (s : State) (a : Nat) (f : Thread → Thread) :
    (s.updThread a f).thread a = f (s.thread a) := State.thread_setThread_self s a _

theorem State.thread_updThread_ne (s : State) {a b : Nat} (f : Thread → Thread) (h : b ≠ a) :
    (s.updThread a f).thread b = s.thread b := State.thread_setThread_ne s _ h

@[simp] theorem State.me_updMe (s : State) (f : Thread → Thread) : (s.updMe f).me = f s.me :=
  State.thread_setThread_self s s.cur _

@[simp] theorem State.me_setReg (s : State) (d : Reg) (v : Word) : (s.setReg d v).me = s.me.setReg d v :=
  State.me_updMe s _

@[simp] theorem State.me_goTo (s : State) (pc : Word) (left : Nat) :
    (s.goTo pc left).me = { s.me with pc := pc, left := left } :=
  State.thread_setThread_self s s.cur _

@[simp] theorem State.part_setPart_self (s : State) (p : Nat) (x : Part) : (s.setPart p x).part p = x := by
  unfold State.part
  rw [State.setPart_parts, Store.find_put_self]
  rfl

theorem State.part_setPart_ne (s : State) {p q : Nat} (x : Part) (h : q ≠ p) : (s.setPart p x).part q = s.part q := by
  unfold State.part
  rw [State.setPart_parts, Store.find_put_ne _ _ h]

/-! ## Registers of a thread -/

@[simp] theorem Thread.setReg_zero (t : Thread) (v : Word) : t.setReg 0 v = t := rfl

theorem Thread.setReg_g (t : Thread) {d : Reg} (v : Word) (h : d ≠ 0) : (t.setReg d v).g = t.g.set d.toNat v := by
  unfold Thread.setReg
  rw [if_neg h]

/-- The register written holds the value (R112). -/
theorem Thread.setReg_self (t : Thread) {d : Reg} (v : Word) (h : d ≠ 0) : (t.setReg d v).g[d.toNat] = v := by
  have hg := Thread.setReg_g t v h
  simp [hg]

/-- Every other register is as it was. -/
theorem Thread.setReg_other (t : Thread) (d r : Reg) (v : Word) (h : r ≠ d) : (t.setReg d v).g[r.toNat] = t.g[r.toNat] := by
  unfold Thread.setReg
  split
  · rfl
  · have : d.toNat ≠ r.toNat := fun hh => h (BitVec.eq_of_toNat_eq hh.symm)
    simp [Vector.getElem_set_ne, this]

end Sys2Proof.Machine
end

