-- ==== Sys2Proof/Laws/Frames.lean ====
section
/-! SUPPORT. Spec lemmas of the shared operations: everything that a register write, a transfer of control, an access
or a trap can do, once each. -/

namespace Sys2Proof.Machine

theorem sameBytes_refl (s : State) : sameBytes s s := ⟨fun _ => rfl, fun _ => rfl, fun _ => rfl, fun _ => rfl⟩

theorem sameBytes_of_eq {s t : State} (h1 : t.spad = s.spad) (h2 : t.dram = s.dram) (h3 : t.eng = s.eng) : sameBytes s t := by
  refine ⟨fun a => ?_, fun a => ?_, fun a => ?_, fun a => ?_⟩ <;> simp only [h1, h2, h3]

/-- A thread update of the thread in issue touches only that thread. -/
theorem onlyThread_updThread (s : State) (tid : Nat) (f : Thread → Thread) : onlyThread s (s.updThread tid f) tid :=
  ⟨rfl, fun _ hk => State.thread_updThread_ne s f hk⟩

theorem onlyThread_setThread (s : State) (tid : Nat) (x : Thread) : onlyThread s (s.setThread tid x) tid :=
  ⟨rfl, fun _ hk => State.thread_setThread_ne s x hk⟩

/-- What one register write does to a thread (R112, R136). -/
theorem regWrite_setReg (x : Thread) (d : Reg) (v : Word) : regWrite x (x.setReg d v) d v := by
  refine ⟨?_, ?_, ?_, ?_⟩
  · unfold Thread.setReg
    split <;> rfl
  · rintro rfl
    rfl
  · intro h
    refine ⟨Thread.setReg_self x v h, ?_, ?_⟩
    · unfold Thread.setReg
      rw [if_neg h]
      have hd : d.toNat < 32 := d.isLt
      simp [hd]
    · intro h24
      unfold Thread.setReg Thread.present
      rw [if_neg h]
      have hd : d.toNat < 32 := d.isLt
      have hd8 : d.toNat - 24 < 8 := by omega
      simp [h24, hd8]
  · intro r hr
    refine ⟨Thread.setReg_other x d r v hr, ?_, ?_⟩
    · unfold Thread.setReg
      split
      · rfl
      · have hne : r.toNat ≠ d.toNat := fun hh => hr (BitVec.eq_of_toNat_eq hh)
        have hr32 : r.toNat < 32 := r.isLt
        have hlt : ∀ n : Nat, n ≠ 0 → (1#32).getLsbD n = false := by
          intro n hn
          simp [BitVec.getLsbD_one, hn]
        simp only [BitVec.getLsbD_and, BitVec.getLsbD_not, BitVec.getLsbD_shiftLeft, hr32, decide_true, Bool.true_and]
        by_cases hlt' : r.toNat < d.toNat
        · simp [hlt']
        · simp [hlt', show r.toNat - d.toNat ≠ 0 by omega]
    · intro h24
      unfold Thread.setReg Thread.present
      split
      · rfl
      · have hne : r.toNat ≠ d.toNat := fun hh => hr (BitVec.eq_of_toNat_eq hh)
        have hr32 : r.toNat < 32 := r.isLt
        by_cases hd : 24 ≤ d.toNat
        · simp only [hd, if_true, BitVec.getLsbD_or, BitVec.getLsbD_shiftLeft]
          by_cases hlt' : r.toNat - 24 < d.toNat - 24
          · simp [hlt']
          · simp [hlt', BitVec.getLsbD_one, show r.toNat - 24 - (d.toNat - 24) ≠ 0 by omega]
        · simp [hd]

/-- The whole effect of a slot that writes one register. -/
theorem writesReg_setReg (s : State) (d : Reg) (v : Word) : writesReg s (s.setReg d v) d v := by
  refine ⟨onlyThread_updThread s s.cur (·.setReg d v), sameBytes_of_eq rfl rfl rfl, ?_⟩
  rw [State.me_setReg]
  exact regWrite_setReg s.me d v

/-- The whole effect of a transfer of control. -/
theorem movesTo_goTo (s : State) (pc : Word) (left : Nat) : movesTo s (s.goTo pc left) pc left := by
  refine ⟨⟨rfl, fun k hk => ?_⟩, sameBytes_of_eq rfl rfl rfl, State.me_goTo s pc left, rfl⟩
  exact State.thread_setThread_ne s _ hk

/-- What a core's hardware asks another module for: everything that `State.askHome` can do. -/
theorem State.askHome_asks (s : State) (h tid id : Nat) (l : Word) (op : HwOp) :
    s.asksFor (s.askHome h tid id l op) h tid id l op := rfl

/-- A line that joins an instruction cache changes nothing else. -/
theorem State.putLine_frame (s : State) (tid : Nat) (code : Word) (off : Nat) (ws : List Word) (node : Nat) (far : Option Nat) :
    s.putLine tid code off ws node far = { s with icache := (s.putLine tid code off ws node far).icache } := rfl

end Sys2Proof.Machine
end

