-- ==== Sys2Proof/Laws/Ops.lean ====
section
/-! SUPPORT. How a meaning under way runs, one equation per primitive, and the spec lemmas of sending an access and of a
reply: with `bind_assoc` these rewrite a meaning to its next state without unfolding the monad. -/

namespace Sys2Proof.Machine

/-! ## Running a meaning -/

/-- A meaning starts where it began. -/
theorem runOp_eq (m : Op Unit) (s : State) : runOp m s = runFrom s m s := rfl

@[simp] theorem runFrom_pure (s0 s : State) : runFrom s0 (pure ()) s = .next s := rfl
@[simp] theorem runFrom_opMod (s0 : State) (f : State → State) (s : State) : runFrom s0 (opMod f) s = .next (f s) := rfl
@[simp] theorem runFrom_opTrap (s0 : State) (c : Nat) (v : Word) (s : State) : runFrom s0 (opTrap c v) s = .next (s.trap c v) := rfl
@[simp] theorem runFrom_opWait (s0 : State) (w : Why) (s : State) : runFrom s0 (opWait w) s = .next (s0.stall w) := rfl
@[simp] theorem runFrom_pure_bind {α : Type} (s0 : State) (a : α) (k : α → Op Unit) (s : State) :
    runFrom s0 ((pure a : Op α) >>= k) s = runFrom s0 (k a) s := rfl
@[simp] theorem runFrom_opGet_bind (s0 : State) (k : State → Op Unit) (s : State) :
    runFrom s0 (opGet >>= k) s = runFrom s0 (k s) s := rfl
@[simp] theorem runFrom_opMod_bind (s0 : State) (f : State → State) (k : Unit → Op Unit) (s : State) :
    runFrom s0 (opMod f >>= k) s = runFrom s0 (k ()) (f s) := rfl
@[simp] theorem runFrom_opTrap_bind {α : Type} (s0 : State) (c : Nat) (v : Word) (k : α → Op Unit) (s : State) :
    runFrom s0 ((opTrap c v : Op α) >>= k) s = .next (s.trap c v) := rfl
@[simp] theorem runFrom_opWait_bind {α : Type} (s0 : State) (w : Why) (k : α → Op Unit) (s : State) :
    runFrom s0 ((opWait w : Op α) >>= k) s = .next (s0.stall w) := rfl
@[simp] theorem runFrom_opOk_ok {α : Type} (s0 : State) (a : α) (k : α → Op Unit) (s : State) :
    runFrom s0 (opOk (.ok a) >>= k) s = runFrom s0 (k a) s := rfl
@[simp] theorem runFrom_opOk_error {α : Type} (s0 : State) (c : Nat) (v : Word) (k : α → Op Unit) (s : State) :
    runFrom s0 (opOk (.error (c, v)) >>= k) s = .next (s.trap c v) := rfl
@[simp] theorem runFrom_opCheck_true (s0 : State) (c : Nat) (v : Word) (k : Unit → Op Unit) (s : State) :
    runFrom s0 (opCheck true c v >>= k) s = runFrom s0 (k ()) s := rfl
@[simp] theorem runFrom_opCheck_false (s0 : State) (c : Nat) (v : Word) (k : Unit → Op Unit) (s : State) :
    runFrom s0 (opCheck false c v >>= k) s = .next (s.trap c v) := rfl

/-- A check passes on, or traps with nothing changed. -/
theorem runFrom_opCheck (s0 : State) (b : Bool) (c : Nat) (v : Word) (k : Unit → Op Unit) (s : State) :
    runFrom s0 (opCheck b c v >>= k) s = if b then runFrom s0 (k ()) s else .next (s.trap c v) := by
  cases b <;> rfl

/-! ## Accesses and replies -/

/-- The whole effect of putting an access in flight that no packet carries: one to a label, or to the issuing router. -/
theorem sends_sendAccess (s : State) (place : Place) (n : Nat) (op : AccOp) (d : Reg) (ord : MemOrd) (scope : Nat)
    (st : AccState) (o : Nat)
    (h : ∀ x : State, (x.inject s.next (s.access place n op d ord scope st o)).request s.next
      (s.access place n op d ord scope st o) = x) :
    sends s (s.sendAccess place n op d ord scope st o) (s.access place n op d ord scope st o) := by
  have e : s.sendAccess place n op d ord scope st o
      = State.block { s with accs := Store.put s.accs s.next (s.access place n op d ord scope st o), next := s.next + 1 } s.cur
          (.access s.next) := by
    unfold State.sendAccess
    exact congrArg (fun x => State.block x s.cur (.access s.next)) (h _)
  rw [e]
  refine ⟨rfl, Store.find_put_self _ _ _, fun k hk => Store.find_put_ne _ _ hk, fun k hk => ?_, ?_⟩
  · exact State.thread_updThread_ne _ _ hk
  · exact State.thread_updThread_self _ _ _

/-- The whole effect of an operation performed at its home. -/
theorem sends_sendReply (s : State) (l : Word) (d : Reg) (v : Word) (shoot : Option Nat) :
    sends s (s.sendReply l d (some v) shoot) (s.replyAccess l d v shoot) := by
  obtain ⟨h1, h2, h3, h4, h5⟩ := sends_sendAccess s (.glob 0 none 0 l) 0 (.reply none) d .plain 3 (.performed (some v) 0)
    (Place.glob 0 none 0 l).order (fun _ => rfl)
  unfold State.sendReply
  refine ⟨?_, ?_, fun k hk => ?_, h4, h5⟩
  · rw [h1]
  · refine (Store.find_upd_self _ _ _).trans ?_
    rw [h2]
    rfl
  · exact (Store.find_upd_ne _ _ hk).trans (h3 k hk)

/-- A register write that a bundle holding nothing back brings to its thread, in a record with its reply taken out. -/
theorem answers_reply {k : Nat} {a : Access} {v w : Option Word} (hst : a.state = .performed v 0) (hop : a.op = .reply w)
    (hh : a.hold = Held.none) : answers k a v := by
  intro u hk hd
  have e : exec (.accessReply k) u = .next ((((({ u with accs := Store.del u.accs k }).unblock a.tid (.access k)).settleHeld a.tid
      a.hold).finishAccess a.tid a.dreg v 0).noteProbe a) := by
    simp only [exec, execAccessReply, hk, hst, hd, if_true]
  have p (x : State) : x.noteProbe a = x := by
    unfold State.noteProbe
    simp only [hop]
  rw [p, hh] at e
  generalize hy : ({ u with accs := Store.del u.accs k } : State) = y at e
  generalize hz : (y.unblock a.tid (.access k)).settleHeld a.tid Held.none = z at e
  have hz1 : z = State.updThread (y.unblock a.tid (.access k)) a.tid (fun t => { t with pres := t.pres &&& ~~~ 0 }) := hz.symm
  have hyt (j : Nat) : y.thread j = u.thread j := by rw [← hy]; rfl
  have hne (j : Nat) (hj : j ≠ a.tid) : z.thread j = u.thread j := by
    rw [hz1, State.thread_updThread_ne _ _ hj, State.unblock, State.thread_updThread_ne _ _ hj, hyt]
  have hself : z.thread a.tid
      = { u.thread a.tid with waits := (u.thread a.tid).waits.filter (fun x => decide (x ≠ .access k)) } := by
    rw [hz1, State.thread_updThread_self, State.unblock, State.thread_updThread_self, hyt]
    have h (b : BitVec 8) : b &&& ~~~ 0 = b := by
      rw [show (~~~ 0 : BitVec 8) = BitVec.allOnes 8 from rfl]
      exact BitVec.and_allOnes
    rw [h]
  have hrec : z = { u with accs := Store.del u.accs k, threads := z.threads } := by rw [hz1, ← hy]; rfl
  cases v with
  | none => exact ⟨z, e, hrec, hne, hself⟩
  | some x =>
    refine ⟨z.updThread a.tid (·.setReg a.dreg x), e, ?_, fun j hj => ?_, ?_⟩
    · conv_lhs => rw [hrec]
      rfl
    · rw [State.thread_updThread_ne _ _ hj, hne j hj]
    · rw [State.thread_updThread_self, hself]
      exact regWrite_setReg _ _ _

/-- An instruction whose meaning ends with a reply. -/
theorem replies_of_exec {i : Instr} {s s1 : State} {l : Word} {d : Reg} {v : Word} {shoot : Option Nat}
    (h : exec i s = .next (s1.sendReply l d (some v) shoot)) : replies i s s1 l d v shoot :=
  ⟨⟨_, h, sends_sendReply s1 l d v shoot⟩, answers_reply rfl rfl rfl⟩

/-- An instruction whose whole effect is a register write. -/
theorem results_of_exec {i : Instr} {s : State} {d : Reg} {v w : Word} (h : exec i s = .next (s.setReg d v)) (e : v = w) :
    results i s d w := by
  subst e
  exact ⟨_, h, writesReg_setReg s d v⟩

end Sys2Proof.Machine
end

