-- ==== Sys2Proof/Tests/Slice0.lean ====
section
/-! SUPPORT. The author's own tests: words of the spec's tables, ill-formed terms, single steps, and for every statement
with hypotheses a state and operands that meet them. -/

open Sys2Proof Sys2Proof.Machine

set_option Elab.async false

/-! ## Decoding: words written out in the spec's tables of encodings -/

-- Table 8.7
theorem test_add_word : decodeScalar 0x04A32000 = .ok (.add 5 3 4) := by decide
theorem test_movi_word : decodeScalar 0x24A00050 = .ok (.movi 5 0x50) := by decide
theorem test_movh_word : decodeScalar 0x28A50002 = .ok (.movh 5 5 2) := by decide
theorem test_cmp_word : decodeScalar 0x2E230800 = .ok (.cmp .ltn 1 3 1) := by decide
-- Table 6.18
theorem test_cmpi_word : decodeScalar 0x30A10000 = .ok (.cmpi .ne 1 1 0) := by decide
theorem test_addi_word : decodeScalar 0x0821FFFF = .ok (.addi 1 1 0xFFFF) := by decide
theorem test_b_word : decodeScalar 0x37FFFFFD = .ok (.b 0x3FFFFFD) := by decide
-- Table 8.7
theorem test_bal_word : decodeScalar 0x3800001A = .ok (.bal 26) := by decide
theorem test_brx_word : decodeScalar 0x3C1E0000 = .ok (.brx 0 30) := by decide
-- after Table 6.18
theorem test_ldg_word : decodeScalar 0x48A21CA8 = .ok (.ldg 5 2 3 .b32 .acq .die true) := by decide
-- Table 8.7
theorem test_stg_word : decodeScalar 0x4CA21D30 = .ok (.stg 5 2 3 .b32 .rel .mod) := by decide
theorem test_amog_word : decodeScalar 0x54A21C09 = .ok (.amog 5 2 3 .b32 .plain .core .fadd) := by decide
theorem test_casg_word : decodeScalar 0x5CC21FB0 = .ok (.casg 6 2 3 .b64 .acqRel .mod) := by decide
theorem test_fence_word : decodeScalar 0x60000150 = .ok (.fence .rel .sys) := by decide
theorem test_mfs_word : decodeScalar 0x90E00000 = .ok (.mfs 7 0) := by decide
theorem test_mts_word : decodeScalar 0x94800008 = .ok (.mts 4 8) := by decide
theorem test_trap_word : decodeScalar 0x98000007 = .ok (.trap 7) := by decide
theorem test_eret_word : decodeScalar 0xC0000000 = .ok (.eret) := by decide
-- Table 9.9
theorem test_lcan_word : decodeScalar 0x64A20006 = .ok (.lcan 5 2) := by decide
theorem test_lins_word : decodeScalar 0x68A21800 = .ok (.lins 5 2 3) := by decide
theorem test_lmov_word : decodeScalar 0x68A21809 = .ok (.lmov 5 2 3 .redirect) := by decide
theorem test_lreb_word : decodeScalar 0x68A21812 = .ok (.lreb 5 2 3 .fault) := by decide
theorem test_tspl_word : decodeScalar 0x6D220200 = .ok (.tspl 9 2) := by decide
theorem test_tdsc_word : decodeScalar 0x6D220330 = .ok (.tdsc 9 2 .mod) := by decide
theorem test_tqry_word : decodeScalar 0x6D220400 = .ok (.tqry 9 2) := by decide
theorem test_send_word : decodeScalar 0x73274000 = .ok (.send 25 7 8) := by decide
theorem test_testp_word : decodeScalar 0x74B90002 = .ok (.testp 5 25) := by decide
theorem test_swadd_word : decodeScalar 0x780F2811 = .ok (.swadd 15 5 .tile) := by decide
theorem test_bwarr_word : decodeScalar 0x78B40034 = .ok (.bwarr 5 20 .mod) := by decide
theorem test_bwwait_word : decodeScalar 0x78142805 = .ok (.bwwait 20 5) := by decide
-- Table 6.18
theorem test_exit_word : decodeScalar 0x84000003 = .ok (.exit) := by decide
-- Table 11.10
theorem test_cpyqt_word : decodeScalar 0x80AA0001 = .ok (.cpyqt 5 10) := by decide
theorem test_dtqry_word : decodeScalar 0xA0C50001 = .ok (.dtqry 6 5) := by decide
theorem test_swin_word : decodeScalar 0xA0042802 = .ok (.swin 4 5) := by decide
theorem test_pclose_word : decodeScalar 0x9CA21800 = .ok (.pclose 5 2 3) := by decide
-- Table 18.10
theorem test_hvc_word : decodeScalar 0xC4000001 = .ok (.hvc 1) := by decide
theorem test_mfp_word : decodeScalar 0xC8A00120 = .ok (.mfp 5 0x120) := by decide
theorem test_mtp_word : decodeScalar 0xCD000126 = .ok (.mtp 8 0x126) := by decide
theorem test_lminv_word : decodeScalar 0xD0021800 = .ok (.lminv 2 3) := by decide
theorem test_lminv_vf_word : decodeScalar 0xD0000001 = .ok (.lminvVf) := by decide
theorem test_sstop_cancel_word : decodeScalar 0xD4020001 = .ok (.sstopCancel 2) := by decide
theorem test_qctl_reset_word : decodeScalar 0xD8A20003 = .ok (.qreset 5 2) := by decide
theorem test_partx_save_word : decodeScalar 0xDCA21800 = .ok (.partxSave 5 2 3) := by decide
-- Table 6.18
theorem test_vadd_word : decodeVector 0x04853400 = .ok (.vadd 4 5 6 .f32 (.fixed .rne)) := by decide
-- Table 10.9
theorem test_vsub_word : decodeVector 0x04C53C01 = .ok (.vsub 6 5 7 .f32 (.fixed .rne)) := by decide
theorem test_vred_word : decodeVector 0x19250401 = .ok (.vred 9 5 .f32 (.fixed .rne) .max) := by decide
theorem test_vfma_word : decodeVector 0x08853510 = .ok (.vfma 4 5 6 .bf16 .dyn) := by decide
theorem test_vexp_word : decodeVector 0x0CA40415 = .ok (.vexp 5 4 .f32 .dyn) := by decide
theorem test_vcmp_word : decodeVector 0x10E42C02 = .ok (.vcmp 7 4 5 .f32 .lt) := by decide
theorem test_vsel_word : decodeVector 0x14E84C00 = .ok (.vsel 7 8 9 .f32) := by decide
theorem test_vpack_word : decodeVector 0x25440600 = .ok (.vpack 10 4 (.fixed .rne)) := by decide
theorem test_vunpk_word : decodeVector 0x296A0410 = .ok (.vunpk 11 10 .f32 .dyn) := by decide
theorem test_vgath_word : decodeVector 0x2CE42C02 = .ok (.vgath 7 4 5 .f32) := by decide
theorem test_viota_word : decodeVector 0x2CE00104 = .ok (.viota 7 .s32) := by decide
theorem test_vpart_word : decodeVector 0x31043800 = .ok (.vpart 8 4 7) := by decide
-- Table 11.10
theorem test_mldb_word : decodeVector 0x40850500 = .ok (.mldb 4 5 .bf16) := by decide
theorem test_mma_word : decodeVector 0x40853611 = .ok (.mma 4 5 6 .q4x .dyn) := by decide
theorem test_mdrn_om_word : decodeVector 0x41095404 = .ok (.mdrnOm 8 9 10 .f32 (.fixed .rne)) := by decide
theorem test_mstat_word : decodeVector 0x40A00005 = .ok (.mstat 5) := by decide
theorem test_cvj_word : decodeVector 0x44850000 = .ok (.cvj 4 5) := by decide

/-! ## Ill-formed words and terms, each refused -/

theorem test_refuses_unassigned_op : decodeScalar 0xA4000000 = .error .opcode := by decide
theorem test_refuses_skip_zero : decodeScalar 0x30810000 = .error .scalarField := by decide
theorem test_refuses_plain_with_scope : decodeScalar 0x48A21C20 = .error .scalarField := by decide
theorem test_refuses_casg_odd_pair : decodeScalar 0x5CE21FB0 = .error .scalarField := by decide
theorem test_refuses_snop_bits : decodeScalar 0x00000001 = .error .scalarField := by decide
theorem test_refuses_channel_field : decodeScalar 0x72E74000 = .error .scalarField := by decide
theorem test_refuses_unassigned_vop : decodeVector 0x34000000 = .error .vectorSlot := by decide
theorem test_refuses_rounded_integer_vadd : decodeVector 0x04853120 = .error .vectorSlot := by decide
theorem test_refuses_dyn_with_rnd : decodeVector 0x04853430 = .error .vectorSlot := by decide
theorem test_ill_formed_cmp_skip : Instr.wf (.cmp .eq 0 1 2) = false := by decide
theorem test_ill_formed_cmpi_bit : Instr.wf (.cmpi .bs 1 1 64) = false := by decide
theorem test_ill_formed_load_scope : Instr.wf (.ldl 1 2 3 .b64 .plain .tile false) = false := by decide
theorem test_ill_formed_load_sx : Instr.wf (.ldg 1 2 3 .b64 .acq .mod true) = false := by decide
theorem test_ill_formed_store_scope : Instr.wf (.stg 1 2 3 .b8 .plain .sys) = false := by decide
theorem test_ill_formed_atomic_size : Instr.wf (.amol 1 2 3 .b8 .plain .core .add) = false := by decide
theorem test_ill_formed_fadd_size : Instr.wf (.amog 1 2 3 .b64 .plain .core .fadd) = false := by decide
theorem test_ill_formed_cas_pair : Instr.wf (.casl 3 1 2 .b64 .plain .core) = false := by decide
theorem test_ill_formed_cas_zero : Instr.wf (.casg 0 1 2 .b64 .plain .core) = false := by decide
theorem test_ill_formed_fence_plain : Instr.wf (.fence .plain .core) = false := by decide
theorem test_ill_formed_lreb_stub : Instr.wf (.lreb 1 2 3 .noStub) = false := by decide
theorem test_ill_formed_send_channel : Instr.wf (.send 23 1 2) = false := by decide
theorem test_ill_formed_waitp_channel : Instr.wf (.waitp 5) = false := by decide
theorem test_ill_formed_cpyq_first : Instr.wf (.cpyq 29) = false := by decide
theorem test_ill_formed_mfs_number : Instr.wf (.mfs 1 16) = false := by decide
theorem test_ill_formed_mts_read_only : Instr.wf (.mts 1 4) = false := by decide
theorem test_ill_formed_mfp_number : Instr.wf (.mfp 1 0x10D) = false := by decide
theorem test_ill_formed_vadd_rounding : Instr.wf (.vadd 1 2 3 .s32 .dyn) = false := by decide
theorem test_ill_formed_vmin_type : Instr.wf (.vmin 1 2 3 .q4x) = false := by decide
theorem test_ill_formed_vand_type : Instr.wf (.vand 1 2 3 .f32) = false := by decide
theorem test_ill_formed_vfma_type : Instr.wf (.vfma 1 2 3 .s32 .dyn) = false := by decide
theorem test_ill_formed_vabs_type : Instr.wf (.vabs 1 2 .n8) = false := by decide
theorem test_ill_formed_vred_type : Instr.wf (.vred 1 2 .f32 (.fixed .rne) .and) = false := by decide
theorem test_ill_formed_vscan_rounding : Instr.wf (.vscan 1 2 .s8 .dyn .sum) = false := by decide
theorem test_ill_formed_vcvt_type : Instr.wf (.vcvt 1 2 .q4x .dyn) = false := by decide
theorem test_ill_formed_mldb_type : Instr.wf (.mldb 1 2 .f32) = false := by decide
theorem test_ill_formed_mma_rounding : Instr.wf (.mma 1 2 3 .s8 .dyn) = false := by decide
theorem test_ill_formed_mdrn_type : Instr.wf (.mdrn 1 2 3 .f8 .dyn) = false := by decide

/-! ## Helper states -/

/-- A state whose thread 1 (tile 0, M-core, slot 1) is in issue at a header, with a launch on tile 0, partition 0 bound to
virtual function 0 and entered at the same code node for its traps. -/
def testBase : State :=
  let s := State.reset.placeWord .snop 0
  { s with agenda := [], cur := 1, parts := [(0, { (s.part 0) with scode := placedLabel })], icache := [] }

/-- The same with registers set. -/
def testRegs (l : List (Reg × Word)) : State := l.foldl (fun s p => s.setReg p.1 p.2) testBase

/-- The same with the thread changed. -/
def testThread (f : Thread → Thread) : State := testBase.updMe f

/-- The same with a word of the code node written. -/
def testCode (off : Nat) (w : Word) : State :=
  { testBase with dram := testBase.dram.writeLe ((testBase.maps.frames.headD 0) * 65536 + off) 8 w.toNat }

/-- What holds of the state that an instruction or event answers. -/
def answers (i : Instr) (s : State) (p : State → Bool) : Bool :=
  match exec i s with
  | .next t => p t
  | .fault _ | .refused _ => false

/-! ## Scalar slot, control registers, traps and returns -/

theorem test_add_wraps : answers (.add 3 1 2) (testRegs [(1, BitVec.allOnes 64), (2, 2)]) (fun t => decide (t.reg 3 = 1)) = true := by decide
theorem test_mulh_sign : answers (.mulh 3 1 2) (testRegs [(1, BitVec.allOnes 64), (2, 2)]) (fun t => decide (t.reg 3 = BitVec.allOnes 64)) = true := by decide
theorem test_div_zero : answers (.div 3 1 0) (testRegs [(1, 7)]) (fun t => decide (t.reg 3 = BitVec.allOnes 64)) = true := by decide
theorem test_rem_sign : answers (.rem 3 1 2) (testRegs [(1, -7), (2, 2)]) (fun t => decide (t.reg 3 = -1)) = true := by decide
theorem test_sra_sign : answers (.srai 3 1 63) (testRegs [(1, 0x8000000000000000)]) (fun t => decide (t.reg 3 = BitVec.allOnes 64)) = true := by decide
theorem test_clz_zero : answers (.clz 3 1) (testRegs [(1, 0)]) (fun t => decide (t.reg 3 = 64)) = true := by decide
theorem test_movh_shifts : answers (.movh 3 1 0x9040) (testRegs [(1, 0x50)]) (fun t => decide (t.reg 3 = 0x509040)) = true := by decide
theorem test_g0_discards : answers (.addi 0 1 5) (testRegs [(1, 1)]) (fun t => decide (t.reg 0 = 0)) = true := by decide

theorem witness_compare_and_skip :
    ¬ (testBase.reg 0).toInt < (testBase.reg 0).toInt ∧ testBase.reg 0 = 0 ∧ (testRegs [(1, 1)]).reg 1 ≠ 0 := by decide
theorem witness_branches : testBase.targetCheck 1 placedLabel 0 = none := by decide
theorem witness_branch_target_checks :
    (∃ x, testBase.codeNode (testBase.mapOf 1) placedLabel = some x ∧ x.2.extent < 0x10000 - 7 + 8)
    ∧ testBase.peekCode 1 placedLabel 8 = some 0
    ∧ (testCode 16 0xFC00000000000000).peekCode 1 placedLabel 16 = some 0xFC00000000000000
    ∧ testBase.peekCode 1 placedLabel 0 = some 0xFC04000000000000 := by
  refine ⟨?_, by decide, by decide, by decide⟩
  exact ⟨_, rfl, by decide⟩

theorem witness_control_registers :
    (testBase.partOf testBase.cur = some 0) ∧ (49152 ≤ ({ testBase with cur := 49343 } : State).cur)
    ∧ (testRegs [(1, 0x7F)]).reg 1 &&& 0xFFFFFFFFFFFFFF80 = 0 ∧ (testRegs [(1, 0x80)]).reg 1 &&& 0xFFFFFFFFFFFFFF80 ≠ 0 := by
  decide
theorem witness_user_trap_entry :
    let s := testThread (fun t => { t with uvec := 1 })
    let r := testThread (fun t => { t with uvec := 9 })
    (s.thread 1).level = 0 ∧ (s.thread 1).uvec.getLsbD 0 = true ∧ (s.thread 1).ucause.getLsbD 63 = false
    ∧ s.targetCheck 1 (s.thread 1).code 0 = none ∧ (r.thread 1).uvec.getLsbD 0 = true ∧ r.targetCheck 1 (r.thread 1).code 8 = some (0x03, 0)
    ∧ (testBase.thread 1).uvec.getLsbD 0 = false := by decide
theorem witness_frame_entry :
    let s := testThread (fun t => { t with sys := { t.sys with svec := 1 } })
    let r := testThread (fun t => { t with sys := { t.sys with svec := 9 } })
    let q := testThread (fun t => { t with sys := { t.sys with svec := 1, scause := 0x8000000000000000 } })
    (s.thread 1).sys.scause.getLsbD 63 = false ∧ (s.thread 1).sys.svec.getLsbD 0 = true ∧ s.targetCheck 1 placedLabel 0 = none
    ∧ r.targetCheck 1 placedLabel 8 = some (0x03, 0) ∧ (q.thread 1).sys.scause.getLsbD 63 = true
    ∧ (testBase.thread 1).sys.svec.getLsbD 0 = false ∧ (s.part ((s.partOf 1).getD 0)).scode = placedLabel := by decide
theorem witness_escalation :
    ((testThread (fun t => { t with level := 3 })).thread 1).level = 3 ∧ (testBase.thread 1).level ≠ 3 := by decide
theorem witness_returns :
    let user (e : Word) : State := testThread (fun t => { t with ucause := 0x8000000000000014, uepc := e })
    let frame (c : Word) : State := testThread (fun t => { t with level := 1, sys := { t.sys with scause := c, sxcode := placedLabel } })
    (testBase.me.level = 0 ∧ testBase.me.ucause.getLsbD 63 = false)
    ∧ ((user 8).me.ucause.getLsbD 63 = true ∧ (user 8).targetCheck 1 placedLabel 8 = some (0x03, 0))
    ∧ ((user 0).targetCheck 1 placedLabel 0 = none)
    ∧ ((frame 0).me.level ≠ 0 ∧ (frame 0).me.sys.scause.getLsbD 63 = false)
    ∧ ((frame 0xA000000000000014).me.level.toNat < ((frame 0xA000000000000014).me.sys.scause.extractLsb' 60 2).toNat)
    ∧ ((frame 0x9000000000000014).me.sys.scause.getLsbD 63 = true
      ∧ ((frame 0x9000000000000014).me.sys.scause.extractLsb' 60 2).toNat ≤ (frame 0x9000000000000014).me.level.toNat
      ∧ (frame 0x9000000000000014).targetCheck 1 placedLabel 0 = none)
    ∧ (testThread (fun t => { t with level := 1, sys := { t.sys with scause := 0x9000000000000014, sxcode := placedLabel, sepc := 8 } })).targetCheck 1
        placedLabel 8 = some (0x03, 0) := by decide
theorem witness_traps_and_calls :
    let s := testThread (fun t => { t with uvec := 1 })
    let r := testThread (fun t => { t with sys := { t.sys with svec := 1 } })
    s.me.level = 0 ∧ s.me.uvec.getLsbD 0 = true ∧ s.me.ucause.getLsbD 63 = false ∧ s.targetCheck 1 s.me.code 0 = none
    ∧ r.me.uvec.getLsbD 0 = false ∧ r.me.sys.scause.getLsbD 63 = false ∧ r.me.sys.svec.getLsbD 0 = true ∧ r.targetCheck 1 placedLabel 0 = none := by
  decide
theorem test_trap_enters : answers (.trap 7) (testThread (fun t => { t with uvec := 1 })) (fun t => decide (t.me.ucause = 0x8000000000000014
    ∧ t.me.uval = 7 ∧ t.me.pc = 0 ∧ t.iss.trapped = true)) = true := by decide
theorem test_hvc_posts : answers (.hvc 1) (testThread (fun t => { t with level := 1 })) (fun t => decide (t.me.waits = [.call]
    ∧ ((Store.find t.sync.calls 8).getD []).length = 1)) = true := by decide

/-! ## Memory -/

/-- A tensor of sixteen f32 elements under root 2, with its page at frame 1; a directory under root 4 with one child, a
tensor on the same storage kind; and root 3, whose home is module 2. -/
def testTensor : Node :=
  { vf := 0, kind := 1, order := 1, enc := false, ro := false, sup := false, extent := 64, home := 1
    words := ⟨#[0x8000000000000000, 0x0000000100000010, 0x0000000100000001, 0, 0], rfl⟩, kids := [], pages := [(0, .present 1)] }

def testDir : Node :=
  { vf := 0, kind := 0, order := 1, enc := false, ro := false, sup := false, extent := 0, home := 1
    words := Vector.replicate 5 0, kids := [(1, 384)], pages := [] }

def testData : State :=
  { testBase with maps := { testBase.maps with
    nodes := testBase.maps.nodes ++ [(256, testTensor), (320, testDir), (384, { testTensor with pages := [(0, .present 2)] })]
    roots := testBase.maps.roots ++ [(2, (1, 256)), (3, (2, 0)), (4, (1, 320))], nextDesc := 512, frames := 1 :: 2 :: testBase.maps.frames } }

/-- The same with registers set. -/
def testDataRegs (l : List (Reg × Word)) : State := l.foldl (fun s p => s.setReg p.1 p.2) testData

/-- The tensor's label. -/
def testLabel : Word := 0x0020000000000000

/-- An access of the thread in issue. -/
def testAccess (place : Place) (op : AccOp) (st : AccState) : Access :=
  { testBase.access place 8 op 3 .plain 0 st with state := st }

theorem witness_local_addressing :
    testBase.partOf 1 = some 0 ∧ (testBase.part 0).physBank 23 = some 23 ∧ (testBase.part 1).physBank 0 = none
    ∧ (0x0400000000000000 : Word).toNat / 2 ^ 58 % 16 ≠ 0 ∧ (0x0000800000000000 : Word).toNat / 2 ^ 20 % 2 ^ 28 ≠ 0 := by decide
theorem witness_local_access_results :
    let s := testRegs [(1, 0x4000000000000010)]
    let t := { s with tags := [1] }
    let u := { s with accs := [(7, testAccess (.glob 256 none 0 testLabel) (.store 0) .sent)] }
    s.localAddr s.cur (s.reg 1 + s.reg 0) = .ok 16 ∧ 16 % Size.b64.bytes = 0 ∧ s.cur < 49152 ∧ 16 / 2 ^ 20 = s.cur / 48 ∧ u.relPending u.cur = false
    ∧ s.windowBlocks 16 8 = none ∧ s.spadPoisoned 16 8 = false ∧ s.tagged 16 = false ∧ t.tagged 16 = true
    ∧ s.localAddr s.cur (0xC00000 + s.reg 0) = .error (0x05, 0xC00000) ∧ s.localAddr s.cur (s.reg 1 + 4) = .ok 20 ∧ 20 % Size.b64.bytes ≠ 0 := by
  decide
theorem test_store_then_load :
    answers (.stl 2 1 0 .b32 .plain .core) (testRegs [(1, 0x4000000000000010), (2, 0x80000001)]) (fun t =>
      answers (.ldl 3 1 0 .b32 .plain .core true) t (fun u => decide (u.reg 3 = 0xFFFFFFFF80000001) && decide (u.spad.read 16 = 1))) = true := by
  decide
theorem test_cas_pair :
    answers (.casl 2 1 0 .b32 .plain .core) (testRegs [(1, 0x4000000000000010), (2, 0), (3, 9)]) (fun t =>
      decide (t.spad.readLe 16 4 = 9) && decide (t.reg 2 = 0)) = true := by decide
theorem witness_global_issue_and_fences :
    let s := testDataRegs [(1, testLabel), (2, 0x0030000000000000), (4, 0x0050000000000000)]
    let f := { s with accs := [(7, testAccess (.glob 256 none 0 testLabel) (.store 0) .accepted)] }
    let g := { s with accs := [(7, testAccess (.glob 256 none 0 testLabel) (.store 0) .sent)] }
    (lblValid (s.reg 2) = true ∧ s.homeOf (s.mapOf s.cur) (s.reg 2) = 2 ∧ (2 : Nat) ≠ s.self)
    ∧ s.homeOf (s.mapOf s.cur) (s.reg 1) = s.self
    ∧ (s.translate s.cur .load (s.reg 4) 0 8).2 = .error (0x06, 0x0050000000000000)
    ∧ (s.translate s.cur .load (s.reg 1) 56 8).2 = .ok { node := 256, child := none }
    ∧ f.mustWait s.cur (.glob 256 none 0 testLabel) 8 .plain 1 = true ∧ s.mustWait s.cur (.glob 256 none 0 testLabel) 8 .plain 1 = false
    ∧ (f.accs.any (fun a => decide (a.2.tid = f.cur) && decide (a.2.state = .accepted))) = true
    ∧ (g.accs.any (fun a => decide (a.2.tid = g.cur) && decide (a.2.state = .accepted))) = false := by decide
theorem test_ldg_sends :
    answers (.ldg 3 1 0 .b64 .plain .core false) (testDataRegs [(1, testLabel)]) (fun t => decide (t.me.waits = [.access 1]) && decide (t.accs.length = 1))
      = true := by decide

/-- A tenure of the whole tensor, held by a core under launch 0. -/
def testTen (mode : TenMode) (unit : Nat) : Ten :=
  { root := 256, node := 256, tile := 0, rect := rectOf testData.maps { node := 256, child := none }
    holder := { fused := false, unit := unit, launch := 0 }, mode := mode, who := 0, recalled := false, dirty := [], held := []
    nscope := none, replica := [], pois := [], slice := 4, resv := [] }

/-- A probe of what a scratchpad or home access answers: 0 done, 1 a trap, 2 not yet. -/
def outcomeOf : Perform → Nat
  | .done _ _ _ => 0
  | .trap _ _ => 1
  | .later _ => 2

theorem witness_access_life :
    let a := testAccess (.spad 1048592 0x4000000000000010) (.load false) .sent
    let b := testAccess (.glob 256 none 0 testLabel) (.store 7) .sent
    let s := { testData with accs := [(7, a), (8, b), (9, testAccess (.spad 16 0) (.load false) (.performed (some 5) 0))
      , (10, testAccess (.spad 16 0) (.store 0) (.performed none 0)), (11, testAccess (.spad 16 0) (.store 0) (.failed 0x0D 0))] }
    let t := { s with tags := [65537], tens := [(1, testTen .write 5)] }
    Store.find s.accs 7 = some a ∧ a.state = .sent ∧ Store.find s.mod.net.packets 7 = none ∧ outcomeOf (s.atBank 1048592 0x4000000000000010 8 (.load false)) = 0
    ∧ outcomeOf (t.atBank 1048592 0x4000000000000010 8 (.store 0)) = 1
    ∧ Store.find s.accs 8 = some b ∧ outcomeOf (s.atHome b.holder (s.bytesOf { node := 256, child := none } 0 8) testLabel 0 8 (.store 7)) = 0
    ∧ outcomeOf (t.atHome b.holder (s.bytesOf { node := 256, child := none } 0 8) testLabel 0 8 (.store 7)) = 1
    ∧ outcomeOf (s.perform b) = 0 := by decide
theorem witness_home_operations :
    let h : Holder := { fused := false, unit := 0, launch := 0 }
    let t := { testData with tens := [(1, testTen .write 5)] }
    let u := { testData with tens := [(1, testTen .write 0)] }
    testData.unpublished h 256 63 = false ∧ testData.homePoisoned 256 63 = false ∧ testData.forumRefuses 256 63 = false
    ∧ t.storeRefused h 256 63 = true ∧ testData.storeRefused h 256 63 = false ∧ u.storeRefused h 256 63 = false ∧ u.writeTen h 256 63 = some 1
    ∧ testData.writeTen h 256 63 = none ∧ testData.node 256 = some testTensor ∧ testTensor.kind ≠ 4 ∧ testData.physOf 256 63 = some 65599 := by decide

/-- Thread 1 has a plain store that has been acknowledged and not performed. -/
def testPending (s : State) : State := { s with accs := [(7, testAccess (.glob 256 none 0 testLabel) (.store 0) .accepted)] }

/-- The trap of a resolution. -/
def resolveErr (r : Resolution) : Option (Nat × Word) :=
  match r.result with
  | .error e => some e
  | .ok _ => none

theorem witness_header_targets :
    testBase.headerAt 1 placedLabel 0
    ∧ resolveErr (resolve testBase.maps (testBase.mapOf 1) 0) = some (0x07, 0) ∧ testBase.codeNode (testBase.mapOf 1) 0 = none
    ∧ (match testData.codeNode (testData.mapOf 1) placedLabel with
      | some (id, n) => decide (n.extent < 2 ^ 63) && decide ((12 : Word).toNat + 8 ≤ n.extent) && decide ((12 : Word).toNat % 8 ≠ 0)
          && decide (({ testData with maps := { testData.maps with nodes := Store.upd testData.maps.nodes id (fun n => { n with pages := [(0, .demoted 1)] }) } } : State).peekCode
            1 placedLabel 8 = none)
      | none => false) = true := by
  refine ⟨?_, by decide, by decide, by decide⟩
  exact ⟨_, _, 0xFC04000000000000, rfl, by decide, by decide, by decide, by decide, by decide, by decide, by decide⟩
theorem witness_waiting_call :
    (testPending testBase).relPending 1 = true ∧ testBase.relPending testBase.cur = false ∧ testBase.me.sys.hargs = none
    ∧ (testThread (fun t => { t with sys := { t.sys with hargs := some [1, 2, 3, 4] } })).me.sys.hargs = some [1, 2, 3, 4] := by decide
theorem witness_other_tile_accesses :
    let s := testRegs [(1, 0x0001000000000010)]
    let m : State := { testBase with cur := 49152, threads := Store.put testBase.threads 49152 { (testBase.thread 49152) with level := 2 } }
    s.localAddr s.cur (s.reg 1 + s.reg 0) = .ok (2 ^ 20 + 16) ∧ (2 ^ 20 + 16) / 2 ^ 20 ≠ s.cur / 48 ∧ routerOf s.cur ≠ (2 ^ 20 + 16) / 2 ^ 20
    ∧ m.localAddr m.cur 0x01EF000000000010 = .ok (495 * 2 ^ 20 + 16) ∧ routerOf m.cur = (495 * 2 ^ 20 + 16) / 2 ^ 20 ∧ 49152 ≤ m.cur := by decide
theorem witness_local_access_traps :
    let s := testRegs [(1, 0x4000000000000010)]
    let w : State := { s with wins := [(0, { base := 0, len := 64, wm := 16, landed := [] })] }
    ({ s with spadPois := [0] } : State).spadPoisoned 16 8 = true ∧ ({ s with spadPois := [0] } : State).tagged 16 = false
    ∧ w.windowBlocks 16 8 = some 0 ∧ (testPending s).relPending s.cur = true := by decide
theorem witness_page_entries :
    let p (l : List (Nat × Page)) : State := { testData with maps := { testData.maps with nodes := Store.put testData.maps.nodes 256 { testTensor with pages := l } } }
    let none' : State := { p [] with parts := [(0, { (testBase.part 0) with chans := 0 })] }
    (∀ l ∈ [[], [(0, Page.present 1)], [(0, Page.demoted 7)], [(0, Page.poisoned true 1)], [(0, Page.poisoned false 1)]],
      ((p l).node 256).map (·.pages) = some l)
    ∧ (p []).partOfVf 0 = some 0 ∧ (p []).maps.isHost 256 = false ∧ none'.maps.freeFrame (none'.part 0).chans = none
    ∧ (p []).maps.freeFrame ((p []).part 0).chans = some 3 ∧ (p []).noRoom 0 1 ((p []).maps.withPage 256 0 3) = false
    ∧ (∃ q ∈ testTensor.pages, q.1 / 2 ^ 16 = 5 / 2 ^ 16) ∧ ∀ q ∈ testTensor.pages, q.1 / 2 ^ 8 ≠ 2 ^ 8 / 2 ^ 8 := by decide +kernel
theorem no_room_of_quota (s : State) (map need p : Nat) (m : Maps) (hp : s.partOfVf map = some p) (hn : need ≠ 0)
    (hq : (s.part p).pagequota.toNat < (s.part p).pageuse.toNat + need) : s.noRoom map need m = true := by
  simp [State.noRoom, hp, hn]; omega
theorem witness_no_room :
    let s : State := { testData with
      maps := { testData.maps with nodes := Store.put testData.maps.nodes 256 { testTensor with pages := [] } }
      parts := [(0, { (testBase.part 0) with pagequota := 0 })] }
    s.node 256 = some { testTensor with pages := [] } ∧ s.maps.freeFrame (s.part 0).chans = some 3 ∧ s.noRoom 0 1 (s.maps.withPage 256 0 3) = true :=
  ⟨by decide, by decide +kernel, no_room_of_quota _ 0 1 0 _ (by decide) (by decide) (by decide)⟩
theorem witness_node_checks :
    let n := { testTensor with extent := 64 }
    n.extent < (60 : Word).toNat + 8 ∧ (4 : Word).toNat + 8 ≤ n.extent ∧ (4 : Word).toNat % 8 ≠ 0 ∧ (8 : Word).toNat % 8 = 0
    ∧ n.ro = false ∧ n.sup = false ∧ n.kind ≠ 5 := by decide
theorem witness_home_reads_and_writes :
    let h : Holder := { fused := false, unit := 0, launch := 0 }
    let g : Holder := { fused := false, unit := 3, launch := 0 }
    let bytes := (List.range 8).map (fun i => ((256 : Nat), 0 + i))
    let kept := { testData with tens := [(1, { testTen (.released 0) 5 with held := [(0, 7)], nscope := some 0 })] }
    let held := { testData with tens := [(1, testTen .write 5)] }
    (∃ b ∈ bytes, kept.unpublished g b.1 b.2 = true) ∧ (∃ b ∈ bytes, ({ testData with dramPois := [1024] } : State).bytePoisoned h b.1 b.2 = true)
    ∧ (∃ b ∈ bytes, held.storeRefused h b.1 b.2 = true) ∧ (¬ ∃ b ∈ bytes, testData.storeRefused h b.1 b.2 = true)
    ∧ (¬ ∃ b ∈ bytes, testData.forumRefuses b.1 b.2 = true) ∧ testData.hostRefuses bytes 8 (.store 0) = false
    ∧ (¬ ∃ b ∈ bytes, testData.unpublished h b.1 b.2 = true) ∧ (¬ ∃ b ∈ bytes, testData.bytePoisoned h b.1 b.2 = true)
    ∧ Store.find kept.tens 1 = some { testTen (.released 0) 5 with held := [(0, 7)], nscope := some 0 } := by decide
theorem witness_access_replies :
    let t := testAccess (.glob 256 none 0 testLabel) (.store 7) .sent
    let l := testAccess (.glob 256 none 0 testLabel) (.load false) .sent
    let s (a : Access) : State := { testData with accs := [(7, a)] }
    (s t).early t = true ∧ (s l).early l = false ∧ (s t).shootDone t = true ∧ outcomeOf ((s t).perform t) = 0
    ∧ outcomeOf (({ s t with tens := [(1, testTen .write 5)] } : State).perform t) = 1
    ∧ (s t).mirrored ((s t).writtenBytes t) = none ∧ (t.n ≠ 8 ∨ t.ord ≠ .rel)
    ∧ (match ({ s l with tags := [1] } : State).atBank 16 0 4 (.waitGen 0) with
      | .later (.gen _ _) => true
      | _ => false) = true := by decide

/-! ## Labels and maps -/

def testStub : Node := { testDir with kind := 6, words := ⟨#[0, testLabel, 0, 0, 0], rfl⟩, kids := [] }

/-- The directory of `testData` with a redirect stub for the tensor at digit 3 and a namespace child at digit 4, over an
empty record. -/
def testMap : State :=
  { testData with maps := { testData.maps with
      nodes := Store.put (Store.put (Store.put testData.maps.nodes 320 { testDir with kids := [(1, 384), (3, 448), (4, 512)] }) 448
        testStub) 512 { testDir with kids := [] }
      nextDesc := 576 } }

def testMapRegs (l : List (Reg × Word)) : State := l.foldl (fun s p => s.setReg p.1 p.2) testMap

/-- The directory and its digit `k`. -/
def testDirLabel : Word := 0x0040000000000000
def testKid (k : Nat) : Word := lblChild testDirLabel k

/-- Probes of resolutions, in forms that can be decided. -/
def descentOf : Descent → Option Target
  | .found t => some t
  | _ => none
def resolvesTo (r : Resolution) (x : Word × Target) : Bool :=
  decide (r.stubs = []) && (match r.result with
    | .ok y => decide (y = x)
    | .error _ => false)
def slotIs (r : Except (Nat × Word) (SlotRef × Option (Word × Target)) × List Nat) (k : Nat) : Bool :=
  decide (r.2 = []) && (match r.1 with
    | .ok (.kid p d, some y) => decide (p = 320) && decide (d = k) && decide (y = (testDirLabel, { node := 320, child := none }))
    | _ => false)
def slotKind : Slot → Nat
  | .empty => 0
  | .stub id => id + 1
  | .node t => t.node + 1000001

theorem witness_subtree_order : lblValid testDirLabel = true ∧ lblValid (testKid 255) = true ∧ lblDepth testDirLabel < 1 := by
  decide +kernel
theorem witness_label_queries : lblValid testDirLabel = true ∧ lblValid 0x0040000000000001 = false := by
  decide +kernel
theorem witness_map_queries :
    testMap.remoteHome (testKid 1) = none ∧ testMap.remoteHome 0x0030000000000000 = some 2 ∧ lblValid 0 = false
    ∧ descentOf (descendLabel testMap.maps 0 (testKid 1)) = some { node := 384, child := none } ∧ descentOf (descendLabel testMap.maps 0 (testKid 9)) = none := by
  decide +kernel
theorem witness_map_insertion :
    let s := testMapRegs [(1, testDirLabel), (2, 0x01000000), (3, 0x00020000), (4, testKid 9), (5, 0x4000000000000040)]
    let t := { s with tens := [(1, { testTen .write 5 with root := 384, node := 384 })] }
    s.remoteHome (s.reg 1) = none ∧ belowImplicit s.maps 0 (s.reg 1) = false
    ∧ resolvesTo (resolve s.maps 0 (s.reg 1)) (testDirLabel, { node := 320, child := none }) = true
    ∧ ((s.node 320).map (fun p => p.hasKids && !p.sup && (Store.find p.kids 1).isSome && (Store.find p.kids 128).isNone)) = some true
    ∧ lblDepth testDirLabel ≠ 6
    ∧ slotIs (slotOfLabel s.maps 0 (s.reg 4)) 9 = true
    ∧ s.supRefuses 320 = false ∧ lblChild testDirLabel 9 ≠ 0 ∧ s.localAddr s.cur (s.reg 5) = .ok 64
    ∧ imageBad (s.spadWords 64) (imageNode 0 1 (s.spadWords 64)) none = none ∧ (imageNode 0 1 (s.spadWords 64)).kind ≠ 4 ∧ s.maps.isHost 320 = false
    ∧ slotKind (s.slotAt 0 (.kid 320 9)) = 0 ∧ slotKind (s.slotAt 0 (.kid 320 3)) = 449 ∧ slotKind (s.slotAt 0 (.kid 320 4)) = 1000513
    ∧ s.supRefuses 512 = false ∧ ((s.node 512).map (fun o => changeBad o (imageNode 0 1 (s.spadWords 64)))) = some none
    ∧ s.tenuredBelow 512 = false ∧ s.inFlight [512] = false ∧ t.tenuredBelow 384 = true := by
  decide +kernel
theorem witness_map_moves_and_removals :
    let s := testMapRegs [(1, testKid 4), (2, testKid 9), (3, 0x0409), (4, testDirLabel)]
    let t := { s with tens := [(1, { testTen .write 5 with root := 384, node := 384 })] }
    (resolvesTo (resolve s.maps 0 (s.reg 1)) (testKid 4, { node := 512, child := none }) = true ∧ lblValid (s.reg 2) = true ∧ lblDepth (s.reg 2) ≠ 0
      ∧ belowImplicit s.maps 0 (lblParent (s.reg 2)) = false
      ∧ resolvesTo (resolve s.maps 0 (lblParent (s.reg 2))) (testDirLabel, { node := 320, child := none }) = true ∧ s.supRefuses 512 = false
      ∧ rootHome s.maps 0 (lblRoot (testKid 4)) = 1 ∧ rootHome s.maps 0 (lblRoot testDirLabel) = 1
      ∧ s.moveStatus 0 512 { node := 320, child := none } testDirLabel 9 none false = .done
      ∧ s.moveStatus 0 512 { node := 320, child := none } testDirLabel 1 none false ≠ .done)
    ∧ ((s.node 320).isSome = true ∧ s.supRefuses 320 = false ∧ s.supRefuses 448 = false
      ∧ s.respaceStatus 0 { node := 320, child := none } testDirLabel 4 9 = .done
      ∧ t.respaceStatus 0 { node := 320, child := none } testDirLabel 1 9 ≠ .done)
    ∧ (s.tenuredBelow 512 = false ∧ s.inFlight (subtreeOf s.maps 512) = false ∧ t.tenuredBelow 320 = true
      ∧ (320 :: subtreeOf s.maps 320).all (fun n => !s.supRefuses n) = true ∧ slotOfCanon s.maps 0 (testKid 4) = .kid 320 4)
    ∧ (slotIs (slotOfLabel s.maps 0 (testKid 3)) 3 = true
      ∧ slotKind (s.slotAt 0 (.kid 320 3)) = 449 ∧ ((s.node 448).map (·.newLabel)) = some testLabel ∧ s.reg 2 ≠ testLabel ∧ s.reg 0 = 0) := by
  decide +kernel
theorem test_lins_middle :
    answers (.lins 3 1 2) (testMapRegs [(1, testDirLabel), (2, 0x01000000)]) (fun t => decide ((Store.find t.maps.nodes 576).isSome = true)
      && decide (t.maps.nextDesc = 640)) = true := by
  decide +kernel

/-- The maps with a node of every shape that the map operations tell apart: below the directory a tensor (1) with a view, a stub
(3), an empty directory (4), an array (5), a supervisor's directory (6), a directory with a child (7) and a stub (8) to a root of
another home; a chain of seven directories under root 8, a set under root 9. -/
def testForest : State :=
  let dir (kids : List (Nat × Nat)) : Node := { testDir with kids := kids }
  let view : Node := { testTensor with words := ⟨#[0x8002000000000000, 0x0000000100000010, 0x0000000100000001, 0, 0], rfl⟩, pages := [] }
  { testData with maps := { testData.maps with
      nodes := testBase.maps.nodes ++ [(256, testTensor), (320, dir [(1, 384), (3, 448), (4, 512), (5, 640), (6, 704), (7, 1216), (8, 1408)])
        , (384, { testTensor with kids := [(1, 1344)], pages := [(0, .present 2)] }), (448, testStub), (512, dir [])
        , (640, { testTensor with kind := 2, words := ⟨#[0x8000000000000000, 0x0000000100000010, 0x0000000100000001, 0x0001000100010008, 0], rfl⟩ })
        , (704, { dir [] with sup := true }), (768, dir [(1, 832)]), (832, dir [(1, 896)]), (896, dir [(1, 960)]), (960, dir [(1, 1024)])
        , (1024, dir [(1, 1088)]), (1088, dir [(1, 1152)]), (1152, dir []), (1216, dir [(1, 1280)]), (1280, dir []), (1344, view)
        , (1408, { testStub with words := ⟨#[0, 0x00A0000000000000, 0, 0, 0], rfl⟩ }), (1472, dir []), (1536, { testDir with kind := 4, extent := 272, words := ⟨#[0x8000000000020002, 0, 0, 0, 0], rfl⟩, kids := [] })]
      roots := testData.maps.roots ++ [(8, (1, 768)), (9, (1, 1536)), (10, (2, 1472))], nextDesc := 1600 } }

/-- The canonical label and target of a label, with the stubs passed, or the trap. -/
def pathOf (l : Word) : Option (Word × Nat × Option Nat) × Option (Nat × Word) × List Nat :=
  let r := resolve testForest.maps 0 l
  (match r.result with
    | .ok (lc, t) => (some (lc, t.node, t.child), none, r.stubs)
    | .error e => (none, some e, r.stubs))
def deepLabel : Nat → Word
  | 0 => 0x0080000000000000
  | n + 1 => lblChild (deepLabel n) 1

/-- Where a label leads in the forest, by its canonical label, node and implicit child. -/
abbrev leads (l lc : Word) (n : Nat) (c : Option Nat) : Prop := (pathOf l).1 = some (lc, n, c)

theorem witness_map_query_slots :
    let s := testForest
    let u := { s with tens := [(1, { testTen .write 5 with root := 640, node := 640, rect := rectOf s.maps { node := 640, child := some 0 } })] }
    (pathOf (testKid 3)).2.2 = [448] ∧ leads (testKid 3) testLabel 256 none ∧ leads (lblChild (testKid 5) 1) (lblChild (testKid 5) 1) 640 (some 0)
    ∧ leads (lblChild 0x0090000000000000 1) (lblChild 0x0090000000000000 1) 1536 (some 0)
    ∧ (slotKind (s.slotAt 0 (.root 2)), slotKind (s.slotAt 0 (.root 99)), slotKind (s.slotAt 0 (.kid 320 8))) = (1000257, 0, 1409)
    ∧ (s.node 640).map (·.kind) = some 2 ∧ (s.node 1536).map (·.kind) = some 4
    ∧ (u.tens.any (fun q => q.2.rect.meets (rectOf u.maps { node := 640, child := some 0 }))) = true
    ∧ (u.tens.any (fun q => q.2.rect.meets (rectOf u.maps { node := 640, child := some 1 }))) = false := by decide +kernel
theorem witness_map_checks :
    let s := testForest.setReg 1 0x0030000000000000
    s.remoteHome (s.reg 1) = some 2 ∧ lblValid 0 = false ∧ (pathOf (testKid 9)).2.1 = some (0x06, testKid 9)
    ∧ belowImplicit s.maps 0 (testKid 9) = false ∧ (match slotOfLabel s.maps 0 (lblChild (testKid 9) 1) with
      | (.error e, []) => decide (e = (0x06, lblChild (testKid 9) 1))
      | _ => false) = true
    ∧ leads (testKid 6) (testKid 6) 704 none ∧ s.supRefuses 704 = true
    ∧ implicitAbove s.maps 0 (lblChild (lblChild (testKid 5) 1) 1) = some (lblChild (testKid 5) 1) ∧ s.supRefuses 640 = false
    ∧ (insOperand 0x01000000).isSome = true := by decide +kernel
theorem witness_insertions :
    let s := testForest
    (insOperand 0x02010000).isSome = false ∧ leads (lblChild (testKid 5) 1) (lblChild (testKid 5) 1) 640 (some 0)
    ∧ (s.node 640).map (·.hasKids) = some false ∧ leads (deepLabel 6) (deepLabel 6) 1152 none ∧ lblDepth (deepLabel 6) = 6
    ∧ (0x00010000 : Word) = BitVec.ofNat 64 (1 * 65536 + 0) ∧ (∀ x, ¬ (0 < x ∧ x < 1))
    ∧ s.noRoom 0 0 s.maps = false ∧ s.partOfVf 0 = some 0 ∧ (s.part 0).pageuse.toNat + s.maps.poolMost 0 ≤ (s.part 0).pagequota.toNat := by
  refine ⟨by decide, by decide +kernel, by decide +kernel, by decide +kernel, by decide +kernel, by decide, by omega, by decide +kernel, by decide, by decide +kernel⟩
theorem witness_map_images :
    let w (k : Nat) (w3 w4 w5 w6 : Word) : Vector Word 8 := ⟨#[BitVec.ofNat 64 (k * 2 ^ 60 + 4096), 0, 0, w3, w4, w5, w6, 0], rfl⟩
    let ok (v : Vector Word 8) (k : Nat) : Bool := decide ((imageNode 0 1 v).kind = k) && decide (imageBad v (imageNode 0 1 v) none = none)
    ok (w 0 0 0 0 0) 0 = true ∧ ok (w 5 0 0 0 0) 5 = true ∧ ok (w 3 8 0 0 0) 3 = true ∧ ok (w 4 0 0 0 0) 4 = true
    ∧ ok (w 1 0x8000000000000000 0x0000000100000010 0x0000000100000001 0x0001000100010010) 1 = true
    ∧ ok (w 2 0x8000000000000000 0x0000000100000010 0x0000000100000001 0x0001000100010008) 2 = true := by decide +kernel
theorem witness_mappings :
    let s := { testForest with spad := testForest.spad.writeLe 64 8 1 }
    let busy := { s with accs := [(7, testAccess (.glob 512 none 0 (testKid 4)) (.load false) .sent)] }
    imageBad (s.spadWords 64) (imageNode 0 1 (s.spadWords 64)) none = none ∧ imageBad (s.spadWords 72) (imageNode 0 1 (s.spadWords 72)) none = none
    ∧ imageBad (s.spadWords 56) (imageNode 0 1 (s.spadWords 56)) none ≠ none ∧ slotKind (s.slotAt 0 (.kid 640 1)) = 1000641
    ∧ slotKind (s.slotAt 0 (.kid 512 1)) = 0 ∧ slotKind (s.slotAt 0 (.kid 640 9)) = 0 ∧ busy.inFlight [512] = true
    ∧ (s.node 384).map (fun o => (changeBad o (imageNode 0 1 (s.spadWords 64))).isSome) = some true ∧ s.localAddr 1 0x4000000000000048 = .ok 72
    ∧ s.noRoom 0 0 { s.maps with nodes := Store.put s.maps.nodes 1600 testDir } = false := by decide +kernel
theorem witness_moves :
    let s := testForest
    let t := { s with tens := [(1, { testTen .write 5 with root := 384, node := 384 })] }
    let at_ (x : Word × Nat × Option Nat) : Target := { node := x.2.1, child := x.2.2 }
    (s.setReg 1 0x0030000000000000).remoteHome 0x0030100000000001 = some 2 ∧ lblDepth 0x0030100000000001 ≠ 0 ∧ lblDepth 0x0030000000000000 = 0
    ∧ rootHome s.maps 0 (lblRoot (testKid 4)) ≠ rootHome s.maps 0 (lblRoot 0x00A0000000000000)
    ∧ leads (lblParent (lblChild (testKid 8) 1)) 0x00A0000000000000 1472 none ∧ (s.setReg 1 (lblChild (testKid 8) 1)).remoteHome (lblChild (testKid 8) 1) = none
    ∧ (slotKind (s.slotAt 0 (.kid 320 1)), slotKind (s.slotAt 0 (.kid 320 3)), slotKind (s.slotAt 0 (.kid 512 1))) = (1000385, 449, 0)
    ∧ 512 ∈ subtreeOf s.maps 512 ∧ ¬ 640 ∈ subtreeOf s.maps 512 ∧ (s.node 640).map (·.hasKids) = some false
    ∧ lblDepth (deepLabel 5) < 6 ∧ 6 < lblDepth (deepLabel 5) + 1 + heightGo s.maps 7 1216 ∧ slotKind (s.slotAt 0 (.kid 1088 2)) = 0
    ∧ splitsView s.maps 1344 512 = true ∧ leads (lblChild (testKid 1) 1) (lblChild (testKid 1) 1) 1344 none
    ∧ splitsView s.maps 384 512 = false ∧ t.tenuredBelow 384 = true ∧ s.tenuredBelow 384 = false
    ∧ at_ (testKid 5, 640, some 0) = { node := 640, child := some 0 } ∧ s.noRoom 0 0 s.maps = false := by decide +kernel
theorem witness_respacings :
    let s := testForest
    let p : Target := { node := 320, child := none }
    s.respaceStatus 0 { node := 640, child := some 0 } (testKid 5) 1 9 = .noKids ∧ s.respaceStatus 0 p testDirLabel 1 9 = .stubbed
    ∧ s.respaceStatus 0 p testDirLabel 4 7 ≠ .noGap ∧ s.respaceStatus 0 p testDirLabel 4 5 = .done
    ∧ (let n := { testDir with kids := [(1, 512), (2, 1216), (3, 1280)] }
       let u := { s with maps := { s.maps with nodes := Store.put s.maps.nodes 320 n } }
       u.respaceStatus 0 p testDirLabel 1 3 = .done ∧ u.respaceStatus 0 p testDirLabel 1 6 ≠ .noGap)
    ∧ (∀ k ∈ [(4, 512), (5, 640)], s.supRefuses k.2 = false) ∧ ((s.node 320).isSome) = true := by decide +kernel
theorem witness_removals :
    let s := testForest
    let busy := { s with accs := [(7, testAccess (.glob 1280 none 0 (testKid 4)) (.load false) .sent)] }
    leads (lblChild (testKid 5) 1) (lblChild (testKid 5) 1) 640 (some 0) ∧ slotOfCanon s.maps 0 (lblChild (testKid 5) 1) = .kid 640 1
    ∧ busy.inFlight (subtreeOf s.maps 1216) = true ∧ (1216 :: subtreeOf s.maps 1216).all (fun n => !s.supRefuses n) = true
    ∧ slotOfCanon s.maps 0 (testKid 7) = .kid 320 7 ∧ slotKind (s.slotAt 0 (.kid 640 1)) = 1000641 ∧ slotKind (s.slotAt 0 (.kid 320 4)) = 1000513
    ∧ slotKind (s.slotAt 0 (.kid 512 2)) = 0 ∧ ((s.node 448).map (·.newLabel)) = some testLabel ∧ testLabel ≠ 5 := by decide +kernel

/-! ## Tenure -/

/-- A tile array of two tiles of eight f32 elements under root 5. -/
def testTiles : State :=
  { testData with maps := { testData.maps with
    nodes := testData.maps.nodes ++ [(640, { testTensor with kind := 2, words := ⟨#[0x8000000000000000, 0x0000000100000010, 0x0000000100000001, 0x0001000100010008, 0], rfl⟩ })]
    roots := testData.maps.roots ++ [(5, (1, 640))] } }

/-- A request of thread `tid`'s core for the tensor. -/
def testReq (tid : Nat) (write nowait : Bool) (queued : Option Nat) : TenReq :=
  { tid := tid, label := testLabel, root := 256, node := 256, tile := 0, rect := rectOf testData.maps { node := 256, child := none }
    holder := { fused := false, unit := tid / 16, launch := 0 }, write := write, nowait := nowait, scope := 0, dreg := 3, stamp := tid
    queued := queued, stubs := [], hold := Held.none, pc := 0, left := 0 }

def testTenState (l : Store Ten) (q : Store TenReq) : State := { testData with tens := l, treqs := q }

theorem witness_tenure_acquisition :
    let node (s : State) (l : Word) (t : Target) : Bool := decide (s.remoteHome l = none) && resolvesTo (resolve s.maps 0 l) (l, t)
      && (match s.node t.node with
        | some n => decide (accessCheck n t.child .load 0 l 0 1 = none)
        | none => false)
    let q := testReq 17 false false none
    let s := testTenState [(1, testTen .read 1)] [(7, q), (8, testReq 17 true true none), (9, testReq 33 false false (some 2))]
    node testData testLabel { node := 256, child := none } = true ∧ testData.tenurable { node := 256, child := none } = true
    ∧ node testData placedLabel { node := (testBase.codeNode 0 placedLabel).elim 0 (·.1), child := none } = true
    ∧ testData.tenurable { node := (testBase.codeNode 0 placedLabel).elim 0 (·.1), child := none } = false
    ∧ Store.find s.treqs 7 = some q ∧ q.queued = none ∧ (s.requestResolve q).2.toOption.map (fun q => q.map (fun q => (q.node, q.tile, q.root))) = some (some (256, 0, 256))
    ∧ s.alreadyHeld q = true ∧ s.alreadyHeld (testReq 17 true true none) = false ∧ (testReq 17 true true none).nowait = true
    ∧ s.alreadyHeld (testReq 33 false false none) = false ∧ s.grantable 9 (testReq 33 false false (some 2)) = true
    ∧ (s.tens.all (fun x => decide (x.2.holder ≠ (testReq 33 false false none).holder))) = true
    ∧ (s.tens.filter (fun y => decide (y.2.root = (testReq 17 true true none).root) && decide (y.2.holder = (testReq 17 true true none).holder)
      && decide (y.2.rect = (testReq 17 true true none).rect))) = [(1, testTen .read 1)] ∧ (testReq 17 true true none).write = true := by decide +kernel
theorem witness_tenure_release_and_publishing :
    let h : Holder := { fused := false, unit := 0, launch := 0 }
    let t : Target := { node := 256, child := none }
    let x := { testTen .write 0 with held := [(0, 1)] }
    testData.relPending 1 = false ∧ testData.ownTen h t = none
    ∧ ((testTenState [(1, testTen .read 0)] []).ownTen h t).map (fun x => decide (x.2.mode = .read)) = some true
    ∧ ((testTenState [(1, testTen .write 0)] []).ownTen h t).map (fun x => decide (x.2.mode = .write)) = some true
    ∧ overlay x.held x.dirty ≠ [] ∧ Store.find (testTenState [(1, x)] []).tens 1 = some x ∧ x.held ≠ []
    ∧ Store.find (testTenState [(1, testTen .write 0)] []).tens 1 = some (testTen .write 0) ∧ (testTen .write 0).held = [] := by decide +kernel
theorem witness_tenure_split_discard_query :
    let h : Holder := { fused := false, unit := 0, launch := 0 }
    let t : Target := { node := 640, child := none }
    let x := { testTen .write 0 with root := 640, node := 640, rect := rectOf testTiles.maps t }
    let s := { testTiles with tens := [(1, x)] }
    let u := testTenState [(1, testTen .write 5)] []
    s.tenurable t = true ∧ (s.ownTen h t).map (·.1) = some 1 ∧ covers x.rect ((s.splitKids t).map (rectOf s.maps)) = true
    ∧ covers (testTen .write 0).rect ((testData.splitKids { node := 256, child := none }).map (rectOf testData.maps)) = false
    ∧ (testTen .write 5).holder ≠ h ∧ (testTen .write 5).rect.meets (rectOf u.maps { node := 256, child := none }) = true
    ∧ (testTen .read 5).mode ≠ .write ∧ testTiles.tens = [] := by decide +kernel
theorem witness_grants_exclude :
    let s := testTenState [(1, testTen .read 5)] [(7, testReq 17 false false (some 1)), (8, testReq 33 true false (some 2))]
    s.grantable 7 (testReq 17 false false (some 1)) = true ∧ (testTen .read 5).holder ≠ (testReq 17 false false (some 1)).holder
    ∧ (testTen .read 5).rect.meets (testReq 17 false false (some 1)).rect = true ∧ (testReq 33 true false (some 2)).write = true := by decide +kernel
theorem witness_tenure_events :
    let a := testReq 17 true false (some 1)
    let b := testReq 33 true false (some 2)
    let rd (u : Nat) : Ten := { testTen .read u with recalled := true }
    let s := testTenState [(1, testTen .read 5), (2, rd 1), (3, rd 2), (4, { testTen (.released 0) 9 with held := [(0, 1)] }),
      (5, { testTen .write 9 with held := [(0, 1)] })] [(7, a), (8, b)]
    let p := { testData with pushes := [(1, (256, [(0, 1)], []))] }
    s.recallDue (testTen .read 5) = true ∧ s.blocksWith a b = true ∧ s.blocksWith b a = true ∧ a.holder ≠ b.holder ∧ a.stamp < b.stamp
    ∧ ¬ (b.stamp < a.stamp ∨ b.stamp = a.stamp) ∧ (Store.find s.tens 4).map (s.publishDue ·) = some true
    ∧ (Store.find s.tens 5).map (s.publishDue ·) = some true ∧ Store.find p.pushes 1 = some (256, [(0, 1)], []) := by decide +kernel
theorem test_tacq_waits :
    answers (.tacq 3 1 .core true false) (testDataRegs [(1, testLabel)]) (fun t => decide (t.me.waits = [.tenure 1]) && decide (t.treqs.length = 1)) = true := by
  decide +kernel

theorem test_l1_poison :
    let h : Holder := { fused := false, unit := 0, launch := 0 }
    let s (pois : List Nat) := { testData with tens := [(5, { testTen .write 0 with dirty := [(0, 1)], pois := pois })] }
    let at_ := (List.range 8).map (fun i => (256, i))
    outcomeOf ((s [0]).atHome h at_ testLabel 0 8 (.load false)) = 1 ∧ outcomeOf ((s []).atHome h at_ testLabel 0 8 (.load false)) = 0 := by
  decide +kernel
theorem test_home_slice : sliceTile 256 0 = 4 ∧ sliceTile 16384 3 = 529 := by decide

theorem witness_tenure_checks :
    let s := testForest
    (testPending s).relPending s.cur = true ∧ s.relPending s.cur = false ∧ (s.setReg 1 0x0030000000000000).remoteHome 0x0030000000000000 = some 2
    ∧ (pathOf (testKid 9)).2.1 = some (0x06, testKid 9) ∧ leads (testKid 6) (testKid 6) 704 none
    ∧ (s.node 704).map (fun n => (accessCheck n none .load 0 (testKid 6) 0 1).isSome) = some true
    ∧ leads (testKid 4) (testKid 4) 512 none ∧ (s.node 512).map (fun n => decide (n.kind = 2) || decide (n.kind = 1)) = some false
    ∧ ({ s with maps := { s.maps with nodes := Store.upd s.maps.nodes 512 (fun n => { n with extent := 1 }) } } : State).node 512
      = some { testDir with kids := [], extent := 1 }
    ∧ accessCheck { testDir with kids := [], extent := 1 } none .load 0 (testKid 4) 0 1 = none ∧ s.maps.isHost 512 = false := by decide +kernel
theorem witness_tenure_requests :
    let gone := { testReq 17 false false none with label := testKid 9 }
    let s := testTenState [(1, testTen .write 5)] [(7, testReq 17 false true none), (8, testReq 17 false false (some 1)), (9, gone)]
    let kept := testTenState [(1, { testTen (.released 0) 5 with held := [(0, 1)] })] [(7, testReq 17 false true none), (8, testReq 17 false false (some 1))]
    let free := testTenState [] [(7, testReq 17 false true none), (8, testReq 17 false false (some 1))]
    ((s.requestResolve gone).2.toOption = none) ∧ gone.queued = none ∧ ({ gone with queued := some 3 } : TenReq).queued ≠ none
    ∧ s.unopposed 7 (testReq 17 false true none) = false ∧ s.unopposed 8 (testReq 17 false false (some 1)) = false ∧ s.alreadyHeld (testReq 17 false true none) = false
    ∧ kept.unopposed 7 (testReq 17 false true none) = true ∧ kept.stalePeers (testReq 17 false true none) = true
    ∧ free.unopposed 7 (testReq 17 false true none) = true ∧ free.stalePeers (testReq 17 false true none) = false
    ∧ free.unopposed 8 (testReq 17 false false (some 1)) = true ∧ (testReq 17 false true none).hold = Held.none := by decide +kernel
theorem witness_publishing :
    let out := { testTenState [(1, { testTen .write 0 with dirty := [(0, 1)], held := [(1, 2)] }), (2, { testTen (.released 0) 3 with held := [(0, 3), (9, 4)] })] [] with
      maps := { testData.maps with nodes := Store.upd testData.maps.nodes 256 (fun n => { n with pages := [(0, .demoted 1)] }) } }
    let s := testTenState [(1, { testTen .write 0 with dirty := [(0, 1)], held := [(1, 2)] })] []
    Store.wf [((0 : Nat), (1 : Byte))] = true ∧ overlay [((1 : Nat), (2 : Byte))] [(0, 1)] = [(0, 1), (1, 2)]
    ∧ (∀ b ∈ [((0 : Nat), (1 : Byte)), (1, 2)], s.demotedAt 256 b.1 = false) ∧ ([0, 1].find? (out.demotedAt 256)) = some 0
    ∧ ¬ ((1 : Nat) = 0 ∨ ((testTen .write 0).holder.fused = true ∧ (1 : Nat) = 1)) ∧ (2 : Nat) ≠ 1
    ∧ (Store.find out.tens 2).map (·.root) = some 256 ∧ (Store.find out.tens 2).map (fun x => decide (x.held ≠ [])) = some true := by decide +kernel
theorem witness_tenure_splits :
    let s := testTiles
    let t : Target := { node := 640, child := none }
    let kids := s.splitKids t
    let rects := kids.map (rectOf s.maps)
    let r := rectOf s.maps t
    rects.Pairwise (fun x y => x.meets y = false) ∧ (∀ x ∈ rects, x.within r = true) ∧ (rects.map Rect.size).sum = r.size
    ∧ kids = [{ node := 640, child := some 0 }, { node := 640, child := some 1 }]
    ∧ testData.splitKids { node := 256, child := none } = [] ∧ (rectOf testData.maps { node := 256, child := none }).size ≠ 0 := by decide +kernel
theorem witness_tenure_words :
    let h : Holder := { fused := false, unit := 0, launch := 0 }
    let t : Target := { node := 256, child := none }
    let rev := testTenState [(1, { testTen .revoked 0 with replica := [] })] []
    let kid := { testTiles with splits := [640], tens := [(1, { testTen .write 3 with root := 640, node := 640, tile := 1, rect := rectOf testTiles.maps { node := 640, child := some 0 } })] }
    (rev.tens.any (fun q => decide (q.2.holder = h) && decide (q.2.mode = .revoked) && q.2.rect.meets (rectOf rev.maps t))) = true
    ∧ (kid.tens.any (fun q => q.2.rect.within (rectOf kid.maps { node := 640, child := none }) && !(decide (q.2.node = 640) && decide (q.2.tile = 0)))) = true
    ∧ ((testTen .write 5).mode = .write ∧ (testTen .read 5).mode = .read ∧ ({ testTen .read 0 with recalled := true } : Ten).holder = h)
    ∧ testData.tens = [] := by decide +kernel
theorem witness_tenure_discards :
    let out := { testData with maps := { testData.maps with nodes := Store.upd testData.maps.nodes 256 (fun n => { n with pages := [(0, .demoted 1)] }) } }
    let r := rectOf testData.maps { node := 256, child := none }
    (out.rectBytes 256 r).find? (out.demotedAt 256) = some 0 ∧ ((testData.rectBytes 256 r).all (fun o => !testData.demotedAt 256 o)) = true
    ∧ (testTen .write 5).rect.meets r = true ∧ (testTen .read 5).mode ≠ .write := by decide +kernel
theorem witness_forced_publishing :
    let out := { testTenState [(4, { testTen (.released 0) 9 with held := [(0, 1)] })] [(7, testReq 17 false true none)] with
      maps := { testData.maps with nodes := Store.upd testData.maps.nodes 256 (fun n => { n with pages := [(0, .demoted 1)] }) } }
    let asked := testTenState [(4, { testTen (.released 0) 9 with held := [(0, 1)] })] [(7, testReq 17 false true none)]
    let read := { testTenState [(4, { testTen (.released 0) 9 with held := [(0, 1)] })] [] with
      accs := [(3, testAccess (.glob 256 none 0 testLabel) (.load false) .sent)] }
    asked.demotedAt 256 0 = false ∧ (testReq 17 false true none).rect.meets (testTen (.released 0) 9).rect = true
    ∧ (testReq 17 false true none).holder ≠ (testTen (.released 0) 9).holder ∧ (read.placeBytes (.glob 256 none 0 testLabel) 8).contains (256, 0) = true
    ∧ read.rectHasByte 256 (testTen (.released 0) 9).rect 0 = true ∧ out.demotedAt 256 0 = true
    ∧ Store.wf [((0 : Nat), (1 : Byte))] = true ∧ (testTen .read 5).mode = .read
    ∧ (testReq 17 true false (some 1)).clashes (testReq 33 true false (some 2)) = true := by decide +kernel

/-! ## Synchronisation -/

/-- Bytes of 64-bit words written into the scratchpad from a place on. -/
def testWords (m : Memory) (key : Nat) (l : List Nat) : Memory := (l.zipIdx).foldl (fun m p => m.writeLe (key + 8 * p.2) 8 p.1) m

/-- A tagged sync word at place 16 with TARGET 3, COUNT 2, GEN 5 and STATUS 0; g1 names it. -/
def testSync (l : List (Reg × Word)) : State :=
  let s := testRegs ((1, 0x4000000000000010) :: l)
  { s with spad := testWords [] 16 [0x0000000200000003, 5], tags := [1] }

theorem witness_channels :
    let s := testRegs [(1, 0x41), (2, 0x100000041)]
    let x : Send := { target := 1, chan := 25, value := 7, pois := false }
    let u := { s with sync := { s.sync with sends := [(1, x)] } }
    s.cur < 49152 ∧ s.sendTarget (s.reg 2) = none ∧ (s.sendTarget 1).isSome = true ∧ Store.find u.sync.sends u.cur ≠ none ∧ Store.find s.sync.sends s.cur = none
    ∧ (u.thread x.target).present 25 = false ∧ ((u.setReg 25 3).thread x.target).present 25 = true ∧ 24 ≤ (24 : Reg).toNat := by decide +kernel
theorem witness_sync_and_barrier_words :
    let s := testSync [(2, 1), (3, 5), (4, 0x100000000)]
    let u := { s with tags := [] }
    let w := { s with spad := testWords [] 16 [0x0000000000000003, 5] }
    s.localAddr s.cur (s.reg 1) = .ok 16 ∧ 16 % 16 = 0 ∧ 16 / 2 ^ 20 = s.cur / 48 ∧ s.relPending s.cur = false ∧ s.tagged 16 = true ∧ u.tagged 16 = false
    ∧ s.spad.readLe 16 4 ≠ 0 ∧ s.spad.readLe 20 4 + 1 = s.spad.readLe 16 4 ∧ w.spad.readLe 20 4 + 1 ≠ w.spad.readLe 16 4 ∧ s.spad.readLe 28 4 = 0
    ∧ 1 ≤ (s.reg 2).toNat ∧ (s.reg 2).toNat < 2 ^ 32 ∧ 2 ^ 32 ≤ (s.reg 4).toNat ∧ (5 + 2 ^ 32 - (s.reg 2).toNat) % 2 ^ 32 = 4 ∧ (5 + 2 ^ 32 - (s.reg 3).toNat) % 2 ^ 32 = 0
    ∧ w.spad.readLe 20 4 = 0 ∧ s.spad.readLe 20 4 ≠ 0 ∧ s.waitedOn 16 = false
    ∧ ({ s with threads := Store.put s.threads 5 { Thread.idle with waits := [.gen 16 9] } } : State).waitedOn 16 = true := by decide +kernel
theorem test_swadd_carries :
    answers (.swadd 1 2 .tile) (testSync [(2, 7)]) (fun t => decide (t.spad.readLe 20 4 = 0) && decide (t.spad.readLe 24 4 = 8)) = true := by decide +kernel
theorem test_bwarr_last :
    answers (.bwarr 3 1 .tile) (testSync []) (fun t => decide (t.reg 3 = 5) && decide (t.spad.readLe 20 4 = 0) && decide (t.spad.readLe 24 4 = 6)) = true := by
  decide +kernel
theorem witness_semaphores :
    let s := testRegs [(1, 0), (2, 31), (3, 32)]
    let u := { s with sync := { s.sync with sems := [(31, 65535)], waiters := [(0, [5])] } }
    s.cur < 49152 ∧ popOf s.mySlots = 16 ∧ ordinalPair s.mySlots 31 = some 31 ∧ ¬ (s.reg 3).toNat < 2 * popOf s.mySlots ∧ s.relPending s.cur = false
    ∧ (Store.find s.sync.sems 31).getD 0 = 0 ∧ 0 < (Store.find u.sync.sems 31).getD 0 ∧ (Store.find s.sync.waiters 0).getD [] = []
    ∧ (Store.find u.sync.waiters 0).getD [] = [5] := by decide +kernel

/-! ## Vector -/

/-- A record of four s32 elements, stride 1, at an offset of the own tile. -/
def testShape (base : Nat) : List Nat := [0x4000000000000000 + base, 0x102, 0x0001000100010004, 1]

/-- Records at 64 (g4), 96 (g5) and 128 (g6), with elements at 0x400, 0x480 and 0x500; a cut word in g7. -/
def testVec : State :=
  let s := testRegs [(4, 0x4000000000000040), (5, 0x4000000000000060), (6, 0x4000000000000080), (7, 1)]
  let m := testWords (testWords (testWords [] 64 (testShape 0x400)) 96 (testShape 0x480)) 128 (testShape 0x500)
  { s with spad := testWords (testWords m 0x480 [0x7FFFFFFF00000001]) 0x500 [0x0000000100000002] }

/-- A sweep of `vadd.s32 g4, g5, g6` as it waits in its core's queue, at a beat. -/
def testSweep (start : Bool) (beat : Nat) : Sweep :=
  { tid := 1, op := .vadd 4 5 6 .s32 Rnd.none, recs := [shapeOf (testVec.shapeWords 64), shapeOf (testVec.shapeWords 96), shapeOf (testVec.shapeWords 128)]
    md := .rne, dreg := 0, start := start, beat := beat, run := none, flags := 0, pois := false, inb := [], out := [], dep := none, pc := 0, left := 0 }

def testSwept (sw : Sweep) : State := testVec.setSweeps 0 [sw]

theorem witness_sweeps :
    let s := testVec
    (∀ p ∈ [((4 : Reg), 64), (5, 96), (6, 128)], s.recordHere (s.reg p.1) (shapeOf (s.shapeWords p.2)) ∧ s.placed (shapeOf (s.shapeWords p.2)) true none)
    ∧ memberBad { op := .vadd 4 5 6 .s32 Rnd.none, ty := .s32, recs := [(4, some 2), (5, some 2), (6, some 2)], dest := some 0, rnd := Rnd.none, dreg := 0 }
        (testSweep false 0).recs = none := by
  refine ⟨?_, by decide +kernel⟩
  intro p hp
  simp only [List.mem_cons, List.not_mem_nil, or_false] at hp
  rcases hp with rfl | rfl | rfl
  · exact ⟨⟨by decide, 64, by decide +kernel⟩, by unfold State.placed; decide +kernel⟩
  · exact ⟨⟨by decide, 96, by decide +kernel⟩, by unfold State.placed; decide +kernel⟩
  · exact ⟨⟨by decide, 128, by decide +kernel⟩, by unfold State.placed; decide +kernel⟩
theorem witness_sweep_events :
    let s := testSwept (testSweep false 0)
    let f := testSwept (testSweep true 1)
    let r := testSwept { testSweep true 1 with op := .vred 9 5 .s32 Rnd.none .sum, recs := [shapeOf (testVec.shapeWords 96)] }
    s.sweepQueue 0 = [testSweep false 0] ∧ s.runsFor 1 = true ∧ s.depClear (testSweep false 0).dep = true ∧ (s.sweepStep (testSweep true 0)).isSome = true
    ∧ f.sweepQueue 0 = [testSweep true 1] ∧ (testSweep true 1).beats ≤ 1 ∧ (testSweep true 1).out.length < 8
    ∧ (r.sweepQueue 0).map (fun w => decide (w.beats ≤ w.beat) && !w.pois) = [true] := by decide +kernel
theorem witness_beat_writes_results :
    (testSweep true 0).op = .vadd 4 5 6 .s32 Rnd.none ∧ (∀ k, k < 3 → ((testSweep true 0).recOf k).chan = false) ∧ (testSweep true 0).beatRange = [0, 1, 2, 3]
    ∧ testVec.ownKey 1 ((testSweep true 0).lead.offset (indexOf (testSweep true 0).lead.ext 3)) = some 1036 := by decide +kernel
theorem test_vadd_wraps :
    let u := (testVec.doBeat (testSweep true 0)).1
    u.spad.readLe 1024 4 = 3 ∧ u.spad.readLe 1028 4 = 0x80000000 ∧ u.spad.readLe 1036 4 = 0 := by decide +kernel
theorem witness_integer_elements : Ty.isFloat .n16 = false ∧ Ty.n16 ≠ .q4x ∧ 65535 < 2 ^ (8 * Ty.n16.bytes) := by decide
theorem test_vabs_clamps : elemOp (.vabs 1 2 .s8) .rne [0, 0x80, 0] = (0x7F, 32) := by decide +kernel
theorem witness_f8_codes : (200 : Nat) < 256 ∧ 480 ≤ 480 ∧ (0 : Int) ≤ 0 := by decide
theorem witness_round_to_integer : Ty.isFloat .s8 = false ∧ Ty.maxInt .s8 < 128 ∧ Ty.minInt .s8 ≤ -128 ∧ (-129 : Int) < Ty.minInt .s8 ∧ (127 : Int) * 2 ^ 0 ≤ Ty.maxInt .s8 := by
  decide
theorem test_f8_greatest : Ty.f8.value 0x7E = .num false 14 5 := by decide +kernel
theorem witness_vpart_writes_part :
    let s := testVec.setReg 7 4
    let r := shapeOf (s.shapeWords 96)
    s.cur < 49152 ∧ s.localAddr s.cur (s.reg 4) = .ok 64 ∧ s.localAddr s.cur (s.reg 5) = .ok 96 ∧ shapeOk (s.shapeWords 96) = true ∧ s.launchOf s.cur = some 0
    ∧ (s.launch 0).isSome = true ∧ (0x0001000000000001 : Word) &&& 0xFCFCFFFFFFFF0000 = 0 ∧ (0x0001000000000001 : Word).toNat / 2 ^ 48 % 4 ≤ 1 ∧ 0 < r.rank ∧ r.chan = false
    ∧ (r.ext.getD 0 0 + 1 - 1) / 1 = 4 ∧ ((s.launch 0).map (fun (l : Launch) => l.rows * l.cols)) = some 1 ∧ s.tagged 64 = false ∧ s.tagged 80 = false := by decide +kernel

theorem witness_sync_words_elsewhere :
    let s := testRegs [(1, 0x0001000000000010), (2, 0x0400000000000000), (3, 0x4000000000000014)]
    s.localAddr s.cur (s.reg 1) = .ok (2 ^ 20 + 16) ∧ (2 ^ 20 + 16) % 16 = 0 ∧ (2 ^ 20 + 16) / 2 ^ 20 ≠ s.cur / 48 ∧ s.localAddr s.cur (s.reg 3) = .ok 20
    ∧ s.localAddr s.cur (s.reg 2) = .error (0x05, 0x0400000000000000) ∧ (testPending s).relPending s.cur = true ∧ s.relPending s.cur = false
    ∧ (Why.gen 16 3).passed 16 5 = true ∧ (Why.gen 16 5).passed 16 5 = false := by decide +kernel
theorem witness_semaphore_cycles :
    let s := testRegs []
    let c (m : List (Nat × Option Reg)) (w : List Nat) : State :=
      { s with sync := { s.sync with waiters := [(0, w)], recent := [(0, { cycle := s.cycle, taken := 0, missed := m })] } }
    Store.find s.sync.recent 0 = none ∧ ((c [(5, none)] [5]).semCycle 0).missed = [(5, none)]
    ∧ ((Store.find (c [(5, none)] [5]).sync.waiters 0).getD []).find? (fun t => !([(5, none)] : List (Nat × Option Reg)).contains (t, none)) = none
    ∧ ((Store.find (c [(5, some 3)] []).sync.waiters 0).getD []).find? (fun t => !([(5, some 3)] : List (Nat × Option Reg)).contains (t, none)) = none
    ∧ ((Store.find (c [] [5]).sync.waiters 0).getD []).find? (fun t => !([] : List (Nat × Option Reg)).contains (t, none)) = some 5
    ∧ (testPending s).relPending s.cur = true := by decide +kernel
theorem witness_sweep_refusals :
    let cut : Shape := { base := 0x4000000000000400, ty := 2, rank := 1, chan := false, ext := [3, 1, 1, 1], str := [1, 0, 0, 0] }
    let m : Member := { op := .vadd 4 5 6 .s32 Rnd.none, ty := .s32, recs := [(4, some 2), (5, some 2), (6, some 2)], dest := some 0, rnd := Rnd.none, dreg := 0 }
    memberBad m [shapeOf (testVec.shapeWords 64), cut, cut] = some 1 ∧ (shapeOf (testVec.shapeWords 64)).chan = false := by decide +kernel
theorem witness_sweep_channels :
    let r : Shape := { base := testBase.coreWord 1 |>.setWidth 64, ty := 2, rank := 1, chan := true, ext := [4, 1, 1, 1], str := [0, 0, 0, 0] }
    testBase.cur = 1 ∧ testBase.chanPlaced r false ∧ testBase.chanPlaced r true := by
  refine ⟨by decide, ⟨by decide, (by simp), fun _ => by decide +kernel⟩, ⟨by decide, fun _ => ⟨1, by decide +kernel⟩, (by simp)⟩⟩
theorem witness_sweeps_behind :
    let other := { testSweep true 0 with tid := 49153 }
    let s := testVec.setSweeps 0 [{ other with dep := some 9 }, testSweep false 0]
    s.sweepReady { other with dep := some 9 } = false ∧ (s.launchOf 49153 ≠ s.launchOf 1) ∧ s.runsFor 1 = true
    ∧ s.sweepEnding { testSweep false 0 with tid := 49153 } = false := by decide +kernel

/-! ## Engines -/

/-- A copy record of sixteen f32 elements at place 64, a converter record of two such shapes at 128 (CVT, SVALID given),
a shape of one row at 256 (SELF), and a hand-off block at 320. -/
def testEngine (l : List (Reg × Word)) : State :=
  let s := testRegs l
  let shape (base : Nat) : List Nat := [0x4000000000000000 + base, 0x108, 0x0001000100010004, 1]
  let m := testWords [] 64 [0x0000000100000010, 0x0000000100000001, 0, 0, 0, 8, 0, 0]
  let m := testWords m 128 (shape 0x400 ++ shape 0x480 ++ [0x810000, 0, 0, 0])
  { s with spad := testWords (testWords m 256 (shape 0x500)) 320 [0, 4, 0, 0x81] }

/-- A job of the thread in issue that holds entry `e` of its tile. -/
def testJob (e : Nat) (op : JobOp) (engine : Nat) : Job := { (testEngine []).newJob engine engine op [] with entry := some e }

theorem witness_job_requests :
    let s := testEngine [(1, 0x0081000000000040), (2, testLabel), (3, 0x4000000000000400), (4, 0), (5, 0x4000000000000080)]
    let ws := s.recWords s.cur 64 8
    let cs := s.recWords s.cur 128 12
    let busy := { s with eng := { s.eng with jobs := [(7, { testJob 2 (.mzero 0 1 1) 1 with fifo := true })] } }
    (0 ≤ 9 ∧ s.reg 1 &&& 0x0060FFFFFFF00000 = 0 ∧ s.rangeOk s.cur 64 64 = true ∧ copyRecOk 0 ws = true ∧ s.localAddr s.cur (s.reg 3) = .ok 1024
      ∧ s.rangeOk s.cur 1024 ((copyRecOf ws).localBytes 0) = true ∧ (copyRecOf ws).localBytes 0 = 64 ∧ lblValid (s.reg 2) = true
      ∧ (s.reg 1).getLsbD 55 = true ∧ (s.reg 1).toNat / 2 ^ 48 % 32 = 1 ∧ ordinalPair s.mySlots 1 = some 1 ∧ s.jobReady s.cur = true
      ∧ busy.jobReady busy.cur = false ∧ (0x0000000000000040 : Word).getLsbD 55 = false)
    ∧ (s.localAddr s.cur (s.reg 5) = .ok 128 ∧ s.rangeOk s.cur 128 96 = true ∧ shapeOk (cs.take 4) = true ∧ shapeOk ((cs.drop 4).take 4) = true
      ∧ cs.getD 8 0 &&& 0xFFFFFFFFFF6000C0 = 0 ∧ (cs.drop 9).all (fun x => decide (x = 0)) = true
      ∧ convBad 0 (shapeOf (cs.take 4)) (shapeOf ((cs.drop 4).take 4)) = none ∧ (cs.getD 8 0).getLsbD 23 = true) := by decide +kernel
theorem witness_converter_placed :
    let s := testEngine []
    let cs := s.recWords s.cur 128 12
    s.placed (shapeOf (cs.take 4)) true none ∧ s.placed (shapeOf ((cs.drop 4).take 4)) false none := by
  unfold State.placed
  decide +kernel

theorem witness_dependencies_and_windows :
    let s := testEngine [(1, 0), (2, BitVec.allOnes 64), (3, 32), (4, 0x4000000000000400), (5, 0x40), (6, 0x41), (7, 0x4000000000000000)]
    let t := { s with eng := { s.eng with jobs := [(7, testJob 0 (.mzero 0 1 1) 3)] } }
    (s.cur < 49152 ∧ ordinalPair s.mySlots 0 = some 0 ∧ s.entryJob (s.cur / 48) 0 = none ∧ t.entryJob (t.cur / 48) 0 = some (7, testJob 0 (.mzero 0 1 1) 3)
      ∧ ¬ (s.reg 3).toNat < 2 * popOf s.mySlots ∧ s.reg 3 ≠ BitVec.allOnes 64 ∧ s.reg 2 = BitVec.allOnes 64 ∧ s.reg 1 ≠ BitVec.allOnes 64)
    ∧ (s.localAddr s.cur (s.reg 4) = .ok 1024 ∧ windowOf s.mySlots 0 = some 0 ∧ windowOf s.mySlots 7 = some 7 ∧ s.rangeOk s.cur 1024 64 = true
      ∧ s.reg 5 &&& 0xFFFFFFF8FFF00000 = 0 ∧ 0x40 % 64 = 0 ∧ s.streamInto (s.cur / 48) 0 0 = false ∧ 0x41 % 64 ≠ 0
      ∧ s.localAddr s.cur (s.reg 7) = .ok 0) := by decide +kernel
theorem test_dtqry_all :
    answers (.dtqry 3 2) { testEngine [(2, BitVec.allOnes 64)] with eng := { testBase.eng with jobs := [(7, testJob 3 (.mzero 0 1 1) 3)] } }
      (fun t => decide (t.reg 3 = 8)) = true := by decide +kernel

/-- The record at 256 with the matrix members' operands: a slice at 0, row words for one row of four columns. -/
def testMatrix : State :=
  testEngine [(1, 0x4000000000000100), (2, 0), (3, 0), (4, 0x030000), (5, 0x01030000), (6, 0x4000000000000140), (7, testLabel)]

theorem witness_matrix_instructions :
    let s := testMatrix
    let r := shapeOf (s.shapeWords 256)
    let ws := s.recWords s.cur 320 4
    let none0 := { s with launches := Store.upd s.launches 0 (fun (x : Launch) => { x with bbank := 0 }) }
    let full := { s with eng := { s.eng with jobs := [(7, testJob 2 (.mzero 0 1 1) 3), (8, testJob 3 (.mzero 0 1 1) 3)] } }
    (s.holdsArray = true ∧ none0.holdsArray = false ∧ s.freeEntry s.cur = some 2 ∧ full.freeEntry full.cur = none
      ∧ r.ty = Ty.f32.code.toNat ∧ r.rank ≤ 2 ∧ q4xOk r = true ∧ r.ext.getD 1 1 = 1 ∧ r.ext.getD 0 0 = 4
      ∧ (s.reg 2).toNat + tyBytes r.ty (r.ext.getD 0 0) ≤ s.sliceBytes ∧ s.reg 3 &&& ~~~ (0x3F : Word) = 0
      ∧ s.reg 4 &&& ~~~ (0x7F3F3F : Word) = 0 ∧ (s.reg 4).toNat / 65536 % 128 + 1 = 4 ∧ (s.reg 4).getLsbD 24 = false)
    ∧ ((s.reg 5).getLsbD 24 = true ∧ s.reg 5 &&& ~~~ (0x37F3F3F : Word) = 0 ∧ s.localAddr s.cur (s.reg 6) = .ok 320
      ∧ State.addrTile s.cur (s.reg 6) = some (s.cur / 48) ∧ s.rangeOk s.cur 320 32 = true ∧ (ws.getD 1 0).toNat < 2 ^ 32
      ∧ ws.getD 3 0 &&& ~~~ (0x9F : Word) = 0 ∧ lblValid (s.reg 7) = true ∧ ws.getD 2 0 = 0 ∧ (ws.getD 3 0).getLsbD 7 = true
      ∧ (ws.getD 3 0).toNat % 32 = 1 ∧ ordinalPair s.mySlots 1 = some 1) := by decide +kernel
theorem witness_matrix_records :
    testMatrix.recordHere (testMatrix.reg 1) (shapeOf (testMatrix.shapeWords 256)) ∧ testMatrix.placed (shapeOf (testMatrix.shapeWords 256)) true none := by
  refine ⟨⟨by decide, 256, by decide +kernel⟩, ?_⟩
  unfold State.placed
  decide +kernel
theorem witness_matrix_integer_cell :
    ([1, 2] : List Int).length ≤ 64 ∧ ([3, 4] : List Int).length = ([1, 2] : List Int).length ∧ (List.replicate 64 (1 : Int)).length = 64
    ∧ (2 : Int) ^ 31 - 1 < (2 ^ 31 - 1) + (List.zipWith (· * ·) [1, 2] [3, 4]).sum ∧ -(2 : Int) ^ 31 + (List.zipWith (· * ·) [1, 2] [-3, 0]).sum < -(2 ^ 31)
    ∧ (2 : Int) ^ 31 - 12 + (List.zipWith (· * ·) [1, 2] [3, 4]).sum = 2 ^ 31 - 1 := by decide
theorem test_mma_clamps : cellInt 64 2 [100, 100] [127, 127] 0x7FFFFFF0 = (0x7FFFFFFF, 32) := by decide +kernel

/-! ## Jobs under way -/

/-- The record at place 64. -/
def testCopyRec : CopyRec := copyRecOf ((testEngine []).recWords 1 64 8)

/-- `testData` with sixteen words to copy, a job 7 of thread 1 and, at place 16, its sync word. -/
def testJobs (j : Job) : State :=
  { testData with spad := testWords [] 16 [0x0000000200000003, 5], tags := [1], next := 9, eng := { testData.eng with jobs := [(7, j)] } }

/-- A started copy of sixteen f32 elements; `kind` 7 is a stream, 4 a put. -/
def testCopy (kind pos : Nat) : Job :=
  { testJob 2 (if kind = 4 then .copy 4 0x4000000000000400 testLabel testCopyRec else .copy kind testLabel 0x4000000000000400 testCopyRec) 1 with
    state := .started, pos := pos, sync := 0x4000000000000010, sem := some 1 }

/-- How a sector ends: 0 done, 1 a fault, 2 not yet. -/
def sectorKind : SectorEnd → Nat
  | .done _ _ => 0
  | .fault _ _ _ => 1
  | .hold => 2

theorem witness_job_life :
    let q := { testCopy 0 0 with state := .queued }
    let s := testJobs q
    let t := testJobs { q with edges := [8] }
    let e := { t with eng := { t.eng with jobs := Store.put t.eng.jobs 8 (testCopy 0 0) } }
    let w := { testJobs (testCopy 7 0) with wins := [(0, { base := 1024, len := 64, wm := 1024, landed := [] })] }
    let d := testJobs { testCopy 0 16 with edges := [] }
    s.job 7 = some q ∧ s.jobRuns 7 q = true ∧ s.openEdges q = [] ∧ e.openEdges { q with edges := [8] } = [8]
    ∧ q.pos < q.total ∧ q.ownEvent = false ∧ sectorKind (s.nextSector 7 { q with state := .started, fifo := false }) = 0
    ∧ w.jobRuns 7 (testCopy 7 0) = true ∧ sectorKind (w.nextSector 7 (testCopy 7 0)) = 0
    ∧ d.jobRuns 7 (testCopy 0 16) = true ∧ (testCopy 0 16).inArray = false ∧ (testCopy 0 16).total ≤ (testCopy 0 16).pos ∧ d.signalBad (testCopy 0 16) = false
    ∧ (testCopy 0 16).sync ≠ 0 ∧ d.localAddr 1 (testCopy 0 16).sync = .ok 16 := by decide +kernel
theorem test_job_completes :
    (match execJobComplete 7 (testJobs (testCopy 0 16)) with
    | .next t => decide (t.spad.readLe 20 4 = 0) && decide (t.spad.readLe 24 4 = 6) && decide (t.job 7 = none) && decide (Store.find t.sync.sems 1 = some 1)
    | _ => false) = true := by decide +kernel

/-- An operation of the array in issue order, by thread 1. -/
def testOp (op : JobOp) (pos : Nat) : Job := { testJob 2 op 3 with state := .started, waits := true, pos := pos }
def testRow : Shape := shapeOf ((testEngine []).shapeWords 256)

theorem witness_matrix_finish :
    let z := testOp (.mzero 63 1 128) 0
    let m := testOp (.mma testRow 0 63 .rne) 0
    let h := testOp (.handoff testLabel 0 4 8 63 1 128 true false .rne) 0
    let b := testOp (.mldb testRow 0) 0
    let d := testOp (.drain testRow 63 1 4 true .rne) 0
    let s (j : Job) : State := testJobs j
    let p := { s m with eng := { (s m).eng with bPois := [0] } }
    (s z).job 7 = some z ∧ (s z).jobRuns 7 z = true ∧ 63 + 1 ≤ 64
    ∧ (s m).jobRuns 7 m = true ∧ (s m).keysHeld (testRow.places.flatMap ((s m).elemKeys 1 testRow)) = false ∧ (s m).mmaPoisoned m testRow 0 = false
    ∧ p.mmaPoisoned m testRow 0 = true ∧ testRow.ext.getD 1 1 = 1 ∧ (s h).jobRuns 7 h = true
    ∧ (s b).jobRuns 7 b = true ∧ b.pos < b.total ∧ sectorKind ((s b).nextSector 7 b) = 0 ∧ b.total ≤ b.pos + 1
    ∧ (s d).jobRuns 7 d = true ∧ d.pos < d.total ∧ sectorKind ((s d).nextSector 7 d) = 0 := by decide +kernel

/-- The fault ring of virtual function 0, of one record, with the buffer of its partition on die 0. -/
def testRing (r : List FaultRec) (produced : Nat) (posted : Store (Nat × Nat)) (j : Job) (action : Nat) : State :=
  let s := testJobs j
  let dir := { testDir with kids := [(1, 704)] }
  let ring := { testDir with extent := 128, pages := [(0, .present 3)] }
  { s with
    maps := { s.maps with nodes := s.maps.nodes ++ [(640, dir), (704, ring)], roots := s.maps.roots ++ [(4095, (1, 640))] }
    dram := (s.dram.writeLe (3 * 65536) 8 produced).writeLe (3 * 65536 + 64 + 56) 1 action
    eng := { s.eng with faults := if r = [] then [] else [(0, r)], posted := posted } }

theorem witness_job_faults :
    let j := { testCopy 0 0 with op := .copy 0 0x0050000000000000 0x4000000000000400 testCopyRec }
    let k := { testCopy 0 0 with state := .parked 6 testLabel true }
    let s := testJobs j
    let r := s.faultRecord 7 j 6 0
    let a := testRing [] 1 [(0, (7, 1))] k 1
    let c := testRing [] 1 [(0, (7, 2))] k 2
    let d := testRing [r] 0 [] j 0
    let f := testRing [r] 1 [] j 0
    s.depClear j.dep = true ∧ s.engineTurn 7 j = true ∧ j.pos < j.total ∧ sectorKind (s.nextSector 7 j) = 1 ∧ s.runsFor 1 = true
    ∧ s.tagged 16 = true ∧ Store.find a.eng.posted 0 = some (7, 1) ∧ Store.find c.eng.posted 0 = some (7, 2)
    ∧ Store.find d.eng.faults 0 = some [r] ∧ d.ringNode 0 = some (704, 1) ∧ (d.pageChecks 0 0 (pagesOf [(704, 0), (704, 64), (704, 127)])).2 = none
    ∧ (0 + 2 ^ 64 - d.homeWord 704 8) % 2 ^ 64 < 1 ∧ 1 ≤ (1 + 2 ^ 64 - f.homeWord 704 8) % 2 ^ 64 ∧ d.homeWord 704 0 = 0 ∧ f.homeWord 704 0 = 1 := by
  decide +kernel

/-- A parameter set of two blocks of two f32 elements, without moments, under root 6; its rule is W ← W − G. -/
def testSet : Node :=
  { testDir with kind := 4, extent := 272, words := ⟨#[0x8000000000020002, 0, 0, 0, 0], rfl⟩, kids := [], pages := [(0, .present 3)] }

def testForum (f : Option Forum) (j : Job) (l : List (Reg × Word)) : State :=
  let s := testJobs j
  let u := { s with
    maps := { s.maps with nodes := s.maps.nodes ++ [(640, testSet)], roots := s.maps.roots ++ [(6, (1, 640))] }
    dram := (s.dram.writeLe (3 * 65536) 4 1).writeLe (3 * 65536 + 128) 4 (2 * 2 ^ 27 + 2 ^ 22 + 2 ^ 17)
    eng := { s.eng with forums := match f with
      | some f => [(640, f)]
      | none => [] } }
  l.foldl (fun s p => s.setReg p.1 p.2) u

/-- A gradient block (8) or weight read (9) of block 0 of the set, for a step. -/
def testBlockJob (kind step : Nat) : Job :=
  let r := { testCopyRec with ext := [2, 1, 1, 1], goff := BitVec.ofNat 64 step }
  { testJob 2 (if kind = 8 then .copy 8 0x4000000000000400 (lblChild 0x0060000000000000 1) r
               else .copy kind (lblChild 0x0060000000000000 1) 0x4000000000000400 r) 1 with state := .started }

def targetOk (r : Except (Nat × Word) (Nat × Node × Nat)) : Bool :=
  match r with
  | .ok (id, n, k) => decide (id = 640) && decide (n = testSet) && decide (k = 0)
  | .error _ => false

/-- How a merge is judged: 0 fault, 1 hold, 2 arrive, 3 turn. -/
def mergeKind : MergeEnd → Nat
  | .fault _ _ => 0
  | .hold => 1
  | .arrive _ => 2
  | .turn _ _ => 3

theorem witness_merges_and_forum :
    let m (slice : Nat) : Job := { testCopy 6 0 with op := .copy 6 0x4000000000000400 testLabel testCopyRec, slice := BitVec.ofNat 32 slice }
    let g (step : Nat) : State := testForum none (testBlockJob 8 step) []
    let w (step : Nat) : State := testForum none (testBlockJob 9 step) []
    let mir (x : MirrorOp) : State := { g 0 with eng := { (g 0).eng with mirror := [(5, { src := 9, member := 0x0030000000000000, vf := 0, req := 1, op := x })] } }
    (m 0).contribution = some (8, 16, 0) ∧ (testJobs (m 0)).jobRuns 7 (m 0) = true ∧ (testJobs (m 0)).jobHome (m 0) = none
    ∧ mergeKind ((testJobs (m 0)).judgeMerge 7 (m 0) 8 16 0) = 3 ∧ mergeKind ((testJobs (m 63)).judgeMerge 7 (m 63) 8 16 0) = 2
    ∧ mergeKind ((testJobs (m 64)).judgeMerge 7 (m 64) 8 16 0) = 1 ∧ sectorKind ((testJobs (m 0)).mergeSector (m 0)) = 0
    ∧ (∀ step ∈ [0, 1, 2], (g step).forumFault 7 (testBlockJob 8 step) 8 { testCopyRec with ext := [2, 1, 1, 1], goff := BitVec.ofNat 64 step } = none
        ∧ (g step).unitHeld (testBlockJob 8 step) 8 0x4000000000000400 { testCopyRec with ext := [2, 1, 1, 1] } 0 2 = false
        ∧ targetOk ((g step).forumTarget (testBlockJob 8 step) true) = true)
    ∧ (g 0).forum 640 = { (g 0).forum 640 with closed := 0, applied := [], early := [] } ∧ ((g 0).needPages 0 640 [(640, 0)]).2 = none
    ∧ ((g 1).applyBlock 640 testSet 0 ((g 1).gradient (testBlockJob 8 1) 0x4000000000000400 { testCopyRec with ext := [2, 1, 1, 1] })).2 = none
    ∧ (∀ step ∈ [0, 1], (w step).forumFault 7 (testBlockJob 9 step) 9 { testCopyRec with ext := [2, 1, 1, 1], goff := BitVec.ofNat 64 step } = none
        ∧ targetOk ((w step).forumTarget (testBlockJob 9 step) false) = true)
    ∧ Store.find (mir (.block 0x0060000000000000 0 1 [(1, false), (1, false)])).eng.mirror 5 ≠ none ∧ (g 0).node 640 = some testSet
    ∧ ((g 0).judgeBlock 640 testSet 0 1 [(1, false), (1, true)]).2.toOption = some true ∧ ((g 0).pclose 640 testSet 1 2).2.toOption = some 2 := by decide +kernel
theorem test_rule_runs :
    ((testForum none (testBlockJob 8 1) []).applyRule 640 testSet { ops := [2 * 2 ^ 27 + 2 ^ 22 + 2 ^ 17], consts := [] } 0 [(0x3F800000, false), (0, true)]).setWord 640 256
      = 0xBF800000 := by decide +kernel
theorem witness_parameter_instructions :
    let s := testForum none (testBlockJob 8 1) [(1, 0x0060000000000000), (2, 1), (3, 0x200000001), (4, 0x400000000), (5, 2), (6, testLabel), (7, 0x300000000)]
    let f := testForum (some { (s.forum 640) with applied := [0, 1] }) (testBlockJob 8 1) []
    s.remoteHome (s.reg 1) = none ∧ 2 ^ 34 ≤ (s.reg 4).toNat ∧ (s.reg 7).toNat / 2 ^ 32 % 4 = 3
    ∧ resolvesTo (resolve s.maps (s.mapOf s.cur) (s.reg 1)) (0x0060000000000000, { node := 640, child := none }) = true ∧ s.supRefuses 640 = false
    ∧ resolvesTo (resolve s.maps (s.mapOf s.cur) (s.reg 6)) (testLabel, { node := 256, child := none }) = true ∧ s.supRefuses 256 = false
    ∧ s.relPending s.cur = false ∧ (s.reg 2).toNat < 2 ^ 34 ∧ (s.reg 3).toNat / 2 ^ 32 % 4 = 2 ∧ s.node 640 = some testSet ∧ testSet.kind = 4
    ∧ (s.forum 640).closed.toNat = 0 ∧ (s.reg 5).setWidth 32 ≠ (s.forum 640).closed + 1 ∧ (s.reg 2).setWidth 32 = (s.forum 640).closed + 1
    ∧ (s.forum 640).heldNow = [] ∧ (s.forum 640).applied.length < testSet.blockCount ∧ testSet.blockCount ≤ (f.forum 640).applied.length
    ∧ s.partner testSet = none ∧ (s.needPages testSet.vf 640 [(640, 0)]).2 = none ∧ ((s.node 256).map (·.kind)) = some 1 := by decide +kernel

theorem witness_engine_cycles :
    let s := testJobs (testCopy 0 0)
    let busy : State := { s with threads := Store.put s.threads 16 { (s.thread 1) with sys := { (s.thread 1).sys with pend := some (6, 0) } } }
    s.issuesDone = true ∧ busy.issuesDone = false ∧ s.mirrorOpen (testCopy 0 0).mirr = false
    ∧ (testJobs (testCopy 7 0)).streamInto 0 1024 1088 = true
    ∧ (Store.find s.sync.waiters 1).getD [] = [] ∧ (s.semCycle 1).missed = []
    ∧ ((Store.find ({ s.sync with waiters := [(1, [5])] } : SyncState).waiters 1).getD []).find?
      (fun t => !((s.semCycle 1).missed.contains (t, none))) = some 5 := by decide +kernel
theorem witness_fault_buffers :
    let j := { testCopy 0 0 with op := .copy 0 0x0050000000000000 0x4000000000000400 testCopyRec }
    let r := (testJobs j).faultRecord 7 j 6 0
    let s (n : Nat) (l : List FaultRec) : State := { testJobs j with eng := { (testJobs j).eng with faults := [(0, List.replicate n r)], late := [(0, l)] } }
    let d : State := { testRing [r] 0 [] j 0 with eng := { (testRing [r] 0 [] j 0).eng with late := [(0, [r])] } }
    let foul : State := { testRing [r] 0 [] j 0 with dram := (testRing [r] 0 [] j 0).dram.write (3 * 65536 + 20) 1 }
    64 ≤ ((Store.find (s 64 []).eng.faults 0).getD []).length ∧ (Store.find (s 1 [r]).eng.late 0).getD [] ≠ []
    ∧ ((Store.find (s 1 []).eng.faults 0).getD []).length < 64
    ∧ ((List.range 48).all (fun i => decide (d.homeByte 704 (16 + i) = 0))) = true ∧ Store.find d.eng.late 0 = some [r]
    ∧ ((List.range 48).all (fun i => decide (foul.homeByte 704 (16 + i) = 0))) = false
    ∧ ({ d.mod.host with unmasked := [0] } : HostState).unmasked.contains 0 = true ∧ d.mod.host.unmasked.contains 0 = false := by decide +kernel

/-- The set with a partner under root 3, whose home is module 2. -/
def testPair (f : Option Forum) (j : Job) : State :=
  let s := testForum f j []
  { s with maps := { s.maps with nodes := Store.upd s.maps.nodes 640 (fun n => { n with words := ⟨#[0x8000000000020002, 0, 0x0030000000000000, 0, 0], rfl⟩ }) } }

theorem witness_forum_partners :
    let s := testPair none (testBlockJob 8 1)
    (s.node 640).map (s.partner ·) = some (some 2) ∧ (s.node 640).map (fun n => (s.judgeBlock 640 n 0 1 []).2.toOption) = some (some true)
    ∧ (s.node 640).map (fun n => decide (n.mirror ≠ 0)) = some true := by decide +kernel

/-- A forwarded operation that has reached the set. -/
def testMirror (op : MirrorOp) : State :=
  let s := testForum none (testBlockJob 8 1) []
  { s with eng := { s.eng with mirror := [(5, { src := 2, member := 0x0030000000000000, vf := 0, req := 4, op := op })] } }

theorem witness_mirror_operations :
    let l : Word := 0x0060000000000000
    (∀ op ∈ [MirrorOp.block l 0 1 [], .close l 1 2, .write l [(256, 1)], .join l 3 [(256, 1)] []], (testMirror op).eng.mirror ≠ []
      ∧ (canonAt (testMirror op).maps 0 l).map (·.2) = some { node := 640, child := none } ∧ (testMirror op).node 640 = some testSet)
    ∧ testSet.kind = 4 ∧ ((testMirror (.write l [(256, 1)])).needPages 0 640 [(640, 0)]).2 = none := by decide +kernel
theorem witness_block_fates :
    let s (f : Forum → Forum) : State := let u := testForum none (testBlockJob 8 1) []
      testForum (some (f (u.forum 640))) (testBlockJob 8 1) []
    let dup := s (fun f => { f with applied := [0] })
    let held := s (fun f => { f with early := [(256, [])] })
    let late := s (fun f => { f with closed := 4 })
    (1 : BitVec 32).toNat ≤ (late.forum 640).closed.toNat ∧ (dup.forum 640).applied.contains 0 = true ∧ (dup.forum 640).closed.toNat + 1 = 1
    ∧ (Store.find (held.forum 640).early (256 + 0)).isSome = true ∧ Store.find (held.forum 640).early (256 + 1) = none
    ∧ (held.forum 640).closed.toNat + 2 = 2 ∧ (dup.forum 640).heldNow = [] ∧ (dup.needPages 0 640 [(640, 0)]).2 = none
    ∧ (({ dup with dram := dup.dram.writeLe (3 * 65536 + 128) 4 (63 * 2 ^ 26) } : State).applyBlock 640 testSet 1 []).2.isSome = true := by decide +kernel
theorem witness_parameter_closes :
    let s := testForum none (testBlockJob 8 1) []
    let bad : State := { s with dram := s.dram.writeLe (3 * 65536 + 128) 4 (63 * 2 ^ 26) }
    (testPending s).relPending s.cur = true ∧ (s.stepRule 640 testSet).isSome = true ∧ bad.stepRule 640 testSet = none
    ∧ (List.range testSet.blockCount).filter (fun k => !(s.forum 640).applied.contains k) = [0, 1]
    ∧ (s.needPages 0 640 ([0, 1].flatMap (Node.blockPages 640 testSet))).2 = none
    ∧ ({ s.forum 640 with closed := BitVec.allOnes 32 } : Forum).closed.toNat = 2 ^ 32 - 1 ∧ (s.setReg 1 0x0030000000000000).remoteHome 0x0030000000000000 = some 2 := by
  decide +kernel
theorem witness_held_blocks :
    let j := testBlockJob 8 1
    let s := testForum none j []
    let w : State := { s with wins := [(0, { base := 1024, len := 64, wm := 1024, landed := [] })] }
    s.issuesDone = true ∧ s.jobHome j = none ∧ s.jobRuns 7 j = true ∧ w.unitHeld j 8 0x4000000000000400 testCopyRec 0 1 = true
    ∧ (s.getUnits j 9 0x4000000000000400 testCopyRec 0 [[(0, false)]] |> sectorKind) = 0 := by decide +kernel

/-! ## Tasks, queues and launches -/

/-- The launch of `testBase`, changed. -/
def testLaunch (f : Launch → Launch) (s : State) : State := { s with launches := Store.upd s.launches 0 f }
def testWork (f : LaunchWork → LaunchWork) (s : State) : State := testLaunch (fun l => { l with work := f l.work }) s

/-- A task record of slice `n`. -/
def testTask (n : Nat) : TaskRec :=
  { entry := 0, arg0 := 11, arg1 := 12, sync := 0, slice := BitVec.ofNat 32 n, stolen := false, origin := 0 }

/-- A context of the launch from thread 2 to core 0. -/
def testCtx : Ctx := { launch := 0, sender := 2, core := 0, pc := 0, left := 0, task := 0, slice := 0, wide := false, regs := List.replicate 16 7, bad := List.replicate 16 false, hold := Held.none }

/-- A launch of three cores: `testBase`'s own. -/
def theLaunch (s : State) : Launch := (s.launch 0).getD { (testLaunch id testBase).newLaunch 0 0 0 [] with phase := .running }

theorem witness_task_instructions :
    let s := testDataRegs [(1, 0x4000000000000400), (2, testLabel), (3, 63), (4, 64), (5, (coreNumber 0 0 0).setWidth 64), (6, 0xFFFFFFFFFFFFFFFF)]
    let b := { s with spad := testWords [] 1024 [4, 0, 0, 0] }
    let f := testWork (fun w => { w with deques := [(0, List.replicate 64 (testTask 1))] }) s
    let g := testWork (fun w => { w with deques := [(0, [testTask 0])] }) s
    let t := (testSync []).updMe (fun t => { t with task := 0x4000000000000010 })
    let out := coreNumber 33 0 0
    (s.launchOf s.cur = some 0 ∧ (s.launch 0).isSome = true ∧ (theLaunch s).slots.getLsbD (s.cur % 16) = true)
    ∧ (s.localAddr s.cur (s.reg 1) = .ok 1024 ∧ b.spad.readLe 1024 8 % 8 ≠ 0 ∧ s.spad.readLe 1024 8 = 0 ∧ s.relPending s.cur = false
      ∧ 4 * popOf (theLaunch f).slots ≤ ((theLaunch f).deque 0).length ∧ (theLaunch s).deque 0 = []
      ∧ ((theLaunch f).deque 0).getLast? = some (testTask 1) ∧ (testTask 1).slice ≠ s.me.slice
      ∧ ((theLaunch g).takeBottom 0).map (·.1) = some (testTask 0) ∧ (testTask 0).slice = g.me.slice)
    ∧ (s.me.vectorBusy = false ∧ s.me.task = 0 ∧ t.me.task ≠ 0 ∧ t.localAddr t.cur t.me.task = .ok 16 ∧ t.swAddOk 16 = true
      ∧ ({ t with tags := [] } : State).swAddOk 16 = false ∧ t.relPending t.cur = false)
    ∧ (parseCore (s.reg 5) = some (0, 0, 0) ∧ (theLaunch s).hasTile 0 = true ∧ parseCore (s.reg 6) = none
      ∧ parseCore (out.setWidth 64) = some (33, 0, 0) ∧ (theLaunch s).hasTile 33 = false
      ∧ s.remoteHome (s.reg 2) = none ∧ resolvesTo (resolve s.maps (s.mapOf s.cur) (s.reg 2)) (testLabel, { node := 256, child := none }) = true
      ∧ s.node 256 = some testTensor ∧ (s.reg 3).toNat < testTensor.targetExtent none ∧ testTensor.targetExtent none ≤ (s.reg 4).toNat)
    ∧ (s.phaseWaiters (theLaunch s) 0 = [] ∧ (theLaunch s).neighbours 0 = [] ∧ (theLaunch (testLaunch (fun l => { l with cols := 2 }) s)).neighbours 0 = [1]
      ∧ ¬ ((theLaunch (testLaunch (fun l => { l with cols := 2 }) s)).count 0 + 1 + 2 ^ 32
        - (theLaunch (testLaunch (fun l => { l with cols := 2 }) s)).least 0) % 2 ^ 32 ≤ 0) := by decide +kernel
theorem test_dqpop_writes :
    answers (.dqpop 9) (testWork (fun w => { w with deques := [(0, [testTask 3, testTask 0])] }) testBase) (fun t =>
      decide (t.reg 9 = 1) && decide (t.reg 1 = 11) && decide (t.reg 2 = 12) && decide ((theLaunch t).deque 0 = [testTask 3])) = true := by decide +kernel

/-- The same launch with thread 1 free to take work. -/
def testFree (f : LaunchWork → LaunchWork) : State := (testWork f testBase).updThread 1 (fun t => { t with work := false })

/-- The thread that takes work next on core 0, with its launch's number. -/
def takes (s : State) : Option (Nat × Nat) := (s.takerOn 0).map (fun x => (x.1, x.2.1))

theorem witness_task_events :
    let a := testFree (fun w => { w with arrivals := [(0, [testCtx])] })
    let d := testFree (fun w => { w with deques := [(0, [testTask 0])] })
    let e := testFree id
    let k := testFree (fun w => { w with steals := [(0, .asking [1, 2])], deques := [(1, [testTask 0, testTask 1])] })
    let n := testFree (fun w => { w with steals := [(0, .asking [1, 2])] })
    let r := testFree (fun w => { w with steals := [(0, .answered [2] 1 (some (testTask 0)))] })
    let o := testFree (fun w => { w with steals := [(0, .answered [] 1 none)] })
    let c := { e with sync := { e.sync with ctxs := [(7, (testCtx, .travelling)), (8, (testCtx, .accepted)), (9, (testCtx, .refused 0x0F 0))] } }
    let f := testWork (fun w => { w with arrivals := [(0, [testCtx])] }) c
    let two := testLaunch (fun l => { l with cols := 2 }) e
    takes a = some (0, 0) ∧ (theLaunch a).arrivals 0 = [testCtx] ∧ Store.find (theLaunch a).work.spilled 0 = none
    ∧ takes d = some (0, 0) ∧ (theLaunch d).arrivals 0 = [] ∧ ((theLaunch d).takeBottom 0).map (·.1) = some (testTask 0) ∧ d.targetCheck 0 (theLaunch d).code 0 = none
    ∧ takes e = some (0, 0) ∧ (theLaunch e).deque 0 = []
    ∧ (theLaunch n).deque 1 = [] ∧ ((theLaunch k).takeTop 1).map (·.1) = some (testTask 0) ∧ Store.find (theLaunch k).work.steals 0 = some (.asking [1, 2])
    ∧ Store.find (theLaunch o).work.steals 0 = some (.answered [] 1 none) ∧ Store.find (theLaunch r).work.steals 0 = some (.answered [2] 1 (some (testTask 0)))
    ∧ ((theLaunch r).threadsOn 0).find? (fun t => r.wantsWork (theLaunch r) t) = some 0
    ∧ Store.find c.sync.ctxs 7 = some (testCtx, .travelling) ∧ ((theLaunch c).arrivals 0).length < (theLaunch c).limit
    ∧ (theLaunch f).limit ≤ ((theLaunch f).arrivals 0).length ∧ (theLaunch f).spill = 0
    ∧ Store.find c.sync.ctxs 8 = some (testCtx, .accepted) ∧ Store.find c.sync.ctxs 9 = some (testCtx, .refused 0x0F 0)
    ∧ (theLaunch two).hasTile 1 = true ∧ (theLaunch two).hasTile 0 = true ∧ 1 ∈ (theLaunch two).neighbours 0 ∧ two.phaseWaiters (theLaunch two) 0 = [] := by
  decide +kernel

/-- The tensor's page as a spill area of one slot, the launch's own; its queue is full. -/
theorem witness_spill :
    let s := testWork (fun w => { w with arrivals := [(0, [testCtx])] }) { testData with
      maps := { testData.maps with nodes := Store.put testData.maps.nodes 256 { testTensor with kind := 0, extent := 224 } }
      dram := testData.dram.writeLe 65536 8 1 }
    (s.spill testLabel testCtx).2.toOption = some () ∧ (theLaunch s).limit ≤ ((theLaunch s).arrivals 0).length := by decide +kernel

theorem witness_completion_detection :
    let s := testBase
    let i := testFree (fun w => { w with steals := [(0, .resting)] })
    let d (rounds : Nat) (mark : Bool) : State := testFree (fun w => { w with tokDue := true, rounds := rounds, tokMark := mark })
    let q := (d 1 false).updThread 1 (fun t => { t with work := true, waits := [.quiet] })
    (s.launch 0).isSome = true ∧ (theLaunch s).phase = .running ∧ s.partRuns (theLaunch s).part = true ∧ (theLaunch s).work.tokDue = false
    ∧ s.coreIdle 0 (theLaunch s) 0 = false ∧ i.coreIdle 0 (theLaunch i) 0 = true ∧ (theLaunch (d 0 true)).work.tokMark = true
    ∧ (theLaunch (d 0 false)).work.rounds = 0 ∧ (theLaunch q).threads.filter (fun t => (q.thread t).waits.contains .quiet) = [1]
    ∧ (theLaunch (d 1 false)).threads.filter (fun t => ((d 1 false).thread t).waits.contains .quiet) = []
    ∧ (d 1 false).completionHeld (theLaunch (d 1 false)) = false
    ∧ (let b := { d 1 false with accs := [(7, testAccess (.glob 256 none 0 0x0040000000000000) (.store 1) .accepted)] }
      b.completionHeld (theLaunch b) = true) := by decide +kernel

/-- A packet of `placedLabel`'s code: `slices` slices, two-word fields 5 to 7 as given. -/
def testPacket (w5 w6 w7 : Nat) : List Nat := [placedLabel.toNat, 0, 0, 0, 0, w5, w6, w7]

/-- Queue 3 of virtual function 0, whose ring of one packet is the tensor's page; its packet stands in the ring and at place
1,024; place 16 holds a tagged word of GEN 5 and a status. -/
def testQueue (p : List Nat) (state tail : Nat) (l : List (Reg × Word)) : State :=
  let s := testDataRegs l
  { s with
    dram := testWords s.dram 65536 p, spad := testWords (testWords [] 1024 p) 16 [0x0000000200000003, 0x0000000100000005], tags := [1]
    parts := [(0, { (s.part 0) with qquota := 4 })]
    mod := { s.mod with host := { s.mod.host with queues := [(3, { Queue.fresh with ring := testLabel, state := state, tail := BitVec.ofNat 32 tail })] } } }

/-- What stands at a queue's head: 0 idle, 1 refused, 2 cancelled, 3 ready. -/
def headKind : HeadState → Nat
  | .idle => 0
  | .refused _ => 1
  | .cancelled _ => 2
  | .ready _ => 3

def goodPacket : List Nat := testPacket 0x100 (2 ^ 48 + 2 ^ 42) 0

theorem witness_queues_and_launches :
    let l : List (Reg × Word) := [(1, 0x4000000000000400), (2, 3), (3, 4)]
    let s := testQueue goodPacket 1 0 l
    let b := testQueue (testPacket 0 (2 ^ 48 + 2 ^ 42) 0) 1 1 l
    let c (dn : Nat) : State := testQueue (testPacket 0x120 (2 ^ 48 + 2 ^ 42 + dn) 1) 1 1 l
    let f := testQueue goodPacket 1 1 l
    let ws := (List.range 8).map (fun i => BitVec.ofNat 64 (s.spad.readLe (1024 + 8 * i) 8))
    let bs := (List.range 8).map (fun i => BitVec.ofNat 64 (b.spad.readLe (1024 + 8 * i) 8))
    (s.localAddr s.cur (s.reg 1) = .ok 1024 ∧ s.relPending s.cur = false ∧ (s.reg 2).toNat < (s.part 0).qquota.toNat ∧ ¬ (s.reg 3).toNat < (s.part 0).qquota.toNat
      ∧ s.packetBad 0 ws = none ∧ b.packetBad 0 bs ≠ none ∧ 2 ^ (f.queue 0 3).log2 ≤ ((f.queue 0 3).tail - (f.queue 0 3).head).toNat
      ∧ ((s.queue 0 3).tail - (s.queue 0 3).head).toNat < 2 ^ (s.queue 0 3).log2 ∧ (s.ringWrite 0 testLabel 0 ws).2 = none
      ∧ ((s.ringWrite 0 0x0050000000000000 0 ws).2).map (·.1) = some 0x06)
    ∧ ((testBase).sysVf = some 0 ∧ ({ s with cur := 49343 } : State).sysVf = none
      ∧ (s.launches.filter (fun l => decide (l.2.vf = 0) && decide (l.2.queue = 3) && decide (l.2.phase ≠ .waiting))).length = 0
      ∧ (testBase.launches.filter (fun l => decide (l.2.vf = 0) && decide (l.2.queue = 0) && decide (l.2.phase ≠ .waiting))).length = 1
      ∧ 2 ^ ((testQueue goodPacket 0 2 l).queue 0 3).log2 < (((testQueue goodPacket 0 2 l).queue 0 3).tail - 0).toNat)
    ∧ ((f.judgeHead 0 3).2 |> headKind) = 3 ∧ ((b.judgeHead 0 3).2 |> headKind) = 1 ∧ (((c 0).judgeHead 0 3).2 |> headKind) = 2
    ∧ (((c (2 ^ 16 + 1)).judgeHead 0 3).2 |> headKind) = 2 ∧ ((s.judgeHead 0 3).2 |> headKind) = 0 ∧ s.partOfVf 0 = some 0 ∧ s.syncWordKey 0 0 1 = some 16 := by
  decide +kernel
theorem witness_launch_events :
    let s := testLaunch (fun l => { l with phase := .waiting, slices := 200 }) testBase
    let p (start : Nat) : State := testLaunch (fun l => { l with phase := .placed, start := start }) testBase
    (theLaunch s).phase = .waiting ∧ s.partRuns 0 = true ∧ s.fits 0 (theLaunch s) 31 31 = true ∧ s.overtakes (theLaunch s) = false
    ∧ (theLaunch s).work.deques = [] ∧ 0 < (theLaunch s).cores ∧ (theLaunch s).slices ≤ 2 ^ 24
    ∧ (theLaunch (p 0)).start ≤ (p 0).time ∧ (p 9).time < (theLaunch (p 9)).start := by decide +kernel
theorem test_deal :
    let l := (testLaunch (fun l => { l with slices := 200 }) testBase |> theLaunch).deal
    ((l.deque 1).map (·.slice)).take 3 = [1, 4, 7] ∧ (l.deque 1).length = 64 ∧ Store.find l.work.dealt 1 = some [193, 196, 199] := by decide +kernel

theorem witness_task_waits :
    let s := testDataRegs [(2, 0x0030000000000000), (3, 63)]
    let two := testLaunch (fun l => { l with cols := 2, allow := 0 }) s
    let past (l : Launch) : Nat := (l.count 0 + 1 + 2 ^ 32 - (l.least 0 + l.allow) % 2 ^ 32) % 2 ^ 32
    let free := testLaunch (fun l => { l with cols := 2, allow := 1 }) s
    (testPending s).relPending s.cur = true ∧ (testPending s).buffered s.cur ≠ [] ∧ s.buffered s.cur = [] ∧ s.me.vectorBusy = false
    ∧ s.remoteHome (s.reg 2) = some 2 ∧ s.me.far = none ∧ (s.updMe (fun t => { t with far := some (s.reg 2, s.reg 3) })).me.far = some (s.reg 2, s.reg 3)
    ∧ (theLaunch two).neighbours 0 ≠ [] ∧ past (theLaunch two) = 1 ∧ past (theLaunch free) = 0 := by decide +kernel
theorem witness_steals :
    let ask : StealState := .asking [1, 2]
    let k (f : LaunchWork → LaunchWork) : State := testFree (fun w => f { w with steals := [(0, ask)], deques := [(1, [testTask 0])] })
    let busy := (k id).updThread 1 (fun t => { t with work := true })
    let full : State := { busy with threads := (List.range 16).map (fun i => (i, { busy.thread 1 with work := true })) }
    let vic : State := { k id with threads := (List.range' 16 16).map (fun i => (i, { busy.thread 1 with work := true })) }
    let other := k (fun w => { w with steals := [(0, ask), (2, .answered [] 1 (some (testTask 0)))] })
    let got := { full with launches := (testFree (fun w => { w with steals := [(0, .answered [2] 1 (some (testTask 0)))] })).launches }
    let none' (vs : List Nat) := testFree (fun w => { w with steals := [(0, .answered vs 1 none)] })
    (k id).mayAsk (theLaunch (k id)) 0 = true ∧ full.mayAsk (theLaunch full) 0 = false
    ∧ (∃ q ∈ (theLaunch other).work.steals, q.1 ≠ 0 ∧ ∃ us r, q.2 = .answered us 1 (some r))
    ∧ (¬ ∃ q ∈ (theLaunch (k id)).work.steals, q.1 ≠ 0)
    ∧ ((theLaunch (k id)).threadsOn 1).any ((k id).wantsWork (theLaunch (k id))) = true
    ∧ vic.mayAsk (theLaunch vic) 0 = true ∧ ((theLaunch vic).threadsOn 1).any (vic.wantsWork (theLaunch vic)) = false
    ∧ ((theLaunch got).threadsOn 0).find? (fun t => got.wantsWork (theLaunch got) t) = none
    ∧ (none' [2]).mayAsk (theLaunch (none' [2])) 0 = true ∧ (theLaunch (none' [])).work.steals = [(0, .answered [] 1 none)]
    ∧ (theLaunch (testFree (fun w => { w with spilled := [(0, 1)] }))).spilledFor 0 ≠ 0 ∧ testCtx.hold = Held.none := by
  refine ⟨by decide +kernel, by decide +kernel, ⟨_, List.mem_cons_of_mem _ (List.mem_singleton.mpr rfl), by decide, [], testTask 0, rfl⟩, ?_⟩
  decide +kernel
theorem witness_queue_waits :
    let s := testQueue goodPacket 1 0 [(1, 0x4000000000000400)]
    (testPending s).relPending s.cur = true ∧ (s.queue 0 3).drain = none ∧ (s.queue 0 3).state ≠ 3
    ∧ ((s.queue 0 3).tail - (s.queue 0 3).head).toNat ≤ 2 ^ (s.queue 0 3).log2 ∧ (s.mod.host.pending.contains 3) = false := by decide +kernel

/-! ## Privileged operation -/

/-- The thread in issue at a level, with registers set. -/
def testLevel (n : BitVec 2) (l : List (Reg × Word)) : State := (testRegs l).updMe (fun t => { t with level := n })

/-- A management thread of die 0 in issue at level 2. -/
def testMgmt (l : List (Reg × Word)) : State :=
  l.foldl (fun s p => s.setReg p.1 p.2) (({ testBase with cur := 49152 } : State).updMe (fun t => { t with level := 2, work := true }))

theorem witness_privileged_registers :
    let s := testMgmt [(1, 0x100), (2, 0x107), (3, 0x4), (4, 0xFFFF), (5, 0x101)]
    let t := s.updMe (fun t => { t with sys := { t.sys with psel := 1 } })
    let l := testLevel 1 []
    let c := s.updMe (fun t => { t with sys := { t.sys with latch := some { tid := 1, callw := 0, args := [] } } })
    ¬ 2 ≤ testBase.me.level.toNat ∧ testBase.me.level.toNat ≠ 1 ∧ l.me.level.toNat = 1 ∧ l.cur < 49152 ∧ 2 ≤ s.me.level.toNat
    ∧ (s.part 0).valid = true ∧ (t.part 1).valid = false ∧ s.reg 1 &&& 0xFFFFFFFFFFFFFE00 = 0 ∧ (t.reg 1).getLsbD 8 = true ∧ (s.reg 4).getLsbD 8 = true
    ∧ s.reg 3 &&& 0xFFFFFF0000000006 ≠ 0 ∧ s.reg 1 &&& 0xFFFFFF0000000006 = 0 ∧ (s.reg 4).toNat < 2 ^ 32 ∧ s.me.sys.latch = none ∧ c.me.sys.latch ≠ none
    ∧ (∃ y ∈ t.parts, y.1 ≠ 1 ∧ y.2.valid = true ∧ y.2.vf = (t.reg 1).toNat % 256) ∧ ¬ (∃ y ∈ t.parts, y.1 ≠ 1 ∧ y.2.valid = true ∧ y.2.vf = (t.reg 2).toNat % 256)
    ∧ ¬ 4096 < s.otherQueues 0 + (s.reg 3).toNat ∧ 4096 < s.otherQueues 0 + (s.reg 4).toNat := by decide +kernel
theorem test_bind :
    answers (.bindVf 2) ((testMgmt [(2, 0x107)]).updMe (fun t => { t with sys := { t.sys with psel := 1 } })) (fun t =>
      (t.part 1).valid && decide ((t.part 1).vf = 7)) = true := by decide +kernel

/-- A call (0) or an escalation (1) record of thread 1. -/
def testCall (kind : Nat) : CallRec := { tid := 1, callw := BitVec.ofNat 64 (kind * 2 ^ 44 + 5 * 2 ^ 48 + 1), args := [1, 2, 0x20000000008, 4] }

/-- The management thread with a latched record, and thread 1 waiting for an answer to it. -/
def testLatched (kind : Nat) (l : List (Reg × Word)) : State :=
  ((testMgmt l).updMe (fun t => { t with sys := { t.sys with latch := some (testCall kind) } })).updThread 1 (fun t =>
    { t with waits := [if kind = 0 then .call else .parked] })

theorem witness_calls :
    let s := testMgmt [(1, 0), (2, 1)]
    let q := { s with sync := { s.sync with calls := [(8, [testCall 0, testCall 1])] } }
    let c := testLatched 0 [(1, 0), (2, 1)]
    let e := testLatched 1 [(1, 0), (2, 1)]
    2 ≤ s.me.level.toNat ∧ s.me.sys.latch = none ∧ (Store.find s.sync.calls 8).getD [] = [] ∧ (Store.find q.sync.calls 8).getD [] = [testCall 0, testCall 1]
    ∧ s.me.level.toNat * 4 + dieOf s.cur = 8 ∧ c.me.sys.latch = some (testCall 0) ∧ e.me.sys.latch = some (testCall 1) ∧ (c.reg 2).toNat ≤ 1
    ∧ c.relPending c.cur = false ∧ (testCall 0).tid ≠ c.cur ∧ (testCall 0).callw.toNat / 2 ^ 44 % 16 = 0 ∧ (testCall 1).callw.toNat / 2 ^ 44 % 16 = 1
    ∧ Why.call ∈ (c.thread 1).waits ∧ Why.parked ∈ (e.thread 1).waits ∧ c.reg 1 = 0 ∧ e.reg 2 = 1 := by decide +kernel
theorem test_call_answered :
    answers (.callReply 1) ((testLatched 0 [(1, 0)]).updMe (fun t => { t with sys := { t.sys with cret0 := 9 } })) (fun t =>
      decide ((t.thread 1).waits = []) && decide ((t.thread 1).g[1] = 9) && decide (t.me.sys.latch = none)) = true := by decide +kernel

/-- Thread 1 as a debugger at level 1 of the thread in slot 2. -/
def testDebug (halted : Bool) (idx : Word) (l : List (Reg × Word)) : State :=
  ((testLevel 1 l).updMe (fun t => { t with sys := { t.sys with dbgsel := (coreNumber 0 0 2).setWidth 64, dbgidx := idx } })).updThread 2 (fun t =>
    { t with sys := { t.sys with halted := halted } })

theorem witness_debugger :
    let s := testDebug true 0x8006 [(1, 1), (2, 3), (3, 4), (4, 0x80), (5, 0x8104), (6, 0x8106), (7, 0xFFFFFFFF)]
    let r := testDebug false 5 []
    let u := testLevel 1 [(1, 0xFFFFFFFF)] |>.updMe (fun t => { t with sys := { t.sys with dbgsel := 0xFFFFFFFF } })
    let j := { s with eng := { s.eng with jobs := [(7, { testCopy 0 0 with tid := 2 })] } }
    s.me.level.toNat ≠ 0 ∧ s.debugTarget s.cur s.me.sys.dbgsel = some 2 ∧ u.debugTarget u.cur u.me.sys.dbgsel = none ∧ s.debugTarget s.cur (s.reg 7) = none
    ∧ s.me.sys.dbgsel.toNat < 2 ^ 32 ∧ (s.reg 1).getLsbD 0 = true ∧ (s.reg 2).getLsbD 1 = true ∧ (s.reg 1).getLsbD 1 = false ∧ (s.reg 3).getLsbD 0 = false
    ∧ (s.reg 3).getLsbD 2 = true ∧ s.jobsQuiet 2 = true ∧ j.jobsQuiet 2 = false ∧ (s.thread 2).sys.halted = true ∧ (r.thread 2).sys.halted = false
    ∧ (s.dbgWriteBad 2 0x8006 (s.reg 4)).map (·.1) = some 0x01 ∧ s.dbgWriteBad 2 0x8006 (s.reg 1) = none ∧ (s.reg 5).toNat = 0x8104 ∧ (s.reg 6).toNat = 0x8106 := by
  decide +kernel
theorem witness_shoot_downs :
    let x : Shoot := { vf := 0, lo := testLabel, hi := testLabel, all := false, via := [256], seen := [5], acks := 0, tid := some 2 }
    let y : Shoot := { x with seen := List.range 1024, acks := 1023 }
    let s := { testBase with shoots := [(3, x), (4, y), (5, { y with tid := none })] }
    testBase.sysVf = some 0 ∧ ({ testBase with cur := 49343 } : State).sysVf = none ∧ testBase.relPending testBase.cur = false
    ∧ Store.find s.shoots 3 = some x ∧ x.seen.contains 5 = true ∧ x.seen.contains 1023 = false ∧ x.acks < x.seen.length ∧ x.acks + 1 ≠ 1024
    ∧ Store.find s.shoots 4 = some y ∧ y.acks < y.seen.length ∧ y.acks + 1 = 1024 ∧ ({ x with acks := 1 } : Shoot).seen.length ≤ 1 := by decide +kernel

/-! ## Stops, images, services and resets -/

/-- Partition 0 in a state of its stop, with thread 1 and its registers. -/
def testStop (y : StopState) (l : List (Reg × Word)) : State :=
  let s := testRegs l
  { s with parts := [(0, { (s.part 0) with stop := y })] }

theorem witness_synchronised_stop :
    let at_ (c : Nat) (y : StopState) : State := (testStop y [(1, 16), (2, 0)]).updMe (fun t => { t with sys := { t.sys with stopcycle := BitVec.ofNat 64 c } })
    let s := at_ 4096 .none
    let a := at_ 0 (.armed 4096)
    let b := at_ 0 (.armed 0)
    let f (r : Nat) : State := testStop (.flushing 0 0 r false) []
    let g := { f 1023 with accs := [(7, testAccess (.glob 0 none 0 0) (.reply none) (.performed none 0))] }
    let h := { f 0 with accs := g.accs }
    16 ≤ (s.reg 1).toNat ∧ s.reg 2 = BitVec.ofNat 64 0 ∧ s.cycle + 4096 ≤ s.me.sys.stopcycle.toNat ∧ (s.part 0).valid = true ∧ (s.part 0).stop = .none
    ∧ a.me.sys.stopcycle.toNat < a.cycle + 4096 ∧ (a.part 0).stop = .armed 4096 ∧ a.cycle + 4096 ≤ 4096 ∧ a.cycle < 4096 ∧ (b.part 0).stop = .armed 0
    ∧ 0 < b.cycle + 4096 ∧ 0 ≤ b.cycle ∧ (s.part 1).valid = false ∧ ((f 0).part 0).stop = .flushing 0 0 0 false
    ∧ (f 0).phase2Done ((f 0).part 0) = true ∧ (f 1023).phase2Done ((f 1023).part 0) = true ∧ g.phase2Done (g.part 0) = false ∧ h.phase2Done (h.part 0) = false
    ∧ ((f 1023).absorb 0 (serpentine 1023)).2 = false := by decide +kernel
theorem witness_withdrawn_request :
    let s := { testStop (.armed 0) [] with treqs := [(7, testReq 17 true false none)] }
    (s.part 0).hasThread 17 = true ∧ (s.part 0).hasThread 49152 = false ∧ s.treqs = [(7, testReq 17 true false none)] := by decide +kernel

/-- An image of partition 0 of no bytes, for virtual function 1; the map's system root 7 leads to a plain node for images. -/
def testImage : Image := { testBase.imageOf 0 with vf := 1, size := 0, time := 9 }

def testImages (locked : Bool) (p : Part) (img : Image) : State :=
  { testBase with
    maps := { testBase.maps with nodes := testBase.maps.nodes ++ [(640, { testDir with vf := 256, extent := 64, kids := [] })], roots := testBase.maps.roots ++ [(256 * 4096 + 7, (1, 640))] }
    parts := [(0, testBase.part 0), (1, p)]
    mod := { testBase.mod with keys := { testBase.mod.keys with dseq := [(1, 1)], images := [(3, img)] }, boot := { testBase.mod.boot with locked := locked } } }

theorem witness_images :
    let e : Part := Part.empty
    let fit : Part := { Part.empty with slots := testImage.slots, banks := testImage.banks }
    let s := testImages true fit testImage
    let t := { s with time := 9 }
    let n := testImages true e { testImage with vf := 2 }
    let o := testImages true e { testImage with vf := 0 }
    let o2 := { o with mod := { o.mod with keys := { o.mod.keys with dseq := [(0, 1)] } } }
    resolvesTo (resolve s.maps 256 0x0070000000000000) (0x0070000000000000, { node := 640, child := none }) = true
    ∧ (s.part 1).valid = false ∧ (s.part 0).valid = true ∧ (s.part 0).stop = .none ∧ ((testStop (.armed 9) []).part 0).stop = .armed 9
    ∧ ((testStop (.flushing 9 9 0 true) []).part 0).stop = .flushing 9 9 0 true
    ∧ s.findImage 640 = some (testImage, false) ∧ n.findImage 640 = none ∧ (o2.findImage 640).map (·.1.vf) = some 0 ∧ o2.partOfVf 0 = some 0 ∧ s.partOfVf 1 = none
    ∧ popOf e.slots ≠ popOf testImage.slots ∧ popOf fit.slots = popOf testImage.slots ∧ popOf fit.banks = popOf testImage.banks
    ∧ (∀ i, i < 16 → testImage.slots.getLsbD i = true → (rankMap testImage.slots fit.slots).getD i i % 2 = i % 2)
    ∧ (testImages false fit testImage).mod.boot.locked = false ∧ s.mod.boot.locked = true ∧ s.time < testImage.time ∧ testImage.time ≤ t.time := by
  decide +kernel

/-- A stopped partition and a node with a present page for every page of its image. -/
def testSave (pages : Nat) (extent : Nat) : State :=
  let s := testStop (.stopped 4 5) []
  { s with maps := { s.maps with nodes := (640, { testDir with extent := extent, pages := (List.range pages).map (fun p => (p, .present p)) }) :: s.maps.nodes } }

theorem find_range_map {α : Type} (f : Nat → α) (b n k : Nat) (h : k < n) :
    Store.find ((List.range' b n).map (fun i => (i, f i))) (b + k) = some (f (b + k)) := by
  induction n generalizing b k with
  | zero => omega
  | succ n ih =>
    rw [List.range'_succ, List.map_cons, Store.find]
    cases k with
    | zero => simp
    | succ k =>
      rw [if_neg (by omega), show b + (k + 1) = b + 1 + k by omega]
      exact ih (b + 1) k (by omega)

theorem pageChecks_present (s : State) (map _r : Nat) (off : Word) (l : List (Nat × Nat))
    (h : ∀ q ∈ l, s.pageCheck map q.1 q.2 off = (s, none)) : s.pageChecks map off l = (s, none) := by
  induction l with
  | nil => rfl
  | cons q l ih =>
    rw [State.pageChecks, h q (List.mem_cons_self ..)]
    exact ih (fun q hq => h q (List.mem_cons_of_mem _ hq))

theorem partArray_testSave (p e : Nat) : (testSave p e).partArray 0 = (testSave 0 0).partArray 0 := by
  funext tile
  unfold State.partArray State.arrayHolder
  rfl
theorem size_testSave (p e : Nat) : ((testSave p e).imageOf 0).size = ((testSave 0 0).imageOf 0).size := by
  unfold State.imageOf
  dsimp only
  rw [partArray_testSave]
  rfl
theorem extent_testSave (p e : Nat) : (testSave p e).plainExtent 640 = e := rfl
theorem stopped_testSave (p e : Nat) : ((testSave p e).part 0).valid = true ∧ ((testSave p e).part 0).stop = .stopped 4 5 := ⟨rfl, rfl⟩
theorem pages_testSave (n : Nat) : (testSave ((n + 65535) / 65536) n).pageChecks 256 0 (firstPages 640 n)
    = (testSave ((n + 65535) / 65536) n, none) := by
  refine pageChecks_present _ _ 640 _ _ (fun q hq => ?_)
  obtain ⟨k, hk, rfl⟩ := List.mem_map.mp hq
  have hk := List.mem_range.mp hk
  have hf := find_range_map (fun p => Page.present p) 0 ((n + 65535) / 65536) k hk
  rw [← List.range_eq_range', Nat.zero_add] at hf
  have hs : (testSave ((n + 65535) / 65536) n).node 640
    = some { testDir with extent := n, pages := (List.range ((n + 65535) / 65536)).map (fun p => (p, .present p)) } := rfl
  simp only [State.pageCheck, hs, hf]
theorem witness_save_fits : ∃ pages extent, (((testSave pages extent).part 0).valid = true ∧ ((testSave pages extent).part 0).stop = .stopped 4 5)
    ∧ ((testSave pages extent).imageOf 0).size ≤ (testSave pages extent).plainExtent 640
    ∧ (testSave pages extent).pageChecks 256 0 (firstPages 640 ((testSave pages extent).imageOf 0).size) = (testSave pages extent, none) :=
  ⟨_, _, stopped_testSave _ _, Nat.le_of_eq ((size_testSave _ _).trans (extent_testSave _ _).symm),
    (congrArg (fun n => (testSave ((((testSave 0 0).imageOf 0).size + 65535) / 65536) ((testSave 0 0).imageOf 0).size).pageChecks 256 0
      (firstPages 640 n)) (size_testSave _ _)).trans (pages_testSave _)⟩
theorem witness_save_too_small : (testSave 0 0).plainExtent 640 < ((testSave 0 0).imageOf 0).size := by
  have h : (testSave 0 0).plainExtent 640 = 0 := by decide +kernel
  rw [h]
  unfold State.imageOf imageSize
  dsimp only
  omega
theorem witness_time_passed :
    let s (ns : Nat) : State := testThread (fun t => { t with waits := [.time ns] })
    ((s 0).thread 1).waits = .time 0 :: [] ∧ 0 ≤ (s 0).time ∧ (s 9).time < 9 := by decide +kernel

/-- Thread 1 has called the root with a code and arguments; its tensor's node is encrypted, its page in frame 1 unless it is
demoted, and root 7 of the system map leads to a holding node of two pages. -/
def testService (code : Nat) (args : List Word) (enc : Bool) (page : List (Nat × Page)) (keys : KeyState) : State :=
  let s := testData
  { s with
    threads := Store.upd s.threads 1 (fun t => { t with waits := [.call] })
    maps := { s.maps with
      nodes := Store.put s.maps.nodes 256 { testTensor with enc := enc, pages := page }
        ++ [(640, { testDir with vf := 256, extent := 65552, kids := [], pages := [(0, .present 5), (1, .present 6)] })]
      roots := s.maps.roots ++ [(256 * 4096 + 7, (1, 640))] }
    sync := { s.sync with calls := [(12, [{ tid := 1, callw := BitVec.ofNat 64 (code * 2 ^ 48), args := args }])] }
    mod := { s.mod with keys := keys } }

/-- The service that the root finds for thread 1, and what its first two arguments and its fourth name. -/
def serviceIs (s : State) (code : Nat) : Option (List Word × Option (Nat × Nat) × Option Nat) :=
  (s.serviceOf 1 code).map (fun q => (q.2.args, (q.1.serviceNode q.2).2, ((q.1.serviceNode q.2).1.holding (q.2.arg 3)).2))

def noKeys : KeyState := { identity := 0, dseq := [(0, 1)], pages := [], images := [] }

theorem witness_page_services :
    let move (l w : Word) : State := testService 0x40 [0, l, 0, w] true [(0, .present 1)] noKeys
    let s := move testLabel 0x100000002
    Why.call ∈ (s.thread 1).waits ∧ serviceIs s 0x40 = some ([0, testLabel, 0, 0x100000002], some (0, 256), none)
    ∧ (serviceIs (move 0x0050000000000000 0) 0x40).map (·.2.1) = some none ∧ pmoveArg 0x100000018 = none ∧ pmoveArg 0x100000002 = some (1, 0, 2)
    ∧ (s.part 0).chans.getLsbD 2 = true ∧ ((Part.empty).chans.getLsbD 2) = false ∧ (testService 0x40 [] true [] noKeys).pageOf 256 0 = none
    ∧ (testService 0x40 [] true [(0, .demoted 1)] noKeys).pageOf 256 0 = some (.demoted 1) ∧ s.pageOf 256 0 = some (.present 1) ∧ frameDie 1 = 0
    ∧ (s.maps.frameOn 0 2).isSome = true ∧ s.partOfVf testTensor.vf = some 0 ∧ s.maps.isHost 256 = false := by decide +kernel
theorem witness_demote_and_promote :
    let out (l : Word) (enc : Bool) (p : List (Nat × Page)) (k : KeyState) : State := testService 0x41 [0, testLabel, 0, l] enc p k
    let back (p : List (Nat × Page)) : State := testService 0x42 [0, testLabel, 0, 0x0070000000000000] true p noKeys
    let o := out 0x0070000000000000 true [(0, .present 1)] noKeys
    let full : State := { back [(0, .demoted 1)] with parts := [(0, { (testBase.part 0) with chans := 0 })] }
    serviceIs o 0x41 = some ([0, testLabel, 0, 0x0070000000000000], some (0, 256), some 640) ∧ (serviceIs (out testLabel true [] noKeys) 0x41).map (·.2.2) = some none
    ∧ (out testLabel false [] noKeys).node 256 = some { testTensor with enc := false, pages := [] }
    ∧ 2 ^ 48 - 1 ≤ (Store.find (out testLabel true [] { noKeys with dseq := [(0, 2 ^ 48 - 1)] }).mod.keys.dseq 0).getD 1
    ∧ (Store.find o.mod.keys.dseq 0).getD 1 < 2 ^ 48 - 1 ∧ (o.pageChecks 256 0 (firstPages 640 sealedLen)).2 = none
    ∧ (serviceIs (back [(0, .demoted 1)]) 0x42).map (·.2) = some (some (0, 256), some 640) ∧ (back []).pageOf 256 0 = none
    ∧ (back [(0, .demoted 1)]).pageOf 256 0 = some (.demoted 1) ∧ (full.allocPage 0 256 0 0).2 ≠ none
    ∧ (back [(0, .demoted 1)]).findSealed 0 640 (256 * 2 ^ 25) 1 = none := by decide +kernel

/-- A PROMOTE whose page is within the quota, whatever its map pool takes. -/
def testRoom : State :=
  let s := testService 0x42 [0, testLabel, 0, 0x0070000000000000] true [(0, .demoted 1)] noKeys
  { s with parts := [(0, { (testBase.part 0) with pagequota := 0xFFFFFFFF })] }

theorem witness_promote_room : (testRoom.allocPage 0 256 0 0).2 = none := by decide +kernel

def testSealing : SealedPage := { vf := 0, dseq := 1, addr := 256 * 2 ^ 25, body := [], pois := [] }

/-- The holding node's pages hold the bytes of a sealed page. -/
def testSealed : State :=
  let s := testService 0x42 [0, testLabel, 0, 0x0070000000000000] true [(0, .demoted 1)] { noKeys with pages := [(3, testSealing)] }
  { s with dram := (testSealing.bytes.zipIdx (5 * 65536)).map (fun b => (b.2, b.1)) }

theorem sealed_length (x : SealedPage) : x.bytes.length = 65552 := by
  have hb (b : BitVec 128) : (blockBytes b).length = 16 := by simp [blockBytes]
  have hc (n : Nat) (f : Nat → List Byte) (h : ∀ j, (f j).length = 16) : ((List.range n).flatMap f).length = 16 * n := by
    induction n with
    | zero => simp
    | succ n ih => simp [List.range_succ, ih, h]; omega
  unfold SealedPage.bytes SealedPage.ciphertext
  rw [List.length_append, hb, hc 4096 _ (fun j => by simp [hb])]

theorem find_zipIdx (l : List Byte) : ∀ (a o : Nat) (b : Byte), l[o]? = some b →
    Store.find ((l.zipIdx a).map (fun b => (b.2, b.1))) (a + o) = some b := by
  induction l with
  | nil => intro a o b h; simp at h
  | cons x l ih =>
    intro a o b h
    cases o with
    | zero => simp_all [Store.find]
    | succ o =>
      have h2 := ih (a + 1) o b (by simpa using h)
      have e : a + 1 + o = a + (o + 1) := by omega
      rw [e] at h2
      have ne : ¬ a = a + (o + 1) := by omega
      simpa [List.zipIdx_cons, Store.find, ne] using h2

theorem witness_sealed_page : (testSealed.findSealed 0 640 (256 * 2 ^ 25) 1).map (·.1) = some 3 := by
  have hall : testSealed.holdsPage 640 testSealing = true := by
    refine List.all_eq_true.mpr (fun p hp => decide_eq_true ?_)
    obtain ⟨b, o⟩ := p
    have hb := List.mem_zipIdx_iff_getElem?.mp hp
    have ho : o < 65552 := by
      have := List.getElem?_eq_some_iff.mp hb
      exact sealed_length testSealing ▸ this.1
    have hn : testSealed.node 640 = some { testDir with vf := 256, extent := 65552, kids := [], pages := [(0, .present 5), (1, .present 6)] } := rfl
    have hq : testSealed.physOf 640 o = some (5 * 65536 + o) := by
      simp only [State.physOf, hn]
      rcases (by omega : o / 65536 = 0 ∨ o / 65536 = 1) with h | h <;> simp [h, Store.find] <;> omega
    have hd : testSealed.dram = (testSealing.bytes.zipIdx (5 * 65536)).map (fun b => (b.2, b.1)) := by simp only [testSealed]
    have hf := find_zipIdx testSealing.bytes (5 * 65536) o b hb
    simp only [State.homeByte, hq, Memory.read, hd, hf]
    simp
  have hk : testSealed.mod.keys.pages = [(3, testSealing)] := rfl
  have hq : (Store.find testSealed.mod.keys.dseq 0).isNone = false := by decide +kernel
  have hv : testSealing.vf = 0 ∧ testSealing.addr = 256 * 2 ^ 25 ∧ testSealing.dseq = 1 := ⟨rfl, rfl, rfl⟩
  simp [State.findSealed, hq, hk, hall, hv]
theorem witness_page_placement :
    let y : Service := { call := { tid := 65536, callw := 0, args := [] }, code := 0x40, args := [], next := 0, moved := 1, shoot := some (3, 1) }
    let s := { testData with mod := { testData.mod with service := [(65536 + 256 * 2 ^ 25, y)] } }
    Store.find s.mod.service (65536 + 256 * 2 ^ 25 + 0) = some y ∧ Store.find s.shoots 3 = none ∧ Store.find testData.mod.service (65536 + 256 * 2 ^ 25 + 0) = none
    ∧ testData.node 256 = some testTensor ∧ testData.pageOf 256 0 = some (.present 1) ∧ testData.partOfVf testTensor.vf = some 0
    ∧ (testData.part 0).chans.getLsbD 23 = true ∧ testData.maps.isHost 256 = false ∧ testData.pageTenured 256 0 = false ∧ (testData.maps.frameOn 3 23).isSome = true := by
  decide +kernel
theorem witness_function_resets :
    let a := testStop (.armed 9) []
    let z := testStop (.stopped 9 9) []
    let c := testService 0x43 [0] true [] noKeys
    let d := testService 0x43 [256] true [] noKeys
    testBase.partOfVf 0 = some 0 ∧ (testBase.part 0).stop = .none ∧ (a.part 0).stop = .armed 9 ∧ (z.part 0).stop = .stopped 9 9 ∧ testBase.partOfVf 255 = none
    ∧ (c.serviceOf 1 0x43).isSome = true ∧ (d.serviceOf 1 0x43).map (·.2.args) = some [256] ∧ (c.resetDue 0).2 = false ∧ (z.resetDue 0).2 = true := by decide +kernel

/-! ## Networks, start-up and budgets -/

def testFlit (at_ dst age : Nat) : Flit := { packet := 7, seq := 0, src := 0, dst := dst, at_ := at_, age := age, golden := false, again := false, part := 0 }

def testNet (f : NetState → NetState) : State := { testBase with mod := { testBase.mod with net := f testBase.mod.net } }

theorem witness_ring_road :
    let one (f : Flit) : State := testNet (fun n => { n with flits := [f], packets := [(7, { total := 1, got := [] })] })
    let s := one (testFlit 0 1023 255)
    let d := testNet (fun n => { n with packets := [(7, { total := 1, got := [0] })] })
    s.mod.net.hopAt ≠ s.cycle / 2 + 1 ∧ s.mod.net.flits = [testFlit 0 1023 255] ∧ (testFlit 0 1023 255).at_ ≠ (testFlit 0 1023 255).dst
    ∧ s.mod.net.tokAt ≠ s.cycle / 2 + 1 ∧ s.mod.net.golden = none ∧ (testFlit 0 1023 255).at_ = serpentine s.mod.net.token
    ∧ (∀ f ∈ (one (testFlit 0 31 254)).mod.net.flits, f.at_ = serpentine 0 → f.age ≠ 255)
    ∧ (testNet (fun n => { n with golden := some (7, 0) })).mod.net.golden = some (7, 0) ∧ (testNet (fun n => { n with hopAt := 1, tokAt := 1 })).mod.net.hopAt = 1
    ∧ Store.find s.mod.net.packets 7 = some { total := 1, got := [] } ∧ Store.find d.mod.net.packets 7 = some { total := 1, got := [0] } := by decide +kernel
theorem test_flit_takes_column :
    (match exec .flitHop (testNet (fun n => { n with flits := [testFlit 33 5 3] })) with
    | .next t => t.mod.net.flits.map (fun f => (f.at_, f.age))
    | _ => []) = [(34, 4)] := by decide +kernel

/-- Module 9, reached by port 0 with an incarnation, and a packet from it at the port. -/
def testLink (state inc : Nat) (b : LinkBody) : State :=
  { testBase with
    accs := [(7, { testAccess (.remote 9 testLabel 0) (.load false) .sent with holder := { fused := false, unit := 0, launch := 0 } }),
      (8, { testAccess (.remote 9 testLabel 0) (.far (farCall (.pqry 3 1) [testLabel]) (some 3)) .sent with holder := { fused := false, unit := 0, launch := 0 } })]
    mod := { testBase.mod with link := { testBase.mod.link with
      ports := [(0, { Port.fresh with state := state })], incs := [(9, 4)], resets := [(9 * 256, 2)]
      inbox := [(3, { src := 9, inc := BitVec.ofNat 16 inc, vf := 0, reset := 2, body := b }), (5, { src := 9, inc := 4, vf := 0, reset := 1, body := b })] } } }

theorem witness_scale_up :
    let s := testLink 0 4 (.value 7 (some 5) 0)
    let m : Job := { testCopy 6 0 with op := .copy 6 0x4000000000000400 0x0030000000000000 testCopyRec }
    let r := testJobs m
    (s.port 0).state < 4 ∧ (9 : BitVec 16) ≠ 0 ∧ (9 : BitVec 16).toNat ≠ s.self ∧ Store.find s.mod.link.incs 9 = some 4 ∧ Store.find s.mod.link.incs 8 = none
    ∧ (Store.find s.mod.link.inbox 3).isSome = true ∧ (Store.find s.mod.link.inbox 5).isSome = true ∧ (Store.find s.mod.link.resets (9 * 256)).getD 0 = 2
    ∧ (Store.find s.accs 7).map (fun a => (a.place, a.state)) = some (.remote 9 testLabel 0, .sent)
    ∧ (Store.find s.accs 8).map (fun a => (a.place, a.op)) = some (.remote 9 testLabel 0, .far (farCall (.pqry 3 1) [testLabel]) (some 3))
    ∧ ((Store.find s.mod.link.inbox 3).bind (s.receive 3)).isSome = true
    ∧ r.job 7 = some m ∧ m.contribution ≠ none ∧ r.jobHome m ≠ none ∧ m.state = .started ∧ m.sync ≠ 0 ∧ r.localAddr 1 m.sync = .ok 16 ∧ r.tagged 16 = true := by
  decide +kernel

theorem test_access_from_another_module :
    (match exec (.scaleupPacketReceive 0 3) { testLink 0 4 (.access 7 { tid := 1, level := 0, fused := false, launch := 0, core := 0 } testLabel 8 8 (.store 0x77)) with maps := testData.maps, parts := testData.parts } with
    | .next t => decide (t.mod.link.outbox.map (fun p => (p.1, p.2.body)) = [(9, .value 7 none 0)])
        && decide ((t.bytesOf { node := 256, child := none } 8 1).map (fun p => t.homeByte p.1 p.2) = [(0x77 : Byte)])
    | _ => false) = true := by decide +kernel

def testBoot (f : BootState → BootState) : State := { testBase with mod := { testBase.mod with boot := f testBase.mod.boot } }

theorem witness_starts :
    let w := testBoot (fun b => { b with retained := true, warmFail := 1 })
    let c := testBoot (fun b => { b with retained := true, warmFail := 2 })
    let u := testBoot (fun b => { b with starting := some (true, 0) })
    w.mod.boot.safe = false ∧ w.mod.boot.starting = none ∧ w.mod.boot.retained = true ∧ w.mod.boot.warmFail < 2 ∧ ¬ c.mod.boot.warmFail < 2
    ∧ u.mod.boot.starting = some (true, 0) ∧ (testBoot (fun b => { b with safe := true })).mod.boot.safe = true := by decide +kernel
theorem test_third_cold_failure :
    (match exec (.coldStart 7) (testBoot (fun b => { b with coldFail := 2 })) with
    | .next t => t.mod.boot.safe && t.frozen && decide (t.mod.boot.coldFail = 3)
    | _ => false) = true := by decide +kernel
theorem witness_management :
    let s := testBoot (fun b => { b with up := true })
    let z := { s with frozen := true }
    let e (n k : Nat) : State := testBoot (fun b => { b with events := { supplyFor := n, powerFor := k, supplyRaised := 1, powerRaised := 0 } })
    s.frozen = false ∧ s.mod.boot.up = true ∧ z.frozen = true ∧ s.mod.boot.starting = none ∧ (z.dump 0 0).isSome = true ∧ (z.dump 9 0).isSome = true
    ∧ testData.pageOf 256 0 = some (.present 1) ∧ (e 10 0).mod.boot.events.supplyFor ≤ 10
    ∧ (e 10 0).mod.boot.events.powerFor ≤ 10 ∧ 10 < (e 0 11).mod.boot.events.powerFor ∧ 10 < (e 11 0).mod.boot.events.supplyFor
    ∧ Store.find (testTenState [(1, testTen .write 5)] []).tens 1 = some (testTen .write 5) := by decide +kernel

/-- The meter node of 16,384 bytes in the system map, with its page. -/
def testMeters (cycle time : Nat) : State :=
  { testBase with
    cycle := cycle, time := time
    maps := { testBase.maps with
      nodes := testBase.maps.nodes ++ [(640, { testDir with vf := 256, kids := [(1, 704)] })
        , (704, { testDir with vf := 256, extent := 16384, kids := [], pages := [(0, .present 3)] })]
      roots := testBase.maps.roots ++ [(256 * 4096 + 4094, (1, 640))] } }

theorem witness_budgets :
    (testMeters 1024 0).meterNode = some 704 ∧ testBase.meterNode = none ∧ (testMeters 1024 0).cycle % 1024 = 0 ∧ (testMeters 1 0).cycle % 1024 ≠ 0
    ∧ (testMeters 0 100000).mod.period < (testMeters 0 100000).time / 100000 ∧ (testMeters 0 99999).time / 100000 ≤ (testMeters 0 99999).mod.period
    ∧ (testMeters 0 0).partOfVf 0 ≠ none := by decide +kernel

/-! ## Issue, the step and the whole machine -/

theorem witness_issue_cycles :
    let s := State.reset.placeWord .snop 0
    let t := { testBase with icache := s.icache, agenda := [] }
    let two := { t with threads := [(0, testBase.thread 1), (8, testBase.thread 1)] }
    let eight := { two with threads := [(8, testBase.thread 1)], cycle := 16 }
    let bad := testBase.updMe (fun t => { t with code := 0x0050000000000000 })
    t.ready 1 = true ∧ t.issuer 0 = none ∧ two.ready 0 = true ∧ eight.ready 0 = false ∧ eight.launchOf 0 = some 0 ∧ eight.launchOf 8 = some 0
    ∧ eight.ready 8 = true ∧ eight.issuer 0 = some 8
    ∧ (eight.updThread 8 (fun t => { t with last := some 8 })).ready 8 = true ∧ (eight.updThread 8 (fun t => { t with last := some 9 })).ready 8 = false
    ∧ testBase.missing 1 = some 0 ∧ testBase.scheduled 1 = true ∧ (testBase.thread 1).waits.all (testBase.waitOver 1) = true
    ∧ (testBase.translate 1 .fetch (testBase.thread 1).code 0 8).2.toOption = some { node := testBase.maps.nextDesc - 64, child := none }
    ∧ bad.missing 1 = some 0 ∧ (bad.translate 1 .fetch (bad.thread 1).code 0 8).2 = .error (0x06, 0x0050000000000000) := by decide +kernel

/-- A thread in issue at the second bundle of its block, whose word is given. -/
def testBundle (w : Word) (f : Thread → Thread) : State :=
  let s := State.reset.placeWord .snop 0
  let line := { core := 0, vf := 0, label := placedLabel, line := 0, words := [placedHeader, w, 0, 0, 0, 0, 0, 0], node := 0, far := none }
  ({ s with agenda := [], cur := 1, iss := { Issue.idle with who := some 1 }, icache := [line] } : State).updThread 1 (fun t =>
    f { t with pc := 8, left := 1 })

/-- What a bundle enters with: control in its block, and the slots that its decode checks give. -/
def entersWith (s : State) : Option (Instr × Instr) :=
  match s.enterBlock with
  | (t, true) => match t.peekCode t.cur t.me.code t.me.pc.toNat with
    | some w => (decodeChecks w t.me.level (roleOf t.cur)).toOption
    | none => none
  | (_, false) => none

def trapsIn (i : Instr) (s : State) : Option Bool :=
  match exec i s with
  | .next t => some t.iss.trapped
  | _ => none

theorem witness_step_runs_bundle :
    let add : Word := 0x04A3200000000000
    let s := testBundle add id
    let chan := testBundle 0x04B9200000000000 id
    let mts := testBundle 0x9480000700000000 id
    let vec := testBundle 0xFC00000044850001 id
    entersWith s = some (.add 5 3 4, .vnop) ∧ s.iss.who = some 1 ∧ s.me.sys.pend = none ∧ s.me.debugMatch = false
    ∧ (testBundle add (fun t => { t with sys := { t.sys with dbgmatch := 9, dbgcode := placedLabel } })).me.debugMatch = true
    ∧ (testBundle add (fun t => { t with sys := { t.sys with pend := some (0x11, 4) } })).me.sys.pend = some (0x11, 4)
    ∧ s.me.absent (s.slotSources (.add 5 3 4)) = none ∧ chan.me.absent (chan.slotSources (.add 5 25 4)) = some 25 ∧ entersWith chan = some (.add 5 25 4, .vnop)
    ∧ (testBundle add (fun t => { t with pois := 8 })).me.poisoned (s.slotSources (.add 5 3 4)) = some 3
    ∧ trapsIn (.add 5 3 4) s = some false ∧ trapsIn (.brx 5 3) (s.setReg 3 4) = some true ∧ lateTrap (.brx 5 3) = false
    ∧ entersWith mts = some (.mts 4 7, .vnop) ∧ entersWith vec = none ∧ trapsIn .vnop s = some false := by decide +kernel
theorem witness_bundle_waits :
    let s := testBundle 0x04A3200000000000 id
    (s.stall .fence).standsWhole = true ∧ s.standsWhole = false ∧ (s.stall .sendEntry).standsWhole = false
    ∧ lateTrap (.trap 3) = true ∧ lateTrap (.hvc 3) = true
    ∧ (testBundle 0x04A3200000000000 (fun t => { t with waits := [.semp 0 1] })).me.waits ≠ [] := by decide +kernel
theorem witness_step_from_the_schedule :
    let s := State.reset.placeWord .snop 0
    s.agenda = [.issueCycle 0] ∧ s.frozen = false ∧ autonomous (.issueCycle 0) = true ∧ autonomous (.add 1 2 3) = false
    ∧ managementEvent (.issueCycle 0) = false ∧ managementEvent (.coldStart 0) = true ∧ autonomous (.coldStart 0) = true
    ∧ testBase.agenda = [] ∧ (testBase.dueEvent exec).isSome = true ∧ testBase.iss.who = none := by decide +kernel
theorem test_first_step :
    (match step (State.reset.withFetchWord 32 0x28A59040) with
    | .next t => decide ((t.thread 1).g[5] = 0x9040) && decide ((t.thread 1).pc = 16)
    | _ => false) = true := by decide +kernel
theorem witness_encode : Instr.wf (.add 5 3 4) = true ∧ encode (.add 5 3 4) = some 0x04A32000 ∧ Instr.isVector (.vadd 4 5 6 .f32 (.fixed .rne)) = true
    ∧ encode (.vadd 4 5 6 .f32 (.fixed .rne)) = some 0x04853400 := by decide +kernel
theorem witness_memories : (State.reset.withFetchWord 32 0x28A59040).memOk = true
    ∧ (match step (State.reset.withFetchWord 32 0x28A59040) with
      | .next _ => true
      | _ => false) = true := by decide +kernel

/-! The energy of a load from the issuing tile: a bundle issued and one scratchpad access (Table 20.2). -/

theorem test_energy_of_a_load :
    (match State.afterIssue exec (testBundle 0x40A1060000000000 (fun t => t.setReg 1 0x4000000000000000)) with
    | .next t => decide ((t.meter 0).eAcc = 11000)
    | _ => false) = true := by decide +kernel

theorem witness_waiting_management :
    let c := testPending (testLatched 0 [(1, 0)])
    let d : State := { c with accs := c.accs.map (fun a => (a.1, { a.2 with tid := 49152 })) }
    let q : State := { testMgmt [(3, 4)] with mod := { testBase.mod with host := { testBase.mod.host with queues := [(9, { Queue.fresh with tail := 1 })] } } }
    d.relPending d.cur = true ∧ (testPending testBase).relPending testBase.cur = true ∧ (q.part 0).valid = true
    ∧ (∃ x ∈ q.mod.host.queues, x.1 / 4096 = (q.part 0).vf ∧ (q.reg 3).toNat ≤ x.1 % 4096 ∧ x.2.head ≠ x.2.tail)
    ∧ ((testMgmt []).updMe (fun t => { t with sys := { t.sys with psel := 1 } })).part 1 = Part.empty := by decide +kernel
theorem witness_stop_refusals :
    let at_ (c : Nat) (y : StopState) (v : Bool) : State :=
      let s := (testStop y [(2, 0)]).updMe (fun t => { t with sys := { t.sys with stopcycle := BitVec.ofNat 64 c } })
      { s with parts := [(0, { (s.part 0) with valid := v })] }
    let q : State := { testStop (.armed 0) [] with treqs := [(7, testReq 17 true false (some 1))] }
    let net : State := { testStop (.flushing 0 0 1023 false) [] with mod := { testBase.mod with net := { testBase.mod.net with
      flits := [{ packet := 7, seq := 0, src := 0, dst := 5, at_ := serpentine 1023, age := 0, golden := false, again := false, part := 0 }] } } }
    (at_ 5 .none true).me.sys.stopcycle.toNat < (at_ 5 .none true).cycle + 4096 ∧ ((at_ 4096 (.stopped 0 0) true).part 0).stop = .stopped 0 0
    ∧ ((at_ 0 (.armed 0) false).part 0).valid = false ∧ ((at_ 0 (.armed 0) false).part 0).stop = .armed 0
    ∧ (q.part 0).hasThread 17 = true ∧ (testReq 17 true false (some 1)).queued ≠ none ∧ (net.absorb 0 (serpentine 1023)).2 = true := by decide +kernel
theorem witness_service_waits :
    let o := testService 0x41 [0, testLabel, 0, 0x0070000000000000] true [(0, .present 1)] noKeys
    let b : State := { o with accs := [(7, testAccess (.glob 256 none 0 testLabel) (.load false) .sent)] }
    let u := testService 0x50 [] true [] noKeys
    let t : State := { o with tens := [(1, testTen .write 5)] }
    let saving := (testStop .none []).updThread 1 (fun t => { t with waits := [.stop 0] })
    let f : Job := { testCopy 6 0 with op := .copy 6 0x4000000000000400 0x0030000000000000 testCopyRec }
    b.pageBusy 256 0 = true ∧ o.pageBusy 256 0 = false ∧ (u.unlistedCall 1).map (·.tid) = some 1 ∧ (u.serviceOf 1 0x40).isSome = false
    ∧ (u.serviceOf 1 0x41).isSome = false ∧ (u.serviceOf 1 0x42).isSome = false ∧ (u.serviceOf 1 0x43).isSome = false ∧ Store.find u.mod.service 1 = none
    ∧ t.pageTenured 256 0 = true ∧ (∃ x ∈ saving.threads, x.2.waits.contains (.stop 0) = true)
    ∧ (¬ ∃ x ∈ (testStop .none []).threads, x.2.waits.contains (.stop 0) = true) ∧ (testJobs f).collectives 0 = [0x0030000000000000] ∧ (testJobs f).peersOf 0 0x0030000000000000 = [2]
    ∧ Why.call ∈ (u.thread 1).waits ∧ (testCall 0).callw.extractLsb' 44 4 = 0 := by decide +kernel
theorem witness_absorbed_flit :
    let s : State := { testStop (.flushing 0 0 900 false) [] with mod := { testBase.mod with net := { testBase.mod.net with
      flits := [testFlit 0 5 3] } } }
    let r := routerStep 0 0
    let full : State := { s with mod := { s.mod with net := { s.mod.net with saved := [(1, List.replicate 32 (testFlit 0 5 3))] } } }
    s.visited 0 1 = true ∧ ((Store.find s.mod.net.saved 1).getD []).length < 32 ∧ testBase.visited 0 1 = false ∧ r < 1024
    ∧ ¬ ((Store.find full.mod.net.saved 1).getD []).length < 32 ∧ (∃ c t k ab, (s.part 0).stop = .flushing c t k ab) := by
  refine ⟨by decide +kernel, by decide +kernel, by decide +kernel, by decide +kernel, by decide +kernel, ⟨0, 0, 900, false, by decide +kernel⟩⟩
theorem witness_awaited_close :
    let s : State := { testLink 0 4 (.value 7 (some 5) 0) with accs := [(7, { testAccess (.glob 256 none 0 testLabel) (.reply none) .sent with shoot := some 4 })] }
    let m : State := { s with mod := { s.mod with link := { s.mod.link with awaits := [(4, { set := 640, peer := 9, op := .close testLabel 1 0, back := none })] } } }
    (Store.find m.accs 7).map (·.shoot) = some (some 4) ∧ (Store.find m.mod.link.awaits 4).map (·.peer) = some 9 ∧ Store.find s.mod.link.awaits 4 = none := by
  decide +kernel

/-! ## Witnesses of the later clauses -/

theorem witness_lbase :
    let bank (m : BitVec 24) : State := { testBase with parts := [(0, { (testBase.part 0) with vbanks := m })] }
    testBase.partOf 1 = some 0 ∧ testBase.cur < 49152 ∧ ((bank 0).part 0).vbanks = 0 ∧ ((bank 0x28).part 0).vbanks.getLsbD 3 = true
    ∧ (∀ i, i < 3 → ((bank 0x28).part 0).vbanks.getLsbD i = false) ∧ 49152 ≤ (testMgmt []).cur := by decide +kernel
theorem witness_remote_issue :
    let s := testDataRegs [(2, 0x0030000000000000)]
    let f : State := { s with accs := [(7, testAccess (.remote 2 0x0030000000000000 0) (.store 0) .accepted)] }
    let l : State := { s with mod := { s.mod with link := { s.mod.link with lost := [2] } } }
    let p : Place := .remote 2 0x0030000000000000 0
    f.mustWait s.cur p 8 .plain 0 = true ∧ s.mustWait s.cur p 8 .plain 0 = false ∧ l.mod.link.lost.contains 2 = true
    ∧ s.orderFound s.cur testLabel 0 256 = 1 := by decide +kernel
theorem witness_held_access :
    let h : Access := { testAccess (.glob 256 none 8 testLabel) (.load false) .held with order := 1 }
    let st := testAccess (.glob 256 none 8 testLabel) (.store 0) .accepted
    let s (w : Bool) : State := { testData with accs := [(9, h)] ++ (if w then [(11, { st with order := 1 })] else []) }
    (s false).accs = [] ++ (9, h) :: [] ∧ h.state = .held ∧ (s false).mustWait h.tid h.place h.n h.ord h.order = false
    ∧ (s true).accs = [] ++ (9, h) :: [(11, { st with order := 1 })] ∧ (s true).mustWait h.tid h.place h.n h.ord h.order = true
    ∧ (∀ y ∈ ([] ++ [(11, { st with order := 1 })] : List (Nat × Access)), y.2.tid = h.tid → y.2.state ≠ .held) := by decide +kernel
theorem witness_reply_traps :
    let a : Access := { testAccess (.spad 16 0) (.load false) (.failed 0x13 0) with hold := { Held.none with sonly := true } }
    let s : State := { testThread (fun t => { t with waits := [.sweep 0, .access 7] }) with accs := [(7, a)] }
    Store.find s.accs 7 = some a ∧ (a.hold.sonly = true ∧ Why.sweep 0 ∈ (s.thread a.tid).waits)
    ∧ ¬ (a.hold.sonly = true ∧ Why.sweep 0 ∈ (testBase.thread a.tid).waits) := by decide +kernel
theorem witness_below_levels :
    let c (l : Word) : Option (Word × Target) := canonAt testForest.maps 0 l
    lblDepth (lblChild (testKid 5) 1) ≠ 0 ∧ c (testKid 5) = some (testKid 5, { node := 640, child := none }) ∧ lblDepth (testKid 5) < 6
    ∧ c (deepLabel 6) = some (deepLabel 6, { node := 1152, child := none }) ∧ 6 ≤ lblDepth (deepLabel 6)
    ∧ c (lblChild (testKid 5) 1) = some (lblChild (testKid 5) 1, { node := 640, child := some 0 }) := by decide +kernel
theorem witness_map_below_implicit :
    let s := testForest
    let w := ({ s with spad := s.spad.writeLe 64 8 4096 } : State).spadWords 64
    let l := lblChild (lblChild (testKid 5) 1) 1
    implicitAbove s.maps 0 l = some (lblChild (testKid 5) 1) ∧ s.localAddr s.cur 0x4000000000000040 = .ok 64 ∧ s.cur < 49152 ∧ 64 / 2 ^ 20 = s.cur / 48
    ∧ s.spadPoisoned 64 64 = false ∧ imageBad w (imageNode 0 1 w) none = none ∧ paramBad (fun x => (s.remoteHome x).isSome) (s.stepBusy 0 l) w (imageNode 0 1 w) = none
    ∧ lblDepth l < 3 + lblDepth (lblChild (testKid 5) 1) ∧ 3 ≤ lblDepth (deepLabel 5) := by decide +kernel
theorem witness_map_poison : ({ testForest with spadPois := [1] } : State).spadPoisoned 64 64 = true ∧ testForest.spadPoisoned 64 64 = false := by
  decide +kernel
/-- The forest with a directory of the host root, with a child of ORDER 0 below the first directory's node 4. -/
def testHost : State :=
  { testForest with maps := { testForest.maps with
      nodes := testForest.maps.nodes ++ [(1664, { testDir with kids := [] }), (1728, { testDir with kids := [], order := 0 })]
      roots := testForest.maps.roots ++ [(4093, (1, 1664)), (11, (1, 1728))] } }
theorem witness_moves_below_implicit :
    let s := testForest
    let x := lblChild (testKid 5) 1
    implicitAbove s.maps 0 (lblChild x 1) = some x ∧ leads x x 640 (some 0) ∧ implicitAbove s.maps 0 (testKid 4) = none ∧ leads (testKid 4) (testKid 4) 512 none
    ∧ belowImplicit s.maps 0 (lblChild x 1) = true ∧ belowImplicit s.maps 0 (testKid 4) = false ∧ s.supRefuses 640 = false ∧ s.supRefuses 512 = false
    ∧ rootHome s.maps 0 (lblRoot (testKid 4)) = 1
    ∧ testHost.maps.isHost 1664 = true ∧ (∃ y ∈ subtreeOf testHost.maps 1728, (testHost.node y).map (·.order) = some 0) ∧ s.maps.isHost 512 = false := by
  decide +kernel
theorem witness_map_partner (fits : Config.mirrorFits 0x0030000000000000 [8, 0, 16, 1] = true) :
    let s := { testForest with spad := testWords [] 64 [4 * 2 ^ 60 + 2 ^ 58 + 320, 0, 0, 0x8000000000100001, 0, 0x0030000000000000] }
    let w := s.spadWords 64
    let new := imageNode 0 1 w
    let m1 : Maps := { s.maps with nodes := Store.put s.maps.nodes s.maps.nextDesc new, nextDesc := s.maps.nextDesc + 64 }
    let s1 : State := { s with maps := m1.setSlot 0 (.root 99) (some s.maps.nextDesc) new.home }
    new.kind = 4 ∧ imageBad w new none = none ∧ paramBad (fun x => (s.remoteHome x).isSome) (s.stepBusy 0 0x0630000000000000) w new = none ∧ (s1.partner new).isSome = true
    ∧ slotKind (s.slotAt 0 (.root 99)) = 0 ∧ slotKind (s1.slotAt 0 (.root 99)) = 1000001 + s.maps.nextDesc := by
  have h : let s := { testForest with spad := testWords [] 64 [4 * 2 ^ 60 + 2 ^ 58 + 320, 0, 0, 0x8000000000100001, 0, 0x0030000000000000] }
      let w := s.spadWords 64
      ((imageNode 0 1 w).mirror = 0x0030000000000000 ∧ [(imageNode 0 1 w).gtype, (imageNode 0 1 w).nmom, (imageNode 0 1 w).elems, (imageNode 0 1 w).blockCount] = [8, 0, 16, 1]) := by decide +kernel
  refine ⟨by decide +kernel, by decide +kernel, ?_, by decide +kernel, by decide +kernel, by decide +kernel⟩
  unfold paramBad
  rw [h.1, h.2, fits]
  decide +kernel
theorem witness_request_checks :
    let s := testForest
    let big : State := { s with maps := { s.maps with nodes := Store.upd s.maps.nodes 512 (fun n => { n with extent := 1 }) } }
    let check (u : State) (id : Nat) (l : Word) := (u.node id).map (fun n => accessCheck n none .load (u.thread 17).level.toNat l 0 1)
    let kept := testTenState [(1, { testTen (.released 0) 5 with held := [(0, 1)] })] []
    let push : State := { testData with pushes := [(1, (256, [(0, 1)], []))] }
    let q := testReq 17 false false none
    leads (testKid 6) (testKid 6) 704 none ∧ (check s 704 (testKid 6)).map (·.isSome) = some true ∧ check big 512 (testKid 4) = some none
    ∧ (big.node 512).map (fun n => decide (n.kind = 2) || decide (n.kind = 1)) = some false ∧ check s 256 testLabel = some none
    ∧ (s.node 256).map (·.kind) = some 1 ∧ s.maps.isHost 256 = false
    ∧ kept.grantHeld q = true ∧ push.grantHeld q = true ∧ testData.grantHeld q = false ∧ q.queued = none
    ∧ (testReq 17 false false (some 1)).queued ≠ none ∧ push.rectHasByte 256 q.rect 0 = true := by decide +kernel
theorem witness_children_left :
    let t : Target := { node := 640, child := none }
    let k : Target := { node := 640, child := some 0 }
    let held (r : Rect) : State := { testTiles with splits := [640], tens := [(1, { testTen .write 3 with root := 640, node := 640, tile := 1, rect := r })] }
    let s := held (rectOf testTiles.maps k)
    let x := { testTen .write 0 with root := 640, node := 640, rect := rectOf testTiles.maps t, held := [(0, 1)], nscope := some 2 }
    s.childLeft 640 8 = true ∧ k ∈ s.splitKids t ∧ rectOf s.maps k = (rectOf testTiles.maps k) ∧ testTiles.childLeft 640 8 = false
    ∧ (testTiles.splitTen x k).held = [(0, 1)] ∧ (testTiles.splitTen x { node := 640, child := some 1 }).held = [] := by decide +kernel
theorem witness_forced_reads :
    let load := testAccess (.glob 256 none 0 testLabel) (.load false) .sent
    let s (l : Store Ten) : State := { testTenState ((4, { testTen (.released 0) 9 with held := [(0, 1)] }) :: l) [] with accs := [(3, load)] }
    let h := load.holder
    load.op.reads = true ∧ (AccOp.store 0).reads = false ∧ (s []).readsHome h 256 0 = true ∧ (s [(5, testTen .write 0)]).readsHome h 256 0 = false
    ∧ (testTen .write 0).holder = h ∧ load.holder ≠ (testTen (.released 0) 9).holder
    ∧ (s [(5, { testTen .write 0 with dirty := [(0, 1)] })]).l1Cell h 256 0 ≠ none
    ∧ ¬ ((testTen .read 5).holder = (testTen .read 1).holder ∧ (testTen .read 5).rect = (testTen .read 1).rect) := by decide +kernel
theorem witness_word_poison :
    let s := testSync [(2, 1)]
    let bad : State := { s with spadPois := [0] }
    let wait : State := { s with accs := [(7, testAccess (.glob 256 none 0 testLabel) (.store 0) .accepted)] }
    s.tagged 16 = true ∧ (s.reg 2).toNat < 2 ^ 32 ∧ 1 ≤ (s.reg 2).toNat ∧ bad.spadPoisoned 16 16 = true ∧ s.spadPoisoned 16 16 = false
    ∧ bad.tagged 16 = true ∧ s.spad.readLe 16 4 ≠ 0 ∧ s.spad.readLe 20 4 ≠ 0 ∧ wait.relPending s.cur = true ∧ s.localAddr s.cur (s.reg 1) = .ok 16 := by
  decide +kernel
theorem witness_sweep_beside :
    let sw := { testSweep false 0 with dep := some 9 }
    let s (a : Access) : State := { testSwept sw with accs := [(9, a)] }
    let a := testAccess (.glob 256 none 0 testLabel) (.load false) .sent
    (s a).sweepQueue 0 = [sw] ∧ (s a).runsFor 1 = true ∧ (s a).besideClear sw.dep = true ∧ (s { a with ord := .rel }).besideClear sw.dep = false
    ∧ (s { a with state := .failed 6 0 }).besideClear sw.dep = false ∧ ((s a).sweepStep { sw with start := true }).isSome = true
    ∧ (((s a).startBeside 1 sw.dep).sweepStep { sw with start := true, dep := none }).isSome = true := by decide +kernel
/-- A sweep at its first beat with a member and its records: of type codes, at 0x400, 0x480 and 0x500, of some extents each. -/
def testBeat (op : Instr) (ts : List Nat) (exts : List Nat) : Sweep :=
  { testSweep true 0 with op := op, recs := (List.range ts.length).map (fun k =>
      { base := BitVec.ofNat 64 (0x4000000000000400 + 0x80 * k), ty := ts.getD k 0, rank := 1, chan := false, ext := [exts.getD k 4]
        str := [1] }) }
theorem witness_beat_moves :
    let one (sw : Sweep) : Bool := (List.range 3).all (fun k => !(sw.recOf k).chan) && decide (sw.beat < sw.beats)
      && sw.beatRange.all (fun p => (testVec.ownKey 1 (sw.lead.offset (indexOf sw.lead.ext p))).isSome)
    (∀ i ∈ [Instr.vfma 4 5 6 .f32 Rnd.none, .vfms 4 5 6 .f32 Rnd.none, .vabs 4 5 .f32, .vneg 4 5 .f32, .vsqrt 4 5 .f32 Rnd.none, .vcmp 4 5 6 .f32 .lt, .vsel 4 5 6 .f32, .vcpy 4 5 .f32
        , .vgath 4 5 6 .f32, .vscat 4 5 6 .f32], one (testBeat i [8, 8, 6] [4, 4, 4]) = true)
    ∧ one (testBeat (.vcvt 4 5 .s32 Rnd.none) [2, 8] [4, 4]) = true ∧ Ty.ofCode (BitVec.ofNat 4 ((testBeat (.vcvt 4 5 .s32 Rnd.none) [2, 8] [4, 4]).recOf 1).ty) = some .f32
    ∧ one (testBeat (.vunpk 4 5 .f32 Rnd.none) [8, 12] [32, 32]) = true ∧ one (testBeat (.viota 4 .s32) [2] [4]) = true
    ∧ one (testBeat (.vbcast 4 5 .s32) [2, 2] [4, 1]) = true ∧ 0 < ((testBeat (.vbcast 4 5 .s32) [2, 2] [4, 1]).recOf 1).count
    ∧ (∀ b, b < 3 → (testVec.readElem 1 ((testBeat (.vgath 4 5 6 .s32) [2, 2, 6] [4, 4, 4]).recOf 2) [b]) < 4) := by decide +kernel
theorem witness_beat_packs :
    let sw := testBeat (.vpack 4 5 Rnd.none) [12, 8] [32, 32]
    sw.lead.ty = 12 ∧ (∀ k, k < 2 → (sw.recOf k).chan = false) ∧ Ty.ofCode (BitVec.ofNat 4 (sw.recOf 1).ty) = some .f32 ∧ sw.beatRange.length = 32
    ∧ (∀ b : Nat, b < 18 → (testVec.ownKey 1 (sw.lead.offset (indexOf sw.lead.ext (32 * sw.beat)) + (b : Int))).isSome = true)
    ∧ testVec.ownKey 1 (sw.lead.offset [0] + 17) = some 1041 := by decide +kernel
theorem witness_beat_reductions :
    let r := testBeat (.vred 9 5 .s32 Rnd.none .sum) [2] [4]
    let c := testBeat (.vscan 4 5 .f32 Rnd.none .sum) [8, 8] [4, 4]
    r.beat < r.beats ∧ c.beat < c.beats ∧ r.beatRange.length = 4 ∧ c.beatRange = [0, 1, 2, 3] ∧ (∀ k, k < 2 → (c.recOf k).chan = false) ∧ (r.recOf 0).chan = false
    ∧ testVec.ownKey 1 (c.lead.offset (indexOf c.lead.ext 3)) = some 1036 := by decide +kernel
/-- Codes of f32: 1, 1.5, 2, −1, 0, −0, +∞, −∞ and the canonical NaN. -/
def testF32 : List Nat := [0x3F800000, 0x3FC00000, 0x40000000, 0xBF800000, 0, 0x80000000, 0x7F800000, 0xFF800000, 0x7FC00000]
theorem witness_round_to_float :
    let lvl (c : Nat) : Nat := if c < 2 ^ 23 then c else (2 ^ 23 + c % 2 ^ 23) * 2 ^ (c / 2 ^ 23 - 1)
    (0x3F800000 : Nat) < 255 * 2 ^ 23 ∧ (5 : Nat) < 2 ^ 23 ∧ lvl 5 ≤ 5 ∧ 5 < lvl 6 ∧ 255 * 2 ^ 23 < 0x7FC00000 ∧ 0x7FC00000 < 2 ^ 31
    ∧ lvl 5 * 2 < 11 ∧ 11 < lvl 6 * 2 ∧ lvl 5 * 2 + lvl 6 * 2 = 2 * 11 ∧ (5 : Nat) % 2 = 1 ∧ lvl (2 ^ 23) ≤ 2 ^ 24 - 1 ∧ (0 : Int) ≤ 0
    ∧ roundTo .f16 .rne (.num false 1 40) = (0x7BFF, 52) ∧ roundTo .bf16 .rup (.num false 0x1FF (-8)) = (0x4000, 16) := by decide +kernel
theorem witness_float_arithmetic :
    (testF32.map (fun c => Ty.f32.value c)).map (fun v => match v with
      | .num s m _ => if m = 0 then (if s then 1 else 0) else (if s then 3 else 2)
      | .inf s => if s then 5 else 4
      | .nan => 6) = [2, 2, 2, 3, 0, 1, 4, 5, 6]
    ∧ elemOp (.vfma 1 2 3 .f32 Rnd.none) .rne [0x3F800000, 0x3FC00000, 0x40000000] = (0x40800000, 0)
    ∧ elemOp (.vfms 1 2 3 .f32 Rnd.none) .rdn [0x3F800000, 0x3F800000, 0x3F800000] = (0x80000000, 0) := by decide +kernel
theorem witness_float_functions :
    Ty.f32.value 0x41000000 = .num false (2 ^ 23) (-20) ∧ (2 ^ 23 : Nat) = 2 ^ 23 ∧ (8 : Nat) < 2 ^ 11
    ∧ ((2 ^ 23 * 2 ^ 0 : Nat) : Int) - (8 * 2 ^ 20 : Nat) = 0 ∧ elemOp (.vlog2 1 2 .f32 Rnd.none) .rne [0, 0x41000000, 0] = (0x40400000, 0)
    ∧ elemOp (.vexp2 1 2 .f32 Rnd.none) .rne [0, 0x41000000, 0] = (0x43800000, 0) ∧ elemOp (.vsqrt 1 2 .f32 Rnd.none) .rne [0, 0x41800000, 0] = (0x40800000, 0)
    ∧ elemOp (.vdiv 1 2 3 .f32 Rnd.none) .rne [0, 0x3F800000, 0] = (0x7F800000, 2) := by decide +kernel
theorem witness_float_selections :
    (∀ c ∈ testF32, c < 2 ^ (8 * Ty.f32.bytes)) ∧ Ty.f32.value 0x7FC00000 = .nan ∧ Ty.f32.value 0x3F800000 ≠ .nan
    ∧ (0x3F800000 : Nat) % 2 ^ 31 < 0x40000000 % 2 ^ 31 ∧ 2 ^ 31 ≤ (0xBF800000 : Nat) ∧ (0x80000000 : Nat) % 2 ^ 31 = 0
    ∧ elemOp (.vmin 1 2 3 .f32) .rne [0, 0, 0x80000000] = (0x80000000, 0) ∧ elemOp (.vcmp 1 2 3 .f32 .eq) .rne [0, 0, 0x80000000] = (1, 0) := by decide +kernel
/-- A block of SCALE 127: its first pair marked in its low slot, all else 1 and −2. -/
def testBlock : List Nat := (0x48 :: List.replicate 15 0xE1) ++ [127, 3]
theorem witness_q4x_blocks :
    let ones : List Val := List.replicate 32 (.num false 1 0)
    let far (k : Nat) : List Val := List.replicate k (.num false 1 9) ++ List.replicate (32 - k) (.num false 1 0)
    testBlock.getD 16 0 ≠ 0xFF ∧ testBlock.getD 0 0 % 16 = 8 ∧ testBlock.getD 1 0 % 16 ≠ 8 ∧ testBlock.getD 1 0 / 16 ≠ 8 ∧ testBlock.getD 1 0 / 16 < 16
    ∧ (decodeQ4X testBlock).1.getD 2 .nan = .num false 1 0 ∧ (decodeQ4X testBlock).1.getD 3 .nan = .num true 2 0
    ∧ (List.replicate 17 0x88 ++ [0]).getD 16 0 ≠ 0xFF ∧ 3 ≤ (List.range 16).countP (fun q => decide ((List.replicate 17 0x88 ++ [0]).getD q 0 % 16 = 8))
    ∧ ones.length = 32 ∧ (∀ v ∈ ones, v ≠ .nan) ∧ (far 3).length = 32 ∧ (∃ v ∈ Val.nan :: ones, v = .nan)
    ∧ (encodeQ4X .rne ones).1.getD 16 0 ≤ 254 ∧ (1 : Nat) < 2 ^ 2 ∧ (2 : Nat) ^ 2 < 2 * 3 ∧ 2 * 2 = 2 ^ 2 := by decide +kernel
theorem witness_record_poison :
    let bad (s : State) (u : List Nat) : State := { s with spadPois := u }
    let s := testEngine []
    (bad testVec [1]).spadPoisoned 96 32 = true ∧ testVec.spadPoisoned 96 32 = false
    ∧ (bad s [1]).recPoisoned s.cur 64 8 = true ∧ s.recPoisoned s.cur 64 8 = false
    ∧ (bad s [2]).recPoisoned s.cur (0x4000000000000080 % 2 ^ 20) 12 = true ∧ s.recPoisoned s.cur 128 12 = false ∧ s.localAddr s.cur (0x4000000000000080 + 32) = .ok 160
    ∧ (bad testMatrix [5]).recPoisoned testMatrix.cur 320 4 = true ∧ testMatrix.recPoisoned testMatrix.cur 320 4 = false := by decide +kernel
theorem witness_far_sector :
    let q := { testCopy 4 0 with op := .copy 4 0x4000000000000400 0x0030000000000000 testCopyRec, state := .queued }
    let m := { testCopy 6 0 with op := .copy 6 0x4000000000000400 0x0030000000000000 testCopyRec }
    let s := testJobs q
    let on : Job := { q with state := .started, fifo := false }
    s.issuesDone = true ∧ s.jobRuns 7 q = true ∧ s.openEdges q = [] ∧ s.jobHome q = some 2 ∧ q.away = false ∧ q.pos < q.total ∧ s.mod.link.lost.contains 2 = false
    ∧ sectorKind (({ s with eng := { s.eng with jobs := Store.put s.eng.jobs 7 on } } : State).farSector on) = 0 ∧ m.contribution.isSome = true ∧ q.contribution = none := by
  decide +kernel
theorem witness_parked_reads :
    let k := { testBlockJob 9 1 with forum := some (640, 0), state := .started }
    let s := testForum none k []
    let w := s.waitRead 640 7 0 8 1
    s.parkedAt { testCopy 0 0 with forum := none } = none ∧ s.parkedAt k = some (640, 0) ∧ (Store.find (w.forum 640).reads 7).isSome = true
    ∧ ((w.dropRead 640 7).forum 640).reads = [] := by decide +kernel
theorem witness_masked_vectors :
    let s (m : List Nat) : State := { testBase with mod := { testBase.mod with host := { testBase.mod.host with unmasked := [1], masked := m, pending := [1] } } }
    (s []).mod.host.unmasked.contains (0 * 64 + 1) = true ∧ (s []).mod.host.masked.contains 0 = false ∧ (s [0]).mod.host.masked.contains 0 = true
    ∧ testBase.mod.host.unmasked.contains 1 = false ∧ 1 ∈ (s []).mod.host.pending ∧ (s []).landWrites.mod.host.pending = [1] := by decide +kernel
theorem witness_weight_reads :
    let j := testBlockJob 9 1
    let s := testForum none j []
    let got := s.waitRead 640 7 0 8 1
    let f := got.forum 640
    let now : Forum := { f with closed := 1 }
    let x : WeightRead := { block := 0, ty := 8, step := 1, got := none }
    Store.find (s.forum 640).reads 7 = none ∧ Store.find f.reads 7 = some x ∧ (1 : Nat) ≠ f.closed.toNat ∧ x.step = now.closed.toNat
    ∧ (Store.find (now.serve testSet).reads 7).map (fun x => x.got.isSome) = some true ∧ (Store.find (f.serve testSet).reads 7) = some x := by decide +kernel
/-- A forwarded operation that has reached a set whose MIRROR names the member that it comes from. -/
def testMirrored (op : MirrorOp) : State :=
  let s := testPair none (testBlockJob 8 1)
  { s with eng := { s.eng with mirror := [(5, { src := 2, member := 0x0030000000000000, vf := 0, req := 4, op := op })] } }
theorem witness_mirror_members :
    let l : Word := 0x0060000000000000
    (∀ op ∈ [MirrorOp.block l 0 1 [], .close l 1 2, .write l [(256, 1)], .join l 3 [(256, 1)] []], let s := testMirrored op
      (canonAt s.maps 0 l).map (·.2) = some { node := 640, child := none }
      ∧ (s.node 640).map (fun n => decide (n.kind = 4) && decide (n.mirror = 0x0030000000000000) && decide (s.homeOf 0 n.mirror = 2)) = some true)
    ∧ testSet.mirror ≠ 0x0030000000000000 ∧ (testMirror (.block l 0 1 [])).node 640 = some testSet := by decide +kernel
theorem witness_partner_closes :
    let s := testPair none (testBlockJob 8 1)
    (s.node 640).map (fun n => s.partner n) = some (some 2) ∧ s.relPending s.cur = false ∧ (s.forum 640).closed.toNat ≠ 2 ^ 32 - 1
    ∧ (1 : BitVec 32) = (s.forum 640).closed + 1 ∧ (s.forum 640).heldNow = [] ∧ (s.needPages 0 640 [(640, 0)]).2 = none := by decide +kernel
theorem witness_task_poison :
    let s := testDataRegs [(1, 0x4000000000000400), (2, 0x0030000000000000)]
    let t := (testSync []).updMe (fun t => { t with task := 0x4000000000000010 })
    let bad (s : State) (u : List Nat) : State := { s with spadPois := u }
    (bad s [16]).spadPoisoned 1024 32 = true ∧ s.spadPoisoned 1024 32 = false ∧ (testPending s).relPending s.cur = true
    ∧ t.tagged 16 = true ∧ (bad t [0]).spadPoisoned 16 16 = true ∧ t.spadPoisoned 16 16 = false ∧ t.swAddOk 16 = true
    ∧ (testPending t).relPending t.cur = true ∧ (testPending t).swAddOk 16 = true ∧ s.remoteHome (s.reg 2) = some 2 ∧ s.me.far ≠ some (s.reg 2, s.reg 1)
    ∧ (s.me.pois.getLsbD 3 = false ∧ (s.updMe (fun t => { t with pois := 8 })).me.pois.getLsbD 3 = true) ∧ (bad s [16]).spadPoisoned 1024 64 = true := by decide +kernel
theorem witness_steal_turns :
    let k := testFree (fun w => { w with steals := [(0, .asking [1, 2])], deques := [(1, [testTask 0, testTask 1])] })
    let r (n : Nat) := testFree (fun w => { w with steals := [(0, .answered [2] 1 (some (testTask 0)))], deques := [(0, List.replicate n (testTask 1))] })
    let busy (s : State) : State := s.updThread 0 (fun t => { t with work := true }) |>.updThread 1 (fun t => { t with work := true })
    let full := (List.range 16).foldl (fun (s : State) t => s.updThread t (fun t => { t with work := true })) (r 64)
    let some4 := (List.range 16).foldl (fun (s : State) t => s.updThread t (fun t => { t with work := true })) (r 4)
    k.partRuns 0 = true ∧ k.issuesDone = true ∧ (busy k).partRuns 0 = true ∧ ({ k with parts := [(0, { (k.part 0) with stop := .armed 0 })] } : State).partRuns 0 = false
    ∧ ({ k with threads := Store.put k.threads 16 { (testBase.thread 1) with sys := { (testBase.thread 1).sys with pend := some (6, 0) } } } : State).issuesDone = false
    ∧ k.mayAsk (theLaunch k) 0 = true
    ∧ ((theLaunch full).threadsOn 0).find? (fun t => full.wantsWork (theLaunch full) t) = none ∧ 4 * popOf (theLaunch full).slots ≤ ((theLaunch full).deque 0).length
    ∧ ((theLaunch some4).threadsOn 0).find? (fun t => some4.wantsWork (theLaunch some4) t) = none ∧ ((theLaunch some4).deque 0).length < 4 * popOf (theLaunch some4).slots := by
  decide +kernel
theorem witness_arrivals_wanted :
    let a := testFree (fun w => { w with deques := [(0, [testTask 0])] })
    let b := testFree id
    ((theLaunch a).deque 0 ≠ [] ∧ ((theLaunch a).threadsOn 0).any (a.wantsWork (theLaunch a)) = true) ∧ (theLaunch b).deque 0 = []
    ∧ ((theLaunch b).arrivals 0).length < (theLaunch b).limit := by decide +kernel
theorem witness_ends_told :
    let s : State := { testBase with mod := { testBase.mod with link := { testBase.mod.link with reach := [(0, 9), (3, 9)] } } }
    s.mod.link.reach.filter (fun p => decide (p.1 = 0)) = [(0, 9)] ∧ (s.tellEnded 0 0 false).mod.link.reach = [(3, 9)]
    ∧ (s.tellEnded 0 0 false).mod.link.outbox.map (fun p => (p.1, p.2.body)) = [(9, .ended 0 false)] := by decide +kernel
theorem witness_host_queues :
    let s (st : Nat) (w : List HostWrite) : State := let u := testQueue goodPacket st 2 []
      { u with
        launches := testBase.launches ++ [(5, { (theLaunch testBase) with phase := .waiting, queue := 3 })]
        mod := { u.mod with host := { u.mod.host with posted := w } } }
    (s 1 []).mod.host.posted = [] ∧ (s 1 [.ring 0 3 9]).mod.host.posted ≠ [] ∧ 2 ^ ((s 1 []).queue 0 3).log2 < (2 - ((s 1 []).queue 0 3).head).toNat
    ∧ ((s 0 []).queue 0 3).state = 0 ∧ ((s 1 []).queue 0 3).state ≠ 0 ∧ (4 : Nat) ≤ (0x24 : Word).toNat % 16 ∧ (0x24 : Word).toNat < 64
    ∧ (s 1 []).launch 5 = some { (theLaunch testBase) with phase := .waiting, queue := 3 } ∧ ((s 3 []).queue 0 3).state ≠ 1 ∧ ((s 1 []).queue 0 3).state = 1
    ∧ ((s 3 []).queue 0 3).state = 3 ∧ (theLaunch testBase).bbank ≠ 0 ∧ (theLaunch (testLaunch (fun l => { l with bbank := 0 }) testBase)).bbank = 0 := by decide +kernel
theorem witness_invalid_ranges :
    lblValid testLabel = true ∧ lblValid 0 = false ∧ testBase.sysVf = some 0 ∧ testBase.relPending testBase.cur = false
    ∧ (testRegs [(1, testLabel), (2, 0)]).reg 1 = testLabel := by decide +kernel
theorem witness_stops_reached :
    let at_ (now c : Nat) : State := { (testStop (.armed c) [(2, 0)]).updMe (fun t => { t with sys := { t.sys with stopcycle := 9000 } }) with cycle := now }
    let far : State := { testStop (.armed 0) [] with accs := [(7, { testAccess (.remote 9 testLabel 0) (.far (farCall (.tacq 3 1 .core true false) [testLabel]) none) .sent with tid := 1 })] }
    let f : State := testStop (.flushing 0 0 5 false) []
    ((at_ 3 4).part 0).stop = .armed 4 ∧ (at_ 3 4).cycle + 4096 ≤ (at_ 3 4).me.sys.stopcycle.toNat ∧ (at_ 3 4).cycle < 4 ∧ ((at_ 5 4).part 0).stop = .armed 4 ∧ 4 ≤ (at_ 5 4).cycle
    ∧ ((far.part 0).hasThread 1 = true ∧ Store.find far.accs 7 = some { testAccess (.remote 9 testLabel 0) (.far (farCall (.tacq 3 1 .core true false) [testLabel]) none) .sent with tid := 1 }
      ∧ (farCall (.tacq 3 1 .core true false) [testLabel]).op = .tacq 3 1 .core true false ∧ (7 : Nat) ∉ far.mod.link.undone)
    ∧ f.tourHeld 0 = false ∧ ({ f with mod := { f.mod with net := { f.mod.net with visitAt := [(0, f.cycle / 2 + 1)] } } } : State).tourHeld 0 = true
    ∧ ({ f with mod := { f.mod with net := { f.mod.net with flits := [testFlit 0 5 1] } } } : State).tourHeld 0 = true := by decide +kernel
theorem witness_aborts_sent :
    let j : Job := { testCopy 6 0 with op := .copy 6 0x4000000000000400 0x0030000000000000 testCopyRec }
    let s : State := { testJobs j with mod := { testBase.mod with link := { testBase.mod.link with incs := [(9, 4)] } } }
    s.collectives 0 = [0x0030000000000000] ∧ s.peersOf 0 0x0030000000000000 = [2, 9] := by decide +kernel
theorem witness_flits_again :
    let old : Flit := { testFlit 900 5 0 with again := true, packet := 8 }
    let s := testNet (fun n => { n with flits := [testFlit 0 5 0, old] })
    s.mod.net.hopAt ≠ s.cycle / 2 + 1 ∧ testFlit 0 5 0 ∈ s.mod.net.flits ∧ (testFlit 0 5 0).again = false ∧ old ∈ s.mod.net.flits ∧ old.again = true
    ∧ old.age = 0 ∧ old.part = (testFlit 0 5 0).part := by decide +kernel
theorem witness_module_losses :
    let far (r : Option Word) (st : AccState) : Access := testAccess (.remote 9 testLabel 0) (.far (farCall (.lcan 3 1) [testLabel]) r) st
    let close : Access := { testAccess (.glob 0 none 0 0) (.reply none) .waiting with shoot := some 4 }
    let w : MirrorOut := { set := 640, peer := 9, op := .close 0 1 0, back := none }
    let s (accs : Store Access) : State := { testLink 0 4 (.abort 0) with accs := accs, mod := { testBase.mod with link := { testBase.mod.link with awaits := [(4, w)] } } }
    let j : Job := { testCopy 4 0 with op := .copy 4 0x4000000000000400 0x0030000000000000 testCopyRec, away := true }
    (Store.find (s [(7, far none .held)]).accs 7).map (fun a => (a.place, a.state)) = some (.remote 9 testLabel 0, .held)
    ∧ (Store.find (s [(7, far (some 3) .sent)]).accs 7).map (fun a => (a.place, a.state)) = some (.remote 9 testLabel 0, .sent)
    ∧ (Store.find (s [(7, close)]).accs 7).map (·.shoot) = some (some 4) ∧ close.state = .waiting ∧ Store.find (s [(7, close)]).mod.link.awaits 4 = some w ∧ w.peer = 9
    ∧ (s []).pairedWith 8 = [] ∧ (testJobs j).eng.jobs.map (·.1) = [7] ∧ j.state = .started ∧ j.away = true
    ∧ (testJobs j).jobHome j = some (2 : BitVec 16).toNat ∧ (s []).eng.jobs.length = 0 := by decide +kernel
theorem witness_firmware :
    let b (f : Firmware) (g : BootState → BootState) : State := testBoot (fun b => g { b with firmware := f })
    let ok : Firmware := { root := 7, hyp := 15, service := 7 }
    let accepted (s : State) (i : Nat) : Prop := i % 8 = 7 ∧ s.mod.boot.minVer ≤ i / 8
    let s := b ok id
    let old := b ok (fun b => { b with minVer := 1 })
    let rec_ (k : Nat) := b ok (fun b => { b with safe := true, failsAt := k })
    (accepted s s.mod.boot.firmware.root ∧ accepted s s.mod.boot.firmware.service ∧ accepted s s.mod.boot.firmware.hyp)
    ∧ ¬ accepted old old.mod.boot.firmware.root ∧ ¬ accepted s 6 ∧ accepted old 15 ∧ s.mod.boot.starting = none
    ∧ (let z : State := { b ok (fun b => { b with retained := true }) with frozen := true }; z.frozen = true ∧ z.mod.boot.retained = true ∧ z.mod.boot.warmFail < 2)
    ∧ (rec_ 0).mod.boot.safe = true ∧ (rec_ 0).mod.boot.failsAt = 0 ∧ (rec_ 3).mod.boot.failsAt = 3 ∧ s.mod.boot.number ≠ 0
    ∧ (b ok (fun b => { b with number := 0 })).mod.boot.number = 0 := by decide +kernel
theorem witness_last_level_cache :
    let line (d : Bool) : LlcLine := { tile := 2, set := 0, way := 3, unit := 9, dirty := d }
    let c (d : Bool) : Llc := { lines := [line d], bbank := [(2, 1)] }
    (c true).lines = [line true] ∧ (line true).unit ≠ 5 ∧ (0x0008 : BitVec 16) ≠ 0 ∧ (0x0008 : BitVec 16).getLsbD 3 = true ∧ ¬ (∃ x ∈ (c true).lines, x.unit = 5)
    ∧ (∃ x ∈ (c true).lines, x.unit = 9) ∧ (Store.find (c true).bbank 2).getD 0 = 1 ∧ (Store.find (c true).bbank 3).getD 0 = 0 := by decide +kernel
theorem witness_closed_modules :
    let s (b : Option (Bool × Nat)) (i : Instr) : State := { testBoot (fun x => { x with starting := b }) with frozen := true, agenda := [i] }
    ((s none .flitHop).frozen = true ∧ managementEvent .flitHop = false) ∧ (s (some (true, 0)) .flitHop).mod.boot.starting ≠ none
    ∧ startEvent .flitHop = false ∧ startEvent .powerExcursion = true ∧ managementEvent .freezeCommand = true ∧ (s (some (true, 0)) .powerExcursion).frozen = true := by
  decide +kernel

/-! ## Code and a spill area that another module homes -/

/-- The label of root 3, which module 2 homes. -/
def farLabel : Word := 0x0030000000000000

def testFar : State := testData.updMe (fun t => { t with code := farLabel })

theorem witness_far_code :
    let s := testFar
    let k : State := { s with icache := [{ core := 0, vf := 0, label := farLabel, line := 0, words := [placedHeader, 0, 0, 0, 0, 0, 0, 0], node := 0, far := some 64 }] }
    let l : State := { s with mod := { s.mod with link := { s.mod.link with lost := [2] } } }
    (s.codeExtent 0 (s.mapOf 1) farLabel = none ∧ s.farHome (s.mapOf 1) farLabel = some 2 ∧ s.peekCode 1 farLabel 0 = none)
    ∧ (k.codeExtent 0 (k.mapOf 1) farLabel = some 64 ∧ k.targetCheck 1 farLabel 0 = none ∧ k.targetCheck 1 farLabel 64 = some (0x08, 64))
    ∧ (testBase.codeExtent 0 0 0x0050000000000000 = none ∧ testBase.farHome 0 0x0050000000000000 = none)
    ∧ (s.missing 1 = some 0 ∧ s.scheduled 1 = true ∧ (s.thread 1).waits.all (s.waitOver 1) = true ∧ s.mod.link.asks = [])
    ∧ (l.missing 1 = some 0 ∧ l.mod.link.lost = [2] ∧ l.farHome (l.mapOf 1) farLabel = some 2)
    ∧ testBase.farHome (testBase.mapOf 1) (testBase.thread 1).code = none := by decide +kernel

theorem witness_far_spill :
    let s := testWork (fun w => { w with arrivals := [(0, [testCtx])] }) (testLaunch (fun l => { l with spill := farLabel }) { testData with
      sync := { testData.sync with ctxs := [(7, (testCtx, .travelling))] } })
    let a (peer : Nat) (op : HwOp) : HwAsk := { peer := peer, tid := 1, id := 7, label := farLabel, op := op }
    let body (b : LinkBody) : LinkPacket := { src := 2, inc := 4, vf := 0, reset := 2, body := b }
    let asked (op : HwOp) (b : LinkBody) : State := { s with mod := { s.mod with link := { s.mod.link with
      ports := [(0, { s.port 0 with state := 0 })], incs := [(2, 4)], asks := [(3, a 2 op)], inbox := [(5, body b)] } } }
    let who : Agent := { tid := 0, level := 0, fused := false, launch := 0, core := 0 }
    (s.farHome (s.mapOf testCtx.sender) (theLaunch s).spill = some 2 ∧ (theLaunch s).limit ≤ ((theLaunch s).arrivals 0).length
      ∧ Store.find s.sync.ctxs 7 = some (testCtx, .travelling) ∧ (theLaunch s).deque 0 = [] ∧ 2 ∉ s.mod.link.lost)
    ∧ ((asked (.spill testCtx) (.hwDone 3 .spilled)).mod.link.asks = [(3, a 2 (.spill testCtx))]
      ∧ ∀ x ∈ (asked (.spill testCtx) (.hwDone 3 .spilled)).mod.link.asks, x.2.peer ≠ 3)
    ∧ ((asked (.spill testCtx) (.hwDone 3 .spilled)).receive 5 (body (.hwDone 3 .spilled))).map (fun u => (Store.find u.sync.ctxs 7).map (·.2))
      = some (some .accepted)
    ∧ (((asked (.line 8) (.hwDone 3 (.line 64 [placedHeader]))).receive 5 (body (.hwDone 3 (.line 64 [placedHeader])))).map (fun u => u.icache.length)
      = some (testData.icache.length + 1))
    ∧ ((asked (.line 8) (.hw 9 who placedLabel (.line 8))).receive 5 (body (.hw 9 who placedLabel (.line 8)))).map (fun u =>
        (u.mod.link.outbox.getLast?).map (fun y => match y.2.body with
          | .hwDone req (.line _ ws) => (y.1, req, ws.length)
          | _ => (0, 0, 0))) = some (some (2, 9, 8)) := by decide +kernel
end

section
/-! SUPPORT. Path labels as numbers (R47 to R51): the fields of a label, its validity and SubEnd as arithmetic on its value. A
valid label is its top 12 + 8 · DEPTH bits (its path), then zeros, then DEPTH; SubEnd keeps the path and fills the rest with ones. -/

namespace Sys2Proof.Machine

/-! ## The fields -/

theorem lblRoot_eq (l : Word) : lblRoot l = l.toNat / 2 ^ 52 := by
  have := l.isLt
  simp only [lblRoot, BitVec.extractLsb'_toNat, Nat.shiftRight_eq_div_pow]
  omega

theorem lblDepth_eq (l : Word) : lblDepth l = l.toNat % 16 := by
  simp [lblDepth, BitVec.extractLsb'_toNat]

theorem lblDigit_eq (l : Word) (j : Nat) : lblDigit l j = l.toNat / 2 ^ (52 - 8 * j) % 256 := by
  simp [lblDigit, BitVec.extractLsb'_toNat, Nat.shiftRight_eq_div_pow]

theorem lblDepth_le_of_valid {l : Word} (h : lblValid l = true) : lblDepth l ≤ 6 := by
  simp only [lblValid, Bool.and_eq_true, decide_eq_true_eq] at h
  obtain ⟨⟨-, hdepth⟩, -⟩ := h
  exact hdepth

/-- R48: exactly the digits of the levels that the path passes are not zero. -/
theorem lblDigit_ne_zero_iff {l : Word} (h : lblValid l = true) {j : Nat} (h1 : 1 ≤ j) (h6 : j ≤ 6) :
    lblDigit l j ≠ 0 ↔ j ≤ lblDepth l := by
  simp only [lblValid, Bool.and_eq_true, List.all_eq_true, beq_iff_eq, decide_eq_decide] at h
  obtain ⟨-, hdigits⟩ := h
  exact hdigits j (by simp; omega)

theorem lblAnc_iff (a b : Word) : lblAnc a b = true ↔
    lblDepth a ≤ lblDepth b ∧ a.toNat / 2 ^ (52 - 8 * lblDepth a) = b.toNat / 2 ^ (52 - 8 * lblDepth a) := by
  simp [lblAnc, ← BitVec.toNat_inj, Nat.shiftRight_eq_div_pow]

/-! ## A valid label is its path and its DEPTH -/

/-- With the last `m` digits zero, what stands below the digits above them is DEPTH alone. -/
theorem lbl_mod_of_zero_digits (l : Word) (m : Nat) (hm : m ≤ 6) (h : ∀ j, 6 - m < j → j ≤ 6 → lblDigit l j = 0) :
    l.toNat % 2 ^ (4 + 8 * m) = lblDepth l := by
  induction m with
  | zero => simp [lblDepth_eq]
  | succ m ih =>
    have below := ih (by omega) fun j hj => h j (by omega)
    have digit := h (6 - m) (by omega) (by omega)
    rw [lblDigit_eq, show 52 - 8 * (6 - m) = 4 + 8 * m by omega] at digit
    rw [show 4 + 8 * (m + 1) = 4 + 8 * m + 8 by omega, pow_add, Nat.mod_mul]
    simpa [digit] using below

theorem lbl_mod_of_valid {l : Word} (h : lblValid l = true) : l.toNat % 2 ^ (52 - 8 * lblDepth l) = lblDepth l := by
  have hd := lblDepth_le_of_valid h
  have zeros (j : Nat) (hj : 6 - (6 - lblDepth l) < j) (h6 : j ≤ 6) : lblDigit l j = 0 := by
    by_contra hne
    have := (lblDigit_ne_zero_iff h (by omega) h6).1 hne
    omega
  have := lbl_mod_of_zero_digits l (6 - lblDepth l) (by omega) zeros
  rwa [show 4 + 8 * (6 - lblDepth l) = 52 - 8 * lblDepth l by omega] at this

/-! ## The value of SubEnd -/

theorem lblMake_go_append (xs ys : List Nat) (j : Nat) :
    lblMake.go (xs ++ ys) j = lblMake.go xs j + lblMake.go ys (j + xs.length) := by
  induction xs generalizing j with
  | nil => simp [lblMake.go]
  | cons x xs ih =>
    simp only [List.cons_append, lblMake.go, ih, List.length_cons]
    rw [← Nat.add_assoc, Nat.add_right_comm j 1, Nat.add_assoc j]

/-- The root and the first `k` digits of a label, at their places, are its value with the bits below them cleared. -/
theorem lblMake_go_digits (l : Word) (k : Nat) (hk : k ≤ 6) :
    lblRoot l * 2 ^ 52 + lblMake.go ((List.range k).map fun i => lblDigit l (i + 1)) 1
      = l.toNat / 2 ^ (52 - 8 * k) * 2 ^ (52 - 8 * k) := by
  induction k with
  | zero => simp [lblMake.go, lblRoot_eq]
  | succ k ih =>
    have place : 2 ^ (52 - 8 * k) = 2 ^ (52 - 8 * (k + 1)) * 256 := by
      rw [show 52 - 8 * k = 52 - 8 * (k + 1) + 8 by omega, pow_add]
      norm_num
    rw [List.range_succ, List.map_append, lblMake_go_append, ← Nat.add_assoc, ih (by omega), place,
      ← Nat.div_div_eq_div_mul]
    simp only [List.map_cons, List.map_nil, List.length_map, List.length_range, lblMake.go, Nat.add_zero,
      Nat.add_comm 1 k, lblDigit_eq]
    generalize l.toNat / 2 ^ (52 - 8 * (k + 1)) = q
    rw [Nat.mul_comm (2 ^ _) 256, ← Nat.mul_assoc, ← Nat.add_mul, Nat.div_add_mod']

/-- The last `m` digits at 0xFF are ones from bit 4 up. -/
theorem lblMake_go_ones (m : Nat) (hm : m ≤ 6) :
    lblMake.go (List.replicate m 0xFF) (7 - m) + 16 = 2 ^ (4 + 8 * m) := by
  induction m with
  | zero => simp [lblMake.go]
  | succ m ih =>
    have below := ih (by omega)
    rw [List.replicate_succ, lblMake.go, show 52 - 8 * (7 - (m + 1)) = 4 + 8 * m by omega,
      show 7 - (m + 1) + 1 = 7 - m by omega, show 4 + 8 * (m + 1) = 4 + 8 * m + 8 by omega, pow_add _ _ 8]
    omega

theorem length_lblDigits {l : Word} (h : lblValid l = true) : (lblDigits l).length = lblDepth l := by
  simp [lblDigits, lblDepth_le_of_valid h]

/-- A path with every bit below it is still within the word. -/
theorem lbl_path_succ_mul_le {a : Word} (h : lblValid a = true) :
    (a.toNat / 2 ^ (52 - 8 * lblDepth a) + 1) * 2 ^ (52 - 8 * lblDepth a) ≤ 2 ^ 64 := by
  have hd := lblDepth_le_of_valid h
  have whole : 2 ^ 64 = 2 ^ (12 + 8 * lblDepth a) * 2 ^ (52 - 8 * lblDepth a) := by
    rw [← pow_add, show 12 + 8 * lblDepth a + (52 - 8 * lblDepth a) = 64 by omega]
  have hlt : a.toNat / 2 ^ (52 - 8 * lblDepth a) < 2 ^ (12 + 8 * lblDepth a) :=
    (Nat.div_lt_iff_lt_mul (by positivity)).2 (whole ▸ a.isLt)
  rw [whole]
  exact Nat.mul_le_mul_right _ hlt

/-- R51: SubEnd is the path, then ones down to bit 4, then DEPTH 6: ten short of the next path. -/
theorem lblSubEnd_toNat_add {a : Word} (h : lblValid a = true) :
    (lblSubEnd a).toNat + 10 = (a.toNat / 2 ^ (52 - 8 * lblDepth a) + 1) * 2 ^ (52 - 8 * lblDepth a) := by
  have hd := lblDepth_le_of_valid h
  have digits : lblDigits a = (List.range (lblDepth a)).map fun i => lblDigit a (i + 1) := by
    simp [lblDigits, hd]
  have pre := lblMake_go_digits a (lblDepth a) hd
  have ones := lblMake_go_ones (6 - lblDepth a) (by omega)
  rw [show 7 - (6 - lblDepth a) = 1 + lblDepth a by omega,
    show 4 + 8 * (6 - lblDepth a) = 52 - 8 * lblDepth a by omega] at ones
  have fits := lbl_path_succ_mul_le h
  have sum : lblRoot a * 2 ^ 52 + lblMake.go (lblDigits a ++ List.replicate (6 - lblDepth a) 0xFF) 1
      + (lblDigits a ++ List.replicate (6 - lblDepth a) 0xFF).length + 10
      = (a.toNat / 2 ^ (52 - 8 * lblDepth a) + 1) * 2 ^ (52 - 8 * lblDepth a) := by
    rw [lblMake_go_append, List.length_append, length_lblDigits h, List.length_replicate, digits, Nat.add_one_mul,
      ← Nat.add_assoc (_ * _), pre]
    omega
  rw [lblSubEnd, lblMake, word, BitVec.toNat_ofNat, Nat.mod_eq_of_lt (by omega), sum]

/-! ## The subtree as a range of bits [63:4] -/

/-- The bits below a valid label's path hold DEPTH and whole digits. -/
theorem sixteen_dvd_lblTail {a : Word} (h : lblValid a = true) : 16 ∣ 2 ^ (52 - 8 * lblDepth a) := by
  have := lblDepth_le_of_valid h
  exact pow_dvd_pow 2 (show 4 ≤ 52 - 8 * lblDepth a by omega)

theorem lblSubEnd_path {a : Word} (h : lblValid a = true) :
    (lblSubEnd a).toNat / 2 ^ (52 - 8 * lblDepth a) = a.toNat / 2 ^ (52 - 8 * lblDepth a) := by
  have tail := Nat.le_of_dvd (by positivity) (sixteen_dvd_lblTail h)
  have last := lblSubEnd_toNat_add h
  rw [Nat.add_one_mul] at last
  rw [Nat.div_eq_iff (by positivity)]
  omega

/-- The range from a valid label to its SubEnd holds the words whose top bits are its path, and no others: in bits [63:4] it runs from
`start`, the path followed by zeros, to the last number before the next path. -/
theorem lbl_range_iff_path {a : Word} (h : lblValid a = true) (b : Word) :
    (a.toNat / 16 ≤ b.toNat / 16 ∧ b.toNat / 16 ≤ (lblSubEnd a).toNat / 16) ↔
      a.toNat / 2 ^ (52 - 8 * lblDepth a) = b.toNat / 2 ^ (52 - 8 * lblDepth a) := by
  have hd := lblDepth_le_of_valid h
  have low := lbl_mod_of_valid h
  have value := Nat.div_add_mod' a.toNat (2 ^ (52 - 8 * lblDepth a))
  have last := lblSubEnd_toNat_add h
  obtain ⟨M, hM⟩ := sixteen_dvd_lblTail h
  have hpos : 0 < M := Nat.pos_of_ne_zero fun h0 => by simp [h0] at hM
  rw [low] at value
  rw [hM] at value last ⊢
  generalize a.toNat / (16 * M) = p at value last ⊢
  rw [Nat.mul_left_comm] at value
  rw [Nat.mul_left_comm, Nat.add_one_mul p] at last
  rw [eq_comm, ← Nat.div_div_eq_div_mul, Nat.div_eq_iff hpos]
  generalize p * M = start at value last ⊢
  omega

/-- Labels that agree down to a valid label's last digit go at least as deep. -/
theorem lblDepth_le_of_path {a b : Word} (ha : lblValid a = true) (hb : lblValid b = true)
    (h : a.toNat / 2 ^ (52 - 8 * lblDepth a) = b.toNat / 2 ^ (52 - 8 * lblDepth a)) : lblDepth a ≤ lblDepth b := by
  have hd := lblDepth_le_of_valid ha
  rcases Nat.eq_zero_or_pos (lblDepth a) with h0 | hpos
  · omega
  · have same : lblDigit a (lblDepth a) = lblDigit b (lblDepth a) := by rw [lblDigit_eq, lblDigit_eq, h]
    have last := (lblDigit_ne_zero_iff ha hpos hd).2 le_rfl
    exact (lblDigit_ne_zero_iff hb hpos hd).1 (same ▸ last)

theorem lblAnc_iff_range {a b : Word} (ha : lblValid a = true) (hb : lblValid b = true) :
    lblAnc a b = true ↔ a.toNat / 16 ≤ b.toNat / 16 ∧ b.toNat / 16 ≤ (lblSubEnd a).toNat / 16 := by
  rw [lblAnc_iff, lbl_range_iff_path ha]
  exact and_iff_right_of_imp (lblDepth_le_of_path ha hb)

theorem lblDigit_lblSubEnd {a : Word} (h : lblValid a = true) {j : Nat} (hj : lblDepth a < j) (h6 : j ≤ 6) :
    lblDigit (lblSubEnd a) j = 0xFF := by
  have hd := lblDepth_le_of_valid h
  have last := lblSubEnd_toNat_add h
  have tail : 2 ^ (52 - 8 * lblDepth a) = 2 ^ (8 * (j - lblDepth a - 1)) * 256 * 2 ^ (52 - 8 * j) := by
    rw [show 256 = 2 ^ 8 by norm_num, ← pow_add, ← pow_add]
    congr 1
    omega
  have place : 16 ≤ 2 ^ (52 - 8 * j) := Nat.pow_le_pow_right (n := 2) (by omega) (show 4 ≤ 52 - 8 * j by omega)
  rw [tail, ← Nat.mul_assoc, ← Nat.mul_assoc] at last
  generalize hN : (a.toNat / _ + 1) * 2 ^ (8 * (j - lblDepth a - 1)) = N at last
  have hpos : 0 < N := hN ▸ by positivity
  have quotient : (lblSubEnd a).toNat / 2 ^ (52 - 8 * j) = N * 256 - 1 := by
    rw [Nat.div_eq_iff (by omega), Nat.sub_one_mul]
    omega
  rw [lblDigit_eq, quotient]
  omega

/-- Settles O16: the range of the subtree holds the labels with the path of `a`, and a valid label with that path is at
least as deep, because its digit at the last level of `a` is not zero. -/
theorem subtreeOrder : Obligations.SubtreeOrder := by
  unfold Obligations.SubtreeOrder
  intro a b ha hb
  simp only [← lblDepth_eq]
  refine ⟨lblAnc_iff a b, lblAnc_iff_range ha hb, lblSubEnd_path ha, fun j hj h6 => ?_⟩
  rw [← lblDigit_eq, lblDigit_lblSubEnd ha hj h6]

end Sys2Proof.Machine
end

section
/-! SUPPORT. Numbers by value: the codes of f8 (R90, R91), Round past the largest finite code (R98), and the s8 cell of the
matrix array, chunk by chunk (R101, R102). -/

namespace Sys2Proof.Machine

/-! ## Round past the largest finite code -/

/-- Rounding to a coarser multiple never falls below the floor, in any mode. -/
theorem div_le_quantize (md : RMode) (neg : Bool) (m : Nat) {e qe : Int} (h : e < qe) :
    m / 2 ^ (qe - e).toNat ≤ (quantize md neg m e qe).1 := by
  simp only [quantize, Int.not_le.2 h, if_false]
  split <;> omega

/-- R98, for a value whose leading bit stands at exponent `e + log2 m`: a multiple of the last place that is past the greatest
significand at the greatest exponent. A carry out of the significand raises the exponent, so it is past it still. -/
theorem roundFloat_of_beyond {f : Fmt} {md : RMode} {neg : Bool} {m : Nat} {e : Int} (hm : m ≠ 0)
    (hnormal : 1 - (f.bias : Int) ≤ e + m.log2)
    (hsig : 2 ^ f.frac ≤ (quantize md neg m e (e + m.log2 - f.frac)).1)
    (hbeyond : (f.maxE : Int) < e + m.log2 + f.bias
      ∨ (f.maxE : Int) = e + m.log2 + f.bias ∧ f.maxSig < (quantize md neg m e (e + m.log2 - f.frac)).1) :
    roundFloat f md (.num neg m e) = (f.signed neg f.maxCode, fOverflow ||| fSaturate ||| fInexact) := by
  have hbits : e + (bitLen m : Int) - 1 = e + m.log2 := by simp [bitLen, hm]; omega
  have hlast : ¬ e + (m.log2 : Int) - f.frac < 1 - f.bias - f.frac := by omega
  simp only [roundFloat, hm, hbits, hlast, if_false]
  by_cases hcarry : (quantize md neg m e (e + m.log2 - f.frac)).1 = 2 ^ (f.frac + 1)
  · have hexp : (f.maxE : Int) < e + m.log2 - f.frac + 1 + f.frac + f.bias := by omega
    simp [hcarry, hexp]
  · have hpast : (f.maxE : Int) < e + m.log2 - f.frac + f.frac + f.bias
        ∨ e + m.log2 - f.frac + f.frac + f.bias = f.maxE ∧ f.maxSig < (quantize md neg m e (e + m.log2 - f.frac)).1 := by omega
    simp only [hcarry, if_false, Nat.not_lt.2 hsig, hpast, if_true]

/-! ## The codes of f8 -/

/-- R90, R91: the fields of a code are its top bit, the next four bits and the low three; there is no infinity.
The last two cases end in `rfl` because the model decides the sign by 2 ^ 7 ≤ c. -/
theorem f8_value (c : Nat) :
    Ty.f8.value c = if c % 128 = 0x7F then .nan
      else if c / 8 % 16 = 0 then .num (decide (128 ≤ c)) (c % 8) (-9)
      else .num (decide (128 ≤ c)) (8 + c % 8) (((c / 8 % 16 : Nat) : Int) - 10) := by
  have hfield : c % 128 / 8 = c / 8 % 16 := by omega
  have hexp : (c : Int) / 8 % 16 - 7 - 3 = (c : Int) / 8 % 16 - 10 := by omega
  change fmtF8.decode c = _
  simp only [Fmt.decode, fmtF8, hfield, Nat.reducePow, Nat.reduceSub]
  by_cases hnan : c % 128 = 0x7F
  · simp [hnan]
  · by_cases hzero : c / 8 % 16 = 0
    · simp [hnan, hzero] <;> rfl
    · simp [hnan, hzero, hexp] <;> rfl

/-- R91: the largest finite code is 0x7E with the sign bit. -/
theorem f8_signed_maxCode (neg : Bool) : fmtF8.signed neg fmtF8.maxCode = if neg then 0xFE else 0x7E := by
  cases neg <;> rfl

theorem roundTo_f8_inf (md : RMode) (neg : Bool) : roundTo .f8 md (.inf neg) = (if neg then 0xFE else 0x7E, 32) := by
  rw [← f8_signed_maxCode]
  rfl

/-- Four bits from the leading one of a magnitude of 480 or more: at least 8, and at least 15 when the leading bit is 256. -/
theorem f8_sig_of_ge {m : Nat} (h : 480 ≤ m) :
    8 ≤ m.log2 ∧ 8 ≤ m / 2 ^ (m.log2 - 3) ∧ (m.log2 = 8 → 14 < m / 2 ^ (m.log2 - 3)) := by
  have hm : m ≠ 0 := by omega
  have hlog : 8 ≤ m.log2 := (Nat.le_log2 hm).2 (by omega)
  have hlead : 8 * 2 ^ (m.log2 - 3) ≤ m :=
    calc 8 * 2 ^ (m.log2 - 3) = 2 ^ (3 + (m.log2 - 3)) := by rw [pow_add]; norm_num
      _ = 2 ^ m.log2 := by rw [Nat.add_sub_cancel' (by omega)]
      _ ≤ m := Nat.log2_self_le hm
  refine ⟨hlog, (Nat.le_div_iff_mul_le (by positivity)).2 hlead, fun h8 => ?_⟩
  rw [h8]
  omega

theorem roundTo_f8_of_ge (md : RMode) (neg : Bool) {m : Nat} {e : Int} (h : 480 ≤ m) (he : 0 ≤ e) :
    roundTo .f8 md (.num neg m e) = (if neg then 0xFE else 0x7E, 52) := by
  obtain ⟨hlog, hsig, hsig8⟩ := f8_sig_of_ge h
  have hfloor := div_le_quantize md neg m (e := e) (qe := e + m.log2 - 3) (by omega)
  rw [show (e + m.log2 - 3 - e).toNat = m.log2 - 3 by omega] at hfloor
  rw [← f8_signed_maxCode]
  refine roundFloat_of_beyond (f := fmtF8) (by omega) ?_ ?_ ?_
  · change (1 : Int) - 7 ≤ _
    omega
  · exact hsig.trans hfloor
  · change (15 : Int) < e + m.log2 + 7 ∨ (15 : Int) = e + m.log2 + 7 ∧ 14 < (quantize md neg m e (e + m.log2 - 3)).1
    by_cases htop : e + (m.log2 : Int) = 8
    · have := hsig8 (by omega)
      omega
    · omega

/-- Settles O32: the fields of a code, and Round of infinities and of magnitudes from 480 on, where the four leading bits are
past those of 448 before the mode is asked. -/
theorem f8Codes : Obligations.F8Codes := by
  unfold Obligations.F8Codes
  exact ⟨fun c _ => f8_value c, roundTo_f8_inf, fun md neg m e h he => roundTo_f8_of_ge md neg h he⟩

/-! ## The s8 cell -/

/-- Clamp to the s32 range, with SATURATE exactly when it clamps (R102). -/
def clampCell (x : Int) : Int × Nat :=
  (if 2 ^ 31 - 1 < x then 2 ^ 31 - 1 else if x < -(2 ^ 31) then -(2 ^ 31) else x,
    if 2 ^ 31 - 1 < x ∨ x < -(2 ^ 31) then 32 else 0)

theorem clampCell_eq (x : Int) : clampCell x =
    if 2 ^ 31 - 1 < x then (2 ^ 31 - 1, fSaturate) else if x < -(2 ^ 31) then (-(2 ^ 31), fSaturate) else (x, 0) := by
  unfold clampCell
  by_cases hhi : 2 ^ 31 - 1 < x
  · simp only [hhi, true_or, if_true, fSaturate]
  · by_cases hlo : x < -(2 ^ 31)
    · simp only [hhi, hlo, or_true, if_true, if_false, fSaturate]
    · simp only [hhi, hlo, or_self, if_false]

@[simp] theorem cellInt_nil (kc n : Nat) (bs : List Int) (acc : Int) : cellInt kc n [] bs acc = (acc, 0) := by
  cases n <;> rfl

/-- One chunk of a cell: its exact sum, clamped, is what the rest starts from. -/
theorem cellInt_succ (kc n : Nat) {as : List Int} (bs : List Int) (acc : Int) (h : as ≠ []) :
    cellInt kc (n + 1) as bs acc =
      let here := clampCell (acc + (List.zipWith (· * ·) (as.take kc) (bs.take kc)).sum)
      let rest := cellInt kc n (as.drop kc) (bs.drop kc) here.1
      (rest.1, here.2 ||| rest.2) := by
  simp only [cellInt, h, if_false, clampCell_eq, List.sum_eq_foldl]

theorem cellInt_of_length_le {kc : Nat} (n : Nat) {as bs : List Int} (acc : Int) (h : as ≠ []) (ha : as.length ≤ kc)
    (hb : bs.length ≤ kc) :
    cellInt kc (n + 1) as bs acc = clampCell (acc + (List.zipWith (· * ·) as bs).sum) := by
  simp [cellInt_succ kc n bs acc h, List.take_of_length_le, List.drop_of_length_le, ha, hb]

theorem cellInt_append {as bs : List Int} (n : Nat) (cs ds : List Int) (acc : Int) (h : as ≠ [])
    (hb : bs.length = as.length) :
    cellInt as.length (n + 1) (as ++ cs) (bs ++ ds) acc =
      let here := clampCell (acc + (List.zipWith (· * ·) as bs).sum)
      let rest := cellInt as.length n cs ds here.1
      (rest.1, here.2 ||| rest.2) := by
  rw [cellInt_succ _ _ _ _ (by simp [h]), List.take_left, List.drop_left, List.take_left' hb, List.drop_left' hb]

/-- The value of a code of a signed type is its value as a two's complement number. -/
theorem intOf_of_signed {t : Ty} (h : t.isSigned = true) (c : Nat) :
    t.intOf c = if c < 2 ^ (8 * t.bytes - 1) then (c : Int) else (c : Int) - 2 ^ (8 * t.bytes) := by
  by_cases hc : c < 2 ^ (8 * t.bytes - 1)
  · simp [Ty.intOf, hc]
  · simp [Ty.intOf, h, hc, Nat.not_lt.1 hc]

/-- MMA on a cell of s8 operands is the integer cell on the values of the codes, in chunks of 64. -/
theorem mmaCell_s8 (md : RMode) (k : Nat) (x y : List Nat) (a : Nat) :
    mmaCell .s8 md k x y a =
      let r := cellInt 64 (k + 1) ((x.take k).map Ty.s8.intOf) ((y.take k).map Ty.s8.intOf) (Ty.s32.intOf a)
      (Ty.s32.codeInt r.1, r.2) := rfl

/-- Settles O39: the cell of one chunk, of a chunk before others, and of MMA. -/
theorem matrixIntegerCell : Obligations.MatrixIntegerCell := by
  unfold Obligations.MatrixIntegerCell
  intro as bs acc hlen hb hne
  refine ⟨fun n => ?_, fun cs ds n h64 => ?_, fun md x y a _ _ hy _ => ?_⟩
  · exact cellInt_of_length_le (n + 1) acc hne hlen (hb ▸ hlen)
  · have h := cellInt_append n cs ds acc hne hb
    rwa [h64] at h
  · have hs8 : Ty.s8.intOf = fun n : Nat => if n < 2 ^ (8 - 1) then (n : Int) else (n : Int) - 2 ^ 8 := by
      funext n
      exact intOf_of_signed rfl n
    have hs32 : Ty.s32.intOf a = if a < 2 ^ (32 - 1) then (a : Int) else (a : Int) - 2 ^ 32 := intOf_of_signed rfl a
    rw [mmaCell_s8, List.take_length, List.take_of_length_le hy.le, hs8, hs32]
    rfl

end Sys2Proof.Machine
end
